-- ==== Sys2Proof/Word.lean ====
section
/-!
DEFINITION. The word types of the KG9-A288 and their plainest arithmetic (00_scope R3, R6; 06_numbers R93).
-/
namespace Sys2Proof

/-- A byte of memory. -/
abbrev Byte := BitVec 8
/-- A word: 32 bits, one instruction word or one v register (R6, R67). -/
abbrev Word := BitVec 32
/-- A scalar register, a vpc entry, an address under computation (R67, R39). -/
abbrev DWord := BitVec 64
/-- A set of the 32 lanes of a group, bit j for lane j. -/
abbrev Mask := BitVec 32

namespace Word

/-- The double word whose low half is `lo` (a pair of v registers, R66). -/
def pair (lo hi : Word) : DWord := hi ++ lo
/-- Bits [31:0] of a double word. -/
def lo (x : DWord) : Word := x.setWidth 32
/-- Bits [63:32] of a double word. -/
def hi (x : DWord) : Word := (x >>> 32).setWidth 32

end Word
end Sys2Proof
end

