-- ==== Sys2Proof/Config.lean ====
section
/-!
DEFINITION. What one part fixes: the numbers of the organisation chapter, and the free values, which the manual leaves open.
A free value is an uninterpreted constant: nothing can evaluate it, so a claim that holds holds whatever it is.
-/
namespace Sys2Proof.Config

/-- Lanes of a group (00_scope, R10 table). -/
def lanes : Nat := 32
/-- Resident group slots of a core (R15). -/
def groupSlots : Nat := 64
/-- Blocks of the register pool of a core (R15). -/
def poolBlocks : Nat := 1024
/-- Resident teams of a core (R15, R36). -/
def teamSlots : Nat := 16
/-- Named barriers of a core (R15). -/
def coreBarriers : Nat := 512
/-- Call-stack entries of a lane (R205). -/
def stackDepth : Nat := 16
/-- Bytes of the operand buffer of a core (R340). -/
def operandBuffer : Nat := 262144
/-- Writer slots of the package (R36). -/
def writerSlots : Nat := 4096
/-- First writer slot that the fabric ports take while FAB = 1 (R389). -/
def fabricSlotBase : Nat := 0xFDC
/-- Memory cycles that a lease may last (R382). -/
def leaseBound : Nat := 50000
/-- Bytes of an extent (R292). -/
def extentBytes : Nat := 2 ^ 26
/-- Extents of local logical space (R292). -/
def extents : Nat := 8192

/-- A free choice between two permitted outcomes. The arguments are the serial number of the step and what is chosen for, so that
every choice is independent of every other (R1; log entry 7, DESIGN CHOICE). -/
opaque freeBit : (serial site k : Nat) → Bool
/-- A free word, for a value that the manual leaves open (log entry 7, DESIGN CHOICE). -/
opaque freeWord : (serial site k : Nat) → Word
/-- A free number, for a choice among several (log entries 7, 9, DESIGN CHOICE). -/
opaque freeNat : (serial site k : Nat) → Nat
/-- A free byte (R384; log entry 7, DESIGN CHOICE). -/
opaque freeByte : (serial site k : Nat) → Byte
/-- What a core's %cycles read at reset (R25: counters of different cores are not synchronised; log entry 6, DESIGN CHOICE). -/
opaque cyclesBase : (core : Nat) → DWord
/-- The energy in microjoules charged to a kernel in one cycle (R409; log entries 6, 91, DESIGN CHOICE). -/
opaque energyStep : (launch cycle : Nat) → Nat
/-- Free log slack of a stack in MiB at a cycle (R294, R315: how much of a stack is slack is not given; log entry 11, DESIGN CHOICE). -/
opaque logSlack : (stack cycle : Nat) → Nat
/-- The capabilities that the part tells in its SPDM answer, whose bytes the manual does not give (R404; log entry 93, DESIGN CHOICE). -/
opaque capabilityBytes : (body : List Byte) → List Byte
/-- The certificate chain of the part's identity key, which ends at a Krynath root (R404: its bytes are not given; log entry 93, DESIGN CHOICE). -/
opaque certificateChain : List Byte
/-- SHA-384 of the public half of the identity key, which was generated inside the part (R404; log entry 93, DESIGN CHOICE). -/
opaque identityKey : List Byte
/-- The bytes of the ROM (R404: not given; log entry 93, DESIGN CHOICE). -/
opaque romBytes : List Byte
/-- The bytes in which what a measurement covers is given to the digest, whose order the manual does not give (R404; log entry 93, DESIGN CHOICE). -/
opaque measuredForm : (index : Nat) → (content : List Byte) → List Byte
/-- The micro-words that a signed firmware image holds for a stack's sequencer (R21: only that firmware, which the manual does not give, fills the control store; log
entry 93, DESIGN CHOICE). -/
opaque microWord : (image : List (BitVec 8)) → (stack i : Nat) → Nat
/-- The module power in watts that the part's PLDM numeric sensor reads at a cycle (R405: the reading is not given; log entry 90, DESIGN CHOICE). -/
opaque modulePower : (cycle : Nat) → Nat
/-- How far the hash of home slices turns the dies (`what` 0) and the slices of a die (`what` 1 plus its number) for a run of regions or lines as long as there are
dies or slices in service, within which each has its turn (R20: the hash is not architectural, and maps lines onto every slice; log entry 79, DESIGN CHOICE). -/
opaque homeHash : (what n : Nat) → Nat
/-- Leaf entries that the index lookaside cache of a slice can hold (R302: not given; log entry 79, DESIGN CHOICE). -/
opaque ilcEntries : Nat
/-- Bytes of shadow storage that the state of a group with an allotment takes (R19, R277: not given; log entry 80, DESIGN CHOICE). -/
opaque stateBytes : (alloc : Nat) → Nat
/-- Bytes of shadow storage of a die (R19). -/
def shadowBytes : Nat := 96 * 2 ^ 20
/-- Lines of an L2 slice of 2 MiB (R19). -/
def l2Lines : Nat := 16384
/-- Tuihel ports of a package (R389). -/
def ports : Nat := 36
/-- Where DEBUG READ and WRITE put a register of a halted group in the buffer, which the manual does not lay out (R290; log entry 29, DESIGN CHOICE): `what` 0
a v register, 1 an s register, 2 a predicate, 3 the vpc entry, 4 the progress of an outstanding copy. -/
opaque debugOffset : (what lane n : Nat) → Nat

/-- Bytes of a context's save area, by their offsets, that take saved state when it moves there, whose form the manual does not give (R278; log entry 7,
DESIGN CHOICE). -/
opaque savedBytes : (serial ctx : Nat) → List (Nat × Byte)

end Sys2Proof.Config
end

