-- ==== Sys2Proof/Syntax.lean ====
section
/-!
DEFINITION. The steps of the part: one constructor for every row of the table of operations and events. The operands of an
instruction word stand in one structure per shape of its fields (04_encoding R63); a field that is a register number, a code or a
count is a Nat, bounded by WellFormed; a displacement or immediate, which the part sign-extends, is a bit vector.
-/
namespace Sys2Proof

/-- Operands of format R, three registers and the S bit (R66, R128). -/
structure ArgsRS where
  (g d a b : Nat)
  (s : Bool)
  (stall : Nat)
  deriving DecidableEq, Repr

/-- Operands of format R, destination and one source (R130). -/
structure ArgsR2 where
  (g d a stall : Nat)
  deriving DecidableEq, Repr

/-- Operands of format R, three registers. -/
structure ArgsR3 where
  (g d a b stall : Nat)
  deriving DecidableEq, Repr

/-- Operands of LEA: shift k and the S bit (R133). -/
structure ArgsLea where
  (g d a b k : Nat)
  (s : Bool)
  (stall : Nat)
  deriving DecidableEq, Repr

/-- Operands of SEL: the predicate pm (R134). -/
structure ArgsSel where
  (g d a b p stall : Nat)
  deriving DecidableEq, Repr

/-- Operands of format I with a guard (R135). -/
structure ArgsImm where
  (g d a : Nat)
  (imm : BitVec 9)
  (stall : Nat)
  deriving DecidableEq, Repr

/-- Operands of MIX: the width code w, 0 to 6 (R138). -/
structure ArgsMix where
  (g d a b w stall : Nat)
  deriving DecidableEq, Repr

/-- Operands of scalar arithmetic: three s registers, guard 0 (R140). -/
structure ArgsS3 where
  (d a b stall : Nat)
  deriving DecidableEq, Repr

/-- Operands of SADDI (R141). -/
structure ArgsSImm where
  (d a : Nat)
  (imm : BitVec 9)
  (stall : Nat)
  deriving DecidableEq, Repr

/-- Operands of SLEA: shift k, 0 to 7 (R141). -/
structure ArgsSLea where
  (d a b k stall : Nat)
  deriving DecidableEq, Repr

/-- Operands of format R with a rounding mode (R143). -/
structure ArgsRM where
  (g d a b rm stall : Nat)
  deriving DecidableEq, Repr

/-- Operands of FMUL: rounding mode and the S bit (R143). -/
structure ArgsRMS where
  (g d a b rm : Nat)
  (s : Bool)
  (stall : Nat)
  deriving DecidableEq, Repr

/-- Operands of packed half: bf selects BF16 (R148). -/
structure ArgsH where
  (g d a b : Nat)
  (bf : Bool)
  (stall : Nat)
  deriving DecidableEq, Repr

/-- Operands of CVT: from, to, rounding mode, sat (R149). -/
structure ArgsCvt where
  (g d a src dst rm : Nat)
  (sat : Bool)
  (stall : Nat)
  deriving DecidableEq, Repr

/-- Operands of format C: pd1, pd2, combine type, condition (R74, R154). -/
structure ArgsCmp where
  (g p q a b k c : Nat)
  deriving DecidableEq, Repr

/-- Operands of MOVS: hi selects bits [63:32] (R156). -/
structure ArgsMovs where
  (g d a : Nat)
  (hi : Bool)
  (stall : Nat)
  deriving DecidableEq, Repr

/-- Operands of RDLN and WRLN: the lane (R158). -/
structure ArgsLn where
  (g d a lane stall : Nat)
  deriving DecidableEq, Repr

/-- Operands of RDSR and WRSR: the special register number (R68). -/
structure ArgsSr where
  (g d n stall : Nat)
  deriving DecidableEq, Repr

/-- Operands of RDPC (R161). -/
structure ArgsR1 where
  (g d stall : Nat)
  deriving DecidableEq, Repr

/-- Operands of PSET (R164). -/
structure ArgsPset where
  (g d b stall : Nat)
  deriving DecidableEq, Repr

/-- Operands of SLIT (R71). -/
structure ArgsLit where
  (d stall : Nat)
  deriving DecidableEq, Repr

/-- Operands of VLIT (R72). -/
structure ArgsVLit where
  (g d stall : Nat)
  deriving DecidableEq, Repr

/-- Operands of format M: data register, scalar base, vector index, counter (R186). -/
structure ArgsM where
  (g t base idx ctr : Nat)
  deriving DecidableEq, Repr

/-- Operands of format M without a vector index (R189, R342). -/
structure ArgsMTB where
  (g t base ctr : Nat)
  deriving DecidableEq, Repr

/-- Operands of format M without a data register (R194, R201). -/
structure ArgsMBI where
  (g base idx ctr : Nat)
  deriving DecidableEq, Repr

/-- Operands of LDF: clr is the .CLR bit (R192). -/
structure ArgsLdf where
  (g t base idx : Nat)
  (clr : Bool)
  (ctr : Nat)
  deriving DecidableEq, Repr

/-- Operands of GANG and OBREL: scalar base (R343, R348). -/
structure ArgsMB where
  (g base ctr : Nat)
  deriving DecidableEq, Repr

/-- Operands of ACCZ: accumulator (R357). -/
structure ArgsMT where
  (g t ctr : Nat)
  deriving DecidableEq, Repr

/-- Operands of NMC: entry number (R364). -/
structure ArgsNmc where
  (g t base entry ctr : Nat)
  deriving DecidableEq, Repr

/-- Operands of RFENCE (R320). -/
structure ArgsMC where
  (g ctr : Nat)
  deriving DecidableEq, Repr

/-- Operands of REL: scope and SEAL (R241). -/
structure ArgsRel where
  (g scope : Nat)
  (sealed : Bool)
  deriving DecidableEq, Repr

/-- Operands of ACQ and FENCE (R241). -/
structure ArgsScope where
  (g scope : Nat)
  deriving DecidableEq, Repr

/-- Operands of SYN words with a register and a scalar base (R212, R247, R311). -/
structure ArgsTB where
  (g t base : Nat)
  deriving DecidableEq, Repr

/-- Operands of FENCEX: the two path codes (R241). -/
structure ArgsPaths where
  (g pa pb : Nat)
  deriving DecidableEq, Repr

/-- Operands of WAITC: condition and size (R219). -/
structure ArgsWaitc where
  (g t base op : Nat)
  (dword : Bool)
  deriving DecidableEq, Repr

/-- Operands of BARI (R212). -/
structure ArgsB where
  (g base : Nat)
  deriving DecidableEq, Repr

/-- Operands of REGRP: predicate and key register (R223). -/
structure ArgsRegrp where
  (g p v : Nat)
  deriving DecidableEq, Repr

/-- Operands of RGIVE: n4 is the new allotment divided by 4 (R229). -/
structure ArgsN where
  (g n4 : Nat)
  deriving DecidableEq, Repr

/-- Operands of RCLAIM: n4 and the status register (R230). -/
structure ArgsNB where
  (g n4 base : Nat)
  deriving DecidableEq, Repr

/-- Operands of BRA and CALL (R204). -/
structure ArgsJ where
  (g : Nat)
  (disp : BitVec 21)
  deriving DecidableEq, Repr

/-- Operands of BRX and CALLX (R206). -/
structure ArgsBx where
  (g a stall : Nat)
  deriving DecidableEq, Repr

/-- Operands of RET, EXIT, YIELD and NOP (R206, R73). -/
structure ArgsC where
  (g stall : Nat)
  deriving DecidableEq, Repr

/-- Operands of TRAP and BRK: the number n (R206). -/
structure ArgsTrap where
  (g n stall : Nat)
  deriving DecidableEq, Repr

/-- A translator of R175: each caches translations of its own. -/
inductive Translator where
  /-- The core of that rank. -/
  | core (rank : Nat)
  /-- The tile fetch unit of a core (R363). -/
  | tileFetch (rank : Nat)
  /-- A copy engine, 0 to 63. -/
  | copyEngine (n : Nat)
  /-- A network send unit, 0 to 5. -/
  | netSend (n : Nat)
  /-- The base-die sequencer of a stack. -/
  | sequencer (stack : Nat)
  deriving DecidableEq, Repr

/-- Where an uncorrectable data error lies (R203, R185, R227, R317, R360). -/
inductive ErrWhere where
  /-- A line in the L1 of a core. -/
  | l1Line (core line : Nat)
  /-- A write-combining buffer entry. -/
  | wcbEntry (entry : Nat)
  /-- The copy of a sector in L2 or in the log, read by that group. -/
  | sector (sector gid : Nat)
  /-- The data sector of a record of a segment in the log, which no reader has found yet: a bit of it has flipped (R316). -/
  | copy (segment record : Nat)
  /-- A page-table entry that the translation of that lane reads. -/
  | pageTable (op lane : Nat)
  /-- A page-table entry that a walk for that group reads: of a code fetch, or for a WAITC or SNAP that it is about to execute. -/
  | walk (gid : Nat)
  /-- A page-table entry that the front end's walk for the command at the head of a queue reads. -/
  | frontWalk (queue : Nat)
  /-- The scratchpad window of a team, a bank read by a BAU included. -/
  | scratchpad (team : Nat)
  /-- A register of that lane during regroup relocation. -/
  | regrpRegister (gid lane : Nat)
  /-- The operand buffer, in a range of that team. -/
  | operandBuffer (team : Nat)
  deriving DecidableEq, Repr

/-- What a segment shipper brings a replica (R319): a publication of this device under way to a peer, by its number; or, of another device, what one of its
publications wrote in replica extents of this device, or the whole image of one of them. -/
inductive Shipment where
  | own (ship : Nat)
  | publication (bytes : List (Nat × BitVec 8))
  | image (ext : Nat) (bytes : List (Nat × BitVec 8))
  deriving DecidableEq, Repr

/-- A Tuihel packet (R387): header fields, payload beats, and the port at which it arrives (R389). -/
structure Packet where
  ddev : Nat
  sdev : Nat
  kind : Nat
  sws : Nat
  seq : Nat
  op : Nat
  laddr : Nat
  beats : List (BitVec 128)
  port : Nat
  deriving DecidableEq, Repr

/-- A host write of a 64-bit register of the window (R396): the value, and whether it comes through the privileged function. -/
structure HostWrite where
  value : BitVec 64
  privileged : Bool
  deriving DecidableEq, Repr

/-- A host write of one of the two 64-bit registers of a 128-bit field of the window (R396, R398, R400): whether it is the upper one. -/
structure HalfWrite where
  high : Bool
  value : BitVec 64
  privileged : Bool
  deriving DecidableEq, Repr

/-- A write of the lower register of a receive queue with V = 0 (R400): the queue and the write. -/
structure Unbinding where
  queue : Nat
  write : HostWrite
  deriving DecidableEq, Repr

/-- An Ultra Ethernet message (R399): the transport address of the peer to which it goes or from which it comes (R398), receive queue, port, tag, remote offset
and bytes. -/
structure NetMessage where
  peer : BitVec 64
  rq : Nat
  port : Nat
  tag : BitVec 32
  off : BitVec 64
  data : List Byte
  deriving DecidableEq, Repr

/-- What fuses and self-test leave disabled (R29): dies, stacks, clusters, (cluster, position) pairs, (stack, pseudo-channel)
pairs, (die, L2 slice) pairs, the mask of unit bits of R27 withdrawn from every core, and those withdrawn from single cores, by 8 × cluster + position. -/
structure Disabled where
  offDies : List Nat
  offStacks : List Nat
  offClusters : List Nat
  offCores : List (Nat × Nat)
  offChannels : List (Nat × Nat)
  offSlices : List (Nat × Nat)
  offUnits : BitVec 10
  coreUnits : List (Nat × BitVec 10)
  deriving DecidableEq, Repr

/-- What can fail in a start beside what the state itself decides (R403, reasons 0x03 to 0x06): the training of stage 2, its control stores, and the fabric
discovery of stage 4. -/
inductive StartFault where
  | stackTraining
  | linkTraining
  | controlStore
  | discovery
  deriving DecidableEq, Repr

/-- What the outside of a start decides (R401): the units left disabled, what fabric discovery assigns, and what fails in it. -/
structure StartInput where
  disabled : Disabled
  devid : Nat
  hop1 : List Nat
  hop3 : List Nat
  fault : Option StartFault
  deriving DecidableEq, Repr

/-- An SPDM request (R404): its two parameter bytes and the bytes that follow. -/
structure SpdmRequest where
  param1 : Byte
  param2 : Byte
  body : List Byte
  deriving DecidableEq, Repr

/-- One constructor for every row of the table. The instruction words come with their operands; an event or command comes with
the arguments that name the one that occurs (a group, an operation and lane, a queue, a packet). The words stand first: the compiler of Lean
cannot build a constructor with fields beyond the 245th, and what is compiled builds words alone. -/
inductive Instr where
  /-- IADD, R128. -/
  | iadd (o : ArgsRS)
  /-- IADDS, R128. -/
  | iadds (o : ArgsRS)
  /-- IADDUS, R128. -/
  | iaddus (o : ArgsRS)
  /-- ISUB, R128. -/
  | isub (o : ArgsRS)
  /-- ISUBS, R128. -/
  | isubs (o : ArgsRS)
  /-- ISUBUS, R128. -/
  | isubus (o : ArgsRS)
  /-- IRSUB, R128. -/
  | irsub (o : ArgsRS)
  /-- IMUL, R128. -/
  | imul (o : ArgsRS)
  /-- IMULHI, R128. -/
  | imulhi (o : ArgsRS)
  /-- IMULHU, R128. -/
  | imulhu (o : ArgsRS)
  /-- IMAD, R128. -/
  | imad (o : ArgsRS)
  /-- AND, R128. -/
  | and (o : ArgsRS)
  /-- OR, R128. -/
  | or (o : ArgsRS)
  /-- XOR, R128. -/
  | xor (o : ArgsRS)
  /-- ANDN, R128. -/
  | andn (o : ArgsRS)
  /-- SHL, R129. -/
  | shl (o : ArgsRS)
  /-- SHR, R129. -/
  | shr (o : ArgsRS)
  /-- SAR, R129. -/
  | sar (o : ArgsRS)
  /-- ROL, R129. -/
  | rol (o : ArgsRS)
  /-- IMIN, R128. -/
  | imin (o : ArgsRS)
  /-- IMAX, R128. -/
  | imax (o : ArgsRS)
  /-- IMINU, R128. -/
  | iminu (o : ArgsRS)
  /-- IMAXU, R128. -/
  | imaxu (o : ArgsRS)
  /-- POPC, R130. -/
  | popc (o : ArgsR2)
  /-- CLZ, R130. -/
  | clz (o : ArgsR2)
  /-- BREV, R130. -/
  | brev (o : ArgsR2)
  /-- FFS, R130. -/
  | ffs (o : ArgsR2)
  /-- BFE, R131. -/
  | bfe (o : ArgsRS)
  /-- BFES, R131. -/
  | bfes (o : ArgsRS)
  /-- BFI, R132. -/
  | bfi (o : ArgsRS)
  /-- LEA, R133. -/
  | lea (o : ArgsLea)
  /-- SEL, R134. -/
  | sel (o : ArgsSel)
  /-- ADD64, R136. -/
  | add64 (o : ArgsRS)
  /-- SUB64, R136. -/
  | sub64 (o : ArgsRS)
  /-- MUL64, R136. -/
  | mul64 (o : ArgsRS)
  /-- MULW, R136. -/
  | mulw (o : ArgsRS)
  /-- IADDI, R135. -/
  | iaddi (o : ArgsImm)
  /-- MIX, R139. -/
  | mix (o : ArgsMix)
  /-- IDP4_SS, R137. -/
  | idp4Ss (o : ArgsRS)
  /-- IDP4_NN, R137. -/
  | idp4Nn (o : ArgsRS)
  /-- IDP4_SN, R137. -/
  | idp4Sn (o : ArgsRS)
  /-- SADD, R140. -/
  | sadd (o : ArgsS3)
  /-- SSUB, R140. -/
  | ssub (o : ArgsS3)
  /-- SMUL, R140. -/
  | smul (o : ArgsS3)
  /-- SMULHN, R140. -/
  | smulhn (o : ArgsS3)
  /-- SAND, R140. -/
  | sand (o : ArgsS3)
  /-- SOR, R140. -/
  | sor (o : ArgsS3)
  /-- SXOR, R140. -/
  | sxor (o : ArgsS3)
  /-- SANDN, R140. -/
  | sandn (o : ArgsS3)
  /-- SSHL, R140. -/
  | sshl (o : ArgsS3)
  /-- SSHR, R140. -/
  | sshr (o : ArgsS3)
  /-- SSAR, R140. -/
  | ssar (o : ArgsS3)
  /-- SMIN, R140. -/
  | smin (o : ArgsS3)
  /-- SMAX, R140. -/
  | smax (o : ArgsS3)
  /-- SMINU, R140. -/
  | sminu (o : ArgsS3)
  /-- SMAXU, R140. -/
  | smaxu (o : ArgsS3)
  /-- SADDI, R141. -/
  | saddi (o : ArgsSImm)
  /-- SLIT, R71. -/
  | slit (o : ArgsLit) (lit : BitVec 32)
  /-- SLIT_W64, R71. -/
  | slitW64 (o : ArgsLit) (lit0 lit1 : BitVec 32)
  /-- SLEA, R141. -/
  | slea (o : ArgsSLea)
  /-- FADD, R143. -/
  | fadd (o : ArgsRM)
  /-- FSUB, R143. -/
  | fsub (o : ArgsRM)
  /-- FMUL, R143. -/
  | fmul (o : ArgsRMS)
  /-- FFMA, R144. -/
  | ffma (o : ArgsRM)
  /-- FFMS, R144. -/
  | ffms (o : ArgsRM)
  /-- FMIN, R145. -/
  | fmin (o : ArgsRS)
  /-- FMAX, R145. -/
  | fmax (o : ArgsRS)
  /-- FMINP, R145. -/
  | fminp (o : ArgsRS)
  /-- FMAXP, R145. -/
  | fmaxp (o : ArgsRS)
  /-- FRCP, R146. -/
  | frcp (o : ArgsR2)
  /-- FRSQ, R146. -/
  | frsq (o : ArgsR2)
  /-- FSQRT, R146. -/
  | fsqrt (o : ArgsR2)
  /-- FEX2, R146. -/
  | fex2 (o : ArgsR2)
  /-- FLG2, R146. -/
  | flg2 (o : ArgsR2)
  /-- FSNT, R146. -/
  | fsnt (o : ArgsR2)
  /-- FCST, R146. -/
  | fcst (o : ArgsR2)
  /-- DADD, R147. -/
  | dadd (o : ArgsR3)
  /-- DSUB, R147. -/
  | dsub (o : ArgsR3)
  /-- DMUL, R147. -/
  | dmul (o : ArgsR3)
  /-- DFMA, R147. -/
  | dfma (o : ArgsR3)
  /-- DMIN, R147. -/
  | dmin (o : ArgsR3)
  /-- DMAX, R147. -/
  | dmax (o : ArgsR3)
  /-- DDIV, R147. -/
  | ddiv (o : ArgsR3)
  /-- DSQRT, R147. -/
  | dsqrt (o : ArgsR2)
  /-- HADD2, R148. -/
  | hadd2 (o : ArgsH)
  /-- HMUL2, R148. -/
  | hmul2 (o : ArgsH)
  /-- HFMA2, R148. -/
  | hfma2 (o : ArgsH)
  /-- HMAX2, R148. -/
  | hmax2 (o : ArgsH)
  /-- CVT, R150. -/
  | cvt (o : ArgsCvt)
  /-- PK8E4, R151. -/
  | pk8e4 (o : ArgsR3)
  /-- PK8E5, R151. -/
  | pk8e5 (o : ArgsR3)
  /-- PK4, R151. -/
  | pk4 (o : ArgsR3)
  /-- UP8E4, R152. -/
  | up8e4 (o : ArgsR3)
  /-- UP8E5, R152. -/
  | up8e5 (o : ArgsR3)
  /-- UP4, R152. -/
  | up4 (o : ArgsR3)
  /-- QI8, R153. -/
  | qi8 (o : ArgsR3)
  /-- DQ4, R153. -/
  | dq4 (o : ArgsR3)
  /-- ICMP, R154. -/
  | icmp (o : ArgsCmp)
  /-- UCMP, R154. -/
  | ucmp (o : ArgsCmp)
  /-- FCMP, R154. -/
  | fcmp (o : ArgsCmp)
  /-- DCMP, R154. -/
  | dcmp (o : ArgsCmp)
  /-- SCMP, R154. -/
  | scmp (o : ArgsCmp)
  /-- MOV, R157. -/
  | mov (o : ArgsR2)
  /-- MOVS, R157. -/
  | movs (o : ArgsMovs)
  /-- RDLN, R158. -/
  | rdln (o : ArgsLn)
  /-- WRLN, R158. -/
  | wrln (o : ArgsLn)
  /-- VLIT, R72. -/
  | vlit (o : ArgsVLit) (lit : BitVec 32)
  /-- RDSR, R159. -/
  | rdsr (o : ArgsSr)
  /-- WRSR, R160. -/
  | wrsr (o : ArgsSr)
  /-- RDPC, R161. -/
  | rdpc (o : ArgsR1)
  /-- SHFL_IDX, R163. -/
  | shflIdx (o : ArgsRS)
  /-- SHFL_UP, R163. -/
  | shflUp (o : ArgsRS)
  /-- SHFL_DOWN, R163. -/
  | shflDown (o : ArgsRS)
  /-- SHFL_XOR, R163. -/
  | shflXor (o : ArgsRS)
  /-- VALL, R164. -/
  | vall (o : ArgsR2)
  /-- VANY, R164. -/
  | vany (o : ArgsR2)
  /-- BALLOT, R164. -/
  | ballot (o : ArgsR2)
  /-- PAND, R164. -/
  | pand (o : ArgsR3)
  /-- POR, R164. -/
  | por (o : ArgsR3)
  /-- PXOR, R164. -/
  | pxor (o : ArgsR3)
  /-- PSET, R164. -/
  | pset (o : ArgsPset)
  /-- MATCH, R164. -/
  | vmatch (o : ArgsR2)
  /-- GRED_ADD, R165. -/
  | gredAdd (o : ArgsR3)
  /-- GRED_MIN, R165. -/
  | gredMin (o : ArgsR3)
  /-- GRED_MAX, R165. -/
  | gredMax (o : ArgsR3)
  /-- GRED_MINU, R165. -/
  | gredMinu (o : ArgsR3)
  /-- GRED_MAXU, R165. -/
  | gredMaxu (o : ArgsR3)
  /-- GRED_FADD, R165. -/
  | gredFadd (o : ArgsR3)
  /-- GRED_FMIN, R165. -/
  | gredFmin (o : ArgsR3)
  /-- GRED_FMAX, R165. -/
  | gredFmax (o : ArgsR3)
  /-- SCANI, R166. -/
  | scani (o : ArgsR3)
  /-- SCANX, R166. -/
  | scanx (o : ArgsR3)
  /-- SCANF, R166. -/
  | scanf (o : ArgsR3)
  /-- SCANFX, R166. -/
  | scanfx (o : ArgsR3)
  /-- SCANMAX, R166. -/
  | scanmax (o : ArgsR3)
  /-- SCANMIN, R166. -/
  | scanmin (o : ArgsR3)
  /-- SEGSCAN, R166. -/
  | segscan (o : ArgsR3)
  /-- LD_B, R187. -/
  | ldB (o : ArgsM)
  /-- LD_H, R187. -/
  | ldH (o : ArgsM)
  /-- LD_W, R187. -/
  | ldW (o : ArgsM)
  /-- LD_D, R187. -/
  | ldD (o : ArgsM)
  /-- LD_Q, R187. -/
  | ldQ (o : ArgsM)
  /-- LD_SB, R187. -/
  | ldSb (o : ArgsM)
  /-- LD_SH, R187. -/
  | ldSh (o : ArgsM)
  /-- LD_SC, R189. -/
  | ldSc (o : ArgsMTB)
  /-- ST_B, R188. -/
  | stB (o : ArgsM)
  /-- ST_H, R188. -/
  | stH (o : ArgsM)
  /-- ST_W, R188. -/
  | stW (o : ArgsM)
  /-- ST_D, R188. -/
  | stD (o : ArgsM)
  /-- ST_Q, R188. -/
  | stQ (o : ArgsM)
  /-- ST_SC, R189. -/
  | stSc (o : ArgsMTB)
  /-- LDS_B, R191. -/
  | ldsB (o : ArgsM)
  /-- LDS_H, R191. -/
  | ldsH (o : ArgsM)
  /-- LDS_W, R191. -/
  | ldsW (o : ArgsM)
  /-- LDS_D, R191. -/
  | ldsD (o : ArgsM)
  /-- LDS_Q, R191. -/
  | ldsQ (o : ArgsM)
  /-- LDS_SB, R191. -/
  | ldsSb (o : ArgsM)
  /-- LDS_SH, R191. -/
  | ldsSh (o : ArgsM)
  /-- STS_B, R191. -/
  | stsB (o : ArgsM)
  /-- STS_H, R191. -/
  | stsH (o : ArgsM)
  /-- STS_W, R191. -/
  | stsW (o : ArgsM)
  /-- STS_D, R191. -/
  | stsD (o : ArgsM)
  /-- STS_Q, R191. -/
  | stsQ (o : ArgsM)
  /-- STSF, R193. -/
  | stsf (o : ArgsM)
  /-- SETE, R194. -/
  | sete (o : ArgsMBI)
  /-- LDF_W, R192. -/
  | ldfW (o : ArgsLdf)
  /-- LDF_D, R192. -/
  | ldfD (o : ArgsLdf)
  /-- LDF_Q, R192. -/
  | ldfQ (o : ArgsLdf)
  /-- LDA_W, R190. -/
  | ldaW (o : ArgsM)
  /-- LDA_D, R190. -/
  | ldaD (o : ArgsM)
  /-- LDA_Q, R190. -/
  | ldaQ (o : ArgsM)
  /-- STA_W, R190. -/
  | staW (o : ArgsM)
  /-- STA_D, R190. -/
  | staD (o : ArgsM)
  /-- STA_Q, R190. -/
  | staQ (o : ArgsM)
  /-- ATOM_ADD, R196. -/
  | atomAdd (o : ArgsM)
  /-- ATOM_SMIN, R196. -/
  | atomSmin (o : ArgsM)
  /-- ATOM_SMAX, R196. -/
  | atomSmax (o : ArgsM)
  /-- ATOM_UMIN, R196. -/
  | atomUmin (o : ArgsM)
  /-- ATOM_UMAX, R196. -/
  | atomUmax (o : ArgsM)
  /-- ATOM_AND, R196. -/
  | atomAnd (o : ArgsM)
  /-- ATOM_OR, R196. -/
  | atomOr (o : ArgsM)
  /-- ATOM_XOR, R196. -/
  | atomXor (o : ArgsM)
  /-- ATOMX_XCHG32, R196. -/
  | atomxXchg32 (o : ArgsM)
  /-- ATOMX_XCHG64, R196. -/
  | atomxXchg64 (o : ArgsM)
  /-- ATOMX_ADD64, R196. -/
  | atomxAdd64 (o : ArgsM)
  /-- ATOMX_FADD32, R197. -/
  | atomxFadd32 (o : ArgsM)
  /-- ATOMX_FMIN32, R196. -/
  | atomxFmin32 (o : ArgsM)
  /-- ATOMX_FMAX32, R196. -/
  | atomxFmax32 (o : ArgsM)
  /-- ATOMX_FADD64, R197. -/
  | atomxFadd64 (o : ArgsM)
  /-- ATOMX_INCW, R196. -/
  | atomxIncw (o : ArgsM)
  /-- CAS_32, R196. -/
  | cas32 (o : ArgsM)
  /-- CAS_64, R196. -/
  | cas64 (o : ArgsM)
  /-- ATOMS_ADD, R200. -/
  | atomsAdd (o : ArgsM)
  /-- ATOMS_SMIN, R200. -/
  | atomsSmin (o : ArgsM)
  /-- ATOMS_SMAX, R200. -/
  | atomsSmax (o : ArgsM)
  /-- ATOMS_UMIN, R200. -/
  | atomsUmin (o : ArgsM)
  /-- ATOMS_UMAX, R200. -/
  | atomsUmax (o : ArgsM)
  /-- ATOMS_AND, R200. -/
  | atomsAnd (o : ArgsM)
  /-- ATOMS_OR, R200. -/
  | atomsOr (o : ArgsM)
  /-- ATOMS_XOR, R200. -/
  | atomsXor (o : ArgsM)
  /-- PREF_L2, R201. -/
  | prefL2 (o : ArgsMBI)
  /-- PREF_L1, R201. -/
  | prefL1 (o : ArgsMBI)
  /-- BADD, R328. -/
  | badd (o : ArgsM)
  /-- BMAX, R328. -/
  | bmax (o : ArgsM)
  /-- BMIN, R328. -/
  | bmin (o : ArgsM)
  /-- BMUL, R328. -/
  | bmul (o : ArgsM)
  /-- BSMX, R329. -/
  | bsmx (o : ArgsM)
  /-- BIADD, R328. -/
  | biadd (o : ArgsM)
  /-- BIMAX, R328. -/
  | bimax (o : ArgsM)
  /-- BSET, R328. -/
  | bset (o : ArgsM)
  /-- GANG, R348. -/
  | gang (o : ArgsMB)
  /-- OBRES, R342. -/
  | obres (o : ArgsMTB)
  /-- OBREL, R343. -/
  | obrel (o : ArgsMB)
  /-- TFETCH, R345. -/
  | tfetch (o : ArgsM)
  /-- MMA, R353. -/
  | mma (o : ArgsMTB)
  /-- MMAQ, R354. -/
  | mmaq (o : ArgsMTB)
  /-- ACCZ, R357. -/
  | accz (o : ArgsMT)
  /-- ACCZ_D, R357. -/
  | acczD (o : ArgsMT)
  /-- CPY, R366. -/
  | cpy (o : ArgsM)
  /-- CPYT, R369. -/
  | cpyt (o : ArgsMTB)
  /-- CPYN, R369. -/
  | cpyn (o : ArgsM)
  /-- NMC, R376. -/
  | nmc (o : ArgsNmc)
  /-- RFENCE, R320. -/
  | rfence (o : ArgsMC)
  /-- REL, R243. -/
  | rel (o : ArgsRel)
  /-- ACQ, R244. -/
  | acq (o : ArgsScope)
  /-- ACQR, R247. -/
  | acqr (o : ArgsTB)
  /-- FENCE, R245. -/
  | fence (o : ArgsScope)
  /-- FENCEX, R246. -/
  | fencex (o : ArgsPaths)
  /-- WAITC, R220. -/
  | waitc (o : ArgsWaitc)
  /-- SNAP, R312. -/
  | snap (o : ArgsTB)
  /-- REVERT, R313. -/
  | revert (o : ArgsTB)
  /-- SNDROP, R313. -/
  | sndrop (o : ArgsTB)
  /-- BARI, R213. -/
  | bari (o : ArgsB)
  /-- BARA, R214. -/
  | bara (o : ArgsTB)
  /-- BARW, R214. -/
  | barw (o : ArgsTB)
  /-- BARS, R214. -/
  | bars (o : ArgsTB)
  /-- BARB, R215. -/
  | barb (o : ArgsTB)
  /-- REGRP_TEAM, R223. -/
  | regrpTeam (o : ArgsRegrp)
  /-- REGRP_CORE, R223. -/
  | regrpCore (o : ArgsRegrp)
  /-- RGIVE, R229. -/
  | rgive (o : ArgsN)
  /-- RCLAIM, R230. -/
  | rclaim (o : ArgsNB)
  /-- BRA, R204. -/
  | bra (o : ArgsJ)
  /-- CALL, R204. -/
  | call (o : ArgsJ)
  /-- BRX, R207. -/
  | brx (o : ArgsBx)
  /-- CALLX, R207. -/
  | callx (o : ArgsBx)
  /-- RET, R207. -/
  | ret (o : ArgsC)
  /-- EXIT, R207. -/
  | exit (o : ArgsC)
  /-- YIELD, R208. -/
  | yield (o : ArgsC)
  /-- TRAP, R209. -/
  | trap (o : ArgsTrap)
  /-- BRK, R209. -/
  | brk (o : ArgsTrap)
  /-- NOP, R73. -/
  | nop (o : ArgsC)
  /-- CLAUSE_ISSUE, R41. -/
  | clauseIssue (gid : Nat)
  /-- COUNTED_COMPLETION, R79. -/
  | countedCompletion (op lane : Nat)
  /-- COLLECTIVE_DEADLOCK, R45. -/
  | collectiveDeadlock (gid : Nat)
  /-- GROUP_END, R53. -/
  | groupEnd (gid : Nat)
  /-- ACTIVE_SET_EXCHANGE, R272. -/
  | activeSetExchange (core : Nat)
  /-- FORCED_SAVE, R277. -/
  | forcedSave (team : Nat)
  /-- DRAIN_TIMEOUT, R276. -/
  | drainTimeout (ctx : Nat)
  /-- SAVE_AREA_MOVE, R278. -/
  | saveAreaMove (ctx : Nat)
  /-- CLAIM_DEADLOCK, R231. -/
  | claimDeadlock (team : Nat)
  /-- BARRIER_ARRIVAL, R214. -/
  | barrierArrival (gid : Nat)
  /-- REGRP_RELOCATION, R225. -/
  | regrpRelocation (gid : Nat)
  /-- WCB_IDLE_DRAIN, R179. -/
  | wcbIdleDrain (entry : Nat)
  /-- WCB_ENTRY_LAND, R179. -/
  | wcbEntryLand (entry : Nat)
  /-- TRANSLATION, R173. -/
  | translation (op lane : Nat)
  /-- ATOMIC_PERFORM, R197. -/
  | atomicPerform (op addr : Nat)
  /-- REL_MARK_STEP, R243. -/
  | relMarkStep (gid : Nat)
  /-- ACQR_PROMOTION, R247. -/
  | acqrPromotion (gid : Nat)
  /-- L1_INVALIDATE, R237. -/
  | l1Invalidate (core line : Nat)
  /-- LONG_WAIT, R285. -/
  | longWait (monitor : Nat)
  /-- SHOOTDOWN_ARRIVAL, R175. -/
  | shootdownArrival (shoot : Nat) (at_ : Translator)
  /-- SHOOTDOWN_COMPLETE, R175. -/
  | shootdownComplete (shoot : Nat)
  /-- LOG_APPEND, R305. -/
  | logAppend (line slot : Nat)
  /-- CHISEL_MOVE, R314. -/
  | chiselMove (seg : Nat)
  /-- L2_FILL, R316. -/
  | l2Fill (sector gid : Nat) (bad : Bool)
  /-- SEGMENT_SHIP, R319. -/
  | segmentShip (seg peer : Nat)
  /-- REPLICA_APPLY, R319. -/
  | replicaApply (what : Shipment)
  /-- REPLICA_CATCH_UP, R319. -/
  | replicaCatchUp (ext peer : Nat)
  /-- MATCHED_SET_BREAK, R350. -/
  | matchedSetBreak (gid : Nat)
  /-- COPY_WRITE_LAND, R370. -/
  | copyWriteLand (op part : Nat)
  /-- COPY_COMPLETE, R372. -/
  | copyComplete (op : Nat)
  /-- CPYN_ABANDON, R369. -/
  | cpynAbandon (op : Nat)
  /-- LEASE_BOUND, R382. -/
  | leaseBound (team : Nat)
  /-- SEQUENCER_WATCHDOG, R384. -/
  | sequencerWatchdog (stack : Nat)
  /-- LEASE_REESTABLISH, R383. -/
  | leaseReestablish (team : Nat)
  /-- ROWCOPY, R378. -/
  | rowcopy (stack : Nat)
  /-- ROWZERO, R378. -/
  | rowzero (stack : Nat)
  /-- BUFCOPY, R378. -/
  | bufcopy (stack : Nat)
  /-- ABENTER, R382. -/
  | abenter (stack : Nat)
  /-- BCAST, R378. -/
  | bcast (stack : Nat)
  /-- GEMV, R379. -/
  | gemv (stack : Nat)
  /-- READACC, R378. -/
  | readacc (stack : Nat)
  /-- ABEXIT, R382. -/
  | abexit (stack : Nat)
  /-- ACCCLR, R378. -/
  | accclr (stack : Nat)
  /-- LEASEQ, R378. -/
  | leaseq (stack : Nat)
  /-- ROWFILL, R378. -/
  | rowfill (stack : Nat)
  /-- UNCORRECTABLE_ERROR, R203. -/
  | uncorrectableError (w : ErrWhere)
  /-- UNREACHABLE, R393. -/
  | unreachable (dev : Nat)
  /-- RECEIVE_MESSAGE, R399. -/
  | receiveMessage (m : NetMessage)
  /-- PACKET_DROP, R388. -/
  | packetDrop (p : Packet)
  /-- LDREQ, R388. -/
  | ldreq (p : Packet)
  /-- LDRSP, R388. -/
  | ldrsp (p : Packet)
  /-- STORE, R388. -/
  | store (p : Packet)
  /-- STACK, R388. -/
  | stack (p : Packet)
  /-- ATOMIC, R388. -/
  | atomic (p : Packet)
  /-- ATRSP, R388. -/
  | atrsp (p : Packet)
  /-- PUBLISH, R388. -/
  | publish (p : Packet)
  /-- PUBACK, R388. -/
  | puback (p : Packet)
  /-- DEMAND, R390. -/
  | demand (p : Packet)
  /-- GRANT, R390. -/
  | grant (p : Packet)
  /-- DISCARD, R394. -/
  | discard (p : Packet)
  /-- START, R401. -/
  | start (o : StartInput)
  /-- START_TIMEOUT, R401. -/
  | startTimeout (stage : Nat)
  /-- PLDM_CLEAR_FAILCNT, R402. -/
  | pldmClearFailcnt
  /-- POWER_CAP, R405. -/
  | powerCap (watts : Nat)
  /-- THROTTLE_STEP_CHANGE, R405. -/
  | throttleStepChange (core newStep : Nat)
  /-- RAMP_END, R408. -/
  | rampEnd (core : Nat)
  /-- GET_VERSION, R404. -/
  | getVersion (q : SpdmRequest)
  /-- GET_CAPABILITIES, R404. -/
  | getCapabilities (q : SpdmRequest)
  /-- NEGOTIATE_ALGORITHMS, R404. -/
  | negotiateAlgorithms (q : SpdmRequest)
  /-- GET_DIGESTS, R404. -/
  | getDigests (q : SpdmRequest)
  /-- GET_CERTIFICATE, R404. -/
  | getCertificate (q : SpdmRequest)
  /-- CHALLENGE, R404. -/
  | challenge (q : SpdmRequest)
  /-- GET_MEASUREMENTS, R404. -/
  | getMeasurements (q : SpdmRequest)
  /-- QDB, R256. -/
  | qdb (q : Nat) (v : HostWrite)
  /-- EVDB, R284. -/
  | evdb (ctx v : Nat)
  /-- Q0RING, R256. -/
  | q0ring (v : HostWrite)
  /-- SQBIND, R398. -/
  | sqbind (n : Nat) (v : HalfWrite)
  /-- RQBIND_BIND, R400. -/
  | rqbindBind (n : Nat) (v : HalfWrite)
  /-- RQBIND_UNBIND, R400. -/
  | rqbindUnbind (n : Unbinding)
  /-- REGISTER_WRITE, R396. -/
  | registerWrite (off : Nat) (v : BitVec 64)
  /-- LAUNCH, R266. -/
  | launch (queue : Nat)
  /-- COPY, R263. -/
  | copy (queue : Nat)
  /-- SIGNAL, R263. -/
  | signal (queue : Nat)
  /-- WAIT, R263. -/
  | wait (queue : Nat)
  /-- EXTENT_CREATE, R297. -/
  | extentCreate (queue : Nat)
  /-- EXTENT_DESTROY, R298. -/
  | extentDestroy (queue : Nat)
  /-- EXTENT_SETREPL, R320. -/
  | extentSetrepl (queue : Nat)
  /-- EXTENT_QUERY, R296. -/
  | extentQuery (queue : Nat)
  /-- EXTENT_SNAP, R296. -/
  | extentSnap (queue : Nat)
  /-- EXTENT_REVERT, R296. -/
  | extentRevert (queue : Nat)
  /-- EXTENT_SNDROP, R296. -/
  | extentSndrop (queue : Nat)
  /-- EXTENT_PROMOTE, R321. -/
  | extentPromote (queue : Nat)
  /-- EXTENT_LOAD, R296. -/
  | extentLoad (queue : Nat)
  /-- SAVE_DRAIN, R276. -/
  | saveDrain (queue : Nat)
  /-- SAVE_FORCE, R277. -/
  | saveForce (queue : Nat)
  /-- RESUME, R279. -/
  | resume (queue : Nat)
  /-- REPLAY, R286. -/
  | replay (queue : Nat)
  /-- CANCELW, R263. -/
  | cancelw (queue : Nat)
  /-- SHOOT, R175. -/
  | shoot (queue : Nat)
  /-- DEBUG_ARM, R290. -/
  | debugArm (queue : Nat)
  /-- DEBUG_DISARM, R290. -/
  | debugDisarm (queue : Nat)
  /-- DEBUG_HALT_CMD, R290. -/
  | debugHaltCmd (queue : Nat)
  /-- DEBUG_READ, R290. -/
  | debugRead (queue : Nat)
  /-- DEBUG_WRITE, R290. -/
  | debugWrite (queue : Nat)
  /-- DEBUG_CONT, R290. -/
  | debugCont (queue : Nat)
  /-- DEBUG_CLRERR, R290. -/
  | debugClrerr (queue : Nat)
  /-- PART, R261. -/
  | part (queue : Nat)
  /-- CTX, R262. -/
  | ctx (queue : Nat)
  /-- QUEUE_BIND, R263. -/
  | queueBind (queue : Nat)
  /-- QUEUE_UNBIND, R263. -/
  | queueUnbind (queue : Nat)
  /-- CTXEND, R259. -/
  | ctxend (queue : Nat)
  /-- UNKNOWN_COMMAND, R259. -/
  | unknownCommand (queue : Nat)
  /-- LINK_LEVEL_ACKNOWLEDGEMENT, R393. -/
  | linkLevelAcknowledgement (dev : Nat)
  deriving DecidableEq, Repr

end Sys2Proof
end

