-- ==== Sys2Proof/Machine/State.lean ====
section
/-!
DEFINITION. The state of the part: plain data, every piece of state the manual names, and the model's own fields (the cycle count,
the serial number of the free choices, the agenda, the focus; log entry 1, DESIGN CHOICE). Groups, teams, launches, contexts, extents and the
other objects stand in flat lists and are found by their numbers.
-/
namespace Sys2Proof.Machine

/-- A memory that reads zero where nothing is listed: addresses strictly rising, no zero byte listed. -/
abbrev Memory := List Host.Cell
/-- Bytes that stand over a memory (pending data, a write-combining entry): addresses strictly rising; unlisted means no byte. -/
abbrev Overlay := List Host.Cell

/-! ## Lanes and groups -/

/-- A v register written by a fixed-latency word not long ago (R76 to R78): the number of the word, the value before, the latency, whether
the lane issued the word, the lane's issue distance count before the word (R76) and the group's after it (R126). -/
structure Fresh where
  word : Nat
  reg : Nat
  old : Word
  lat : Nat
  own : Bool
  lane0 : Nat
  group0 : Nat
  deriving DecidableEq, Repr

/-- The same for an s register: `issuers` are the lanes that issued the word, `lane0` their distance counts then (R126). -/
structure SFresh where
  word : Nat
  reg : Nat
  old : DWord
  lat : Nat
  issuers : Mask
  lane0 : List Nat
  group0 : Nat
  deriving DecidableEq, Repr

/-- A v register pending on a counted word (R80): the counter, the operation, whether a matrix word made it so (R356), and whether
a later word's write stays when the operation completes (R80). -/
structure Pend where
  reg : Nat
  ctr : Nat
  op : Nat
  mx : Bool
  keep : Bool
  deriving DecidableEq, Repr

/-- An s register pending on LD.SC (R80, R189): the lanes that have not yet started a clause that waits for the counter. -/
structure SPend where
  reg : Nat
  ctr : Nat
  op : Nat
  lanes : Mask
  keep : Bool
  deriving DecidableEq, Repr

/-- A lane (R67, R35, R205). -/
structure Lane where
  /-- v0 to v63; registers at and above the allotment hold nothing that can be read. -/
  v : List Word
  /-- p0 to p7; p0 reads true whatever stands here. -/
  p : List Bool
  /-- sb0 to sb3. -/
  sb : List Nat
  vpc : DWord
  /-- The call stack, newest entry first; its length is the depth. -/
  stack : List DWord
  origin : DWord
  exited : Bool
  /-- The team whose tag the lane carries. -/
  team : Nat
  /-- Sum of the issue-distance contributions of the words the lane has issued (R76). -/
  dist : Nat
  fresh : List Fresh
  pend : List Pend
  deriving DecidableEq, Repr

/-- Why the lanes of a clause in progress do not go on. -/
inductive Wait where
  /-- They do. -/
  | none
  /-- The word is tried again: a full counter (R79), or accesses that an ordering word waits for. -/
  | retry
  /-- WAITC or SNAP, once the host answers its replayable fault (R174): the address and the compare value that it read, and the next object number at its
  first try. -/
  | held (a v since : Nat)
  /-- The same word is tried: after such an answer, once accesses that its read follows have been performed, or once L2 holds the line (R174, R234, R316). -/
  | look (a v since : Nat) (again : Bool)
  /-- The word executes once for the issue of its clause, and lanes of that issue have not come to it yet (R65; log entry 68). -/
  | join
  /-- The word is tried again once the LS accesses issued before it have completed: the next object number at its issue (R312). -/
  | after (since : Nat)
  /-- The same for REVERT and SNDROP, with the handle that the word read when it issued (R313). -/
  | cast (handle since : Nat)
  /-- A release, or the release part of a fence (R242, R243, R245), before the mark step of the first of the teams that are left: scope, SEAL, whether
  an acquire follows, the next object number at issue, and the teams, which are those of R242 at its issue in their order. -/
  | rel (scope : Nat) (sealed acq : Bool) (since : Nat) (teams : List Nat)
  /-- After it, while no segment is free for the lines that REL.SEAL appends (R306, R315). -/
  | relSeal (scope : Nat) (acq : Bool) (since : Nat) (teams : List Nat)
  /-- After it, until the team's remote publications and host stores are done (R243, R251): whether the publications have been asked for. -/
  | relRemote (scope : Nat) (sealed acq asked : Bool) (since : Nat) (teams : List Nat)
  /-- An acquire: the point of publication order before which L1 copies must go, and the status register of an ACQR with its status (R244,
  R247). -/
  | acq (point since : Nat) (status : Option (Nat × Nat))
  /-- ACQR before its promotion (R247): core, kernel slot and index of the team, status register. -/
  | acqr (core kslot index t since : Nat)
  /-- FENCEX of two paths (R246). -/
  | fence (pa pb since : Nat)
  /-- WAITC (R220): the monitor, and the register that receives the value. -/
  | monitor (m t : Nat)
  /-- BARA and BARS before the arrival (R214): barrier, register, count, whether a wait follows, and the next object number at issue,
  below which the group's earlier operations have theirs. -/
  | arrive (bar t count : Nat) (thenWait : Bool) (since : Nat)
  /-- BARW and BARS: barrier, register, and the token each lane waits on (R214). -/
  | barrier (bar t : Nat) (tokens : List (Nat × Nat))
  /-- RCLAIM: new allotment and status register; `since` orders the claims (R230). -/
  | claim (n sreg since : Nat)
  /-- REGRP: CORE form, predicate, the lanes' keys, the groups that take part (R223, R224). -/
  | regrp (core : Bool) (p : Nat) (keys : List (Nat × Nat)) (parts : List Nat)
  /-- LDF: the operation (R192). -/
  | ldf (op : Nat)
  deriving DecidableEq, Repr

/-- A replayable fault that the host has not answered (R174): the number of its record, the lanes held, the address, the access. -/
structure Hold where
  seq : Nat
  lanes : Mask
  vaddr : Nat
  acc : Nat
  deriving DecidableEq, Repr

/-- A clause that lanes of a group are executing: the address of its header, its words as they were read and checked at issue (R82),
the next word, the lanes, whether it yields, and the wait of its lanes. `targets` holds the vpc entries that its last word sets. Lanes of one issue
that have parted stand in several runs, with the same `issue`, the cycle in which the clause issued; `ran` holds the positions of scalar words that one of
the others has executed for the issue (R126; log entry 68). -/
structure Run where
  hdr : DWord
  words : List Word
  pos : Nat
  lanes : Mask
  yields : Bool
  targets : List (Nat × DWord)
  wait : Wait
  issue : Nat
  ran : List Nat
  deriving DecidableEq, Repr

/-- Where a group is (R36, R274, R277). -/
inductive Place where
  /-- In a resident slot of a core. -/
  | resident (core slot : Nat)
  /-- Spilled from a core. -/
  | spilled (core : Nat)
  /-- Saved with its context. -/
  | saved
  deriving DecidableEq, Repr

/-- A group (R67, R40, R272, R289, R347). -/
structure Group where
  gid : Nat
  /-- The team that owns the slot (R228), the launch group number j, and blocks of the slot that are in the budget of no team any more, because the team that
  owned it has been killed (R48, R228). -/
  owner : Nat
  launchGrp : Nat
  lent : Nat
  place : Place
  /-- The resident slot that it had last (R279, R347). -/
  lastSlot : Nat
  alloc : Nat
  lanes : List Lane
  /-- s0 to s63; s0 reads zero whatever stands here. -/
  s : List DWord
  fpflags : BitVec 6
  gang : DWord
  /-- MMA and MMAQ words issued since the latest GANG (R349). -/
  mmaCount : Nat
  /-- Gangs that the group has left, with the number of words it issued in each (R350). -/
  former : List (DWord × Nat)
  runs : List Run
  dist : Nat
  sfresh : List SFresh
  spend : List SPend
  /-- In the active set (R272), the step of its last issue, and when it became pending (R273). -/
  active : Bool
  /-- It has yielded in this step, and returns at once where no other pending group has a ready lane (R273). -/
  yielded : Bool
  /-- A lane with a full call stack was to enter the handler with a replay report in this step: the group ends (R288). -/
  overflowed : Bool
  lastIssue : Nat
  pendingSince : Nat
  /-- Replayable faults not answered: the group issues no clause while there is one (R174). -/
  holds : List Hold
  /-- A replay report that its lanes receive before issue resumes, once none of them is in a clause (R288): lanes, address, entry. -/
  report : Option (Mask × Nat × DWord)
  /-- Halted at a breakpoint (R289). -/
  halted : Bool
  /-- A fatal answer that waits until the group is resident (R286). -/
  doomed : Bool
  ended : Bool
  deriving DecidableEq, Repr

/-! ## Teams -/

/-- The mode of a named barrier (R210). -/
inductive BarMode where
  | all | fixed | byte
  deriving DecidableEq, Repr

/-- A named barrier (R210, R211): members and arrivals hold %origin values; `groups` the groups that belong to it in BYTE mode. -/
structure Barrier where
  broken : Bool
  mode : BarMode
  exp : Nat
  ph : Nat
  cnt : Nat
  members : List DWord
  arrived : List DWord
  groups : List Nat
  deriving DecidableEq, Repr

/-- An operand-buffer reservation (R340 to R342): number, record, base and length of the range, its bytes. -/
structure Reservation where
  num : Nat
  record : BitVec 128
  base : Nat
  len : Nat
  data : Memory
  deriving DecidableEq, Repr

/-- The lease of a team on a pseudo-channel (R382, R383): `used` counts twenty-sevenths of a memory cycle (R22, R25). -/
inductive Lease where
  | none
  | held (stack channel used : Nat)
  | lost
  /-- Saved with the DMU state of the 16 banks: broadcast registers and accumulators. -/
  | saved (stack channel used : Nat) (bcast : List (List Word)) (acc : List (List Word))
  deriving DecidableEq, Repr

/-- What has become of a team (R280 STATE; waiting covers a relaunch that waits for a core). -/
inductive TeamState where
  | waiting | resident | saved | retired | killed
  deriving DecidableEq, Repr

/-- A team (R32, R36, R48, R54, R280). -/
structure Team where
  tid : Nat
  launch : Nat
  /-- Linear index t and crew number. -/
  index : Nat
  crew : Nat
  state : TeamState
  core : Nat
  kslot : Nat
  /-- Writer slot, held until retirement or the end without relaunch; the number of it that the task record keeps; whether the retirement
  release has been performed (R54). -/
  wslot : Option Nat
  slotRec : Nat
  released : Bool
  budget : Nat
  window : Nat
  spad : Memory
  /-- Granules of the window whose full bit is 1, ascending. -/
  full : List Nat
  barriers : List Barrier
  reservations : List Reservation
  lease : Lease
  lcode : Nat
  pub : Bool
  att : Nat
  /-- A forced save has been asked for (R277): its groups start no clause. -/
  leaving : Bool
  /-- Its saved state stands in the context's save area (R278). -/
  inArea : Bool
  deriving DecidableEq, Repr

/-! ## Memory paths -/

/-- A write-combining buffer entry (R178); `drained` once it has left for its home slice (R179). -/
structure WcbEntry where
  id : Nat
  core : Nat
  line : Nat
  slot : Nat
  bytes : Overlay
  merged : Nat
  drained : Bool
  /-- Context and virtual addresses of its stores, for shootdowns (R175). -/
  ctx : Nat
  vaddrs : List Nat
  deriving DecidableEq, Repr

/-- Pending bytes at the home slices under one writer slot; a remote one carries its tag (SDEV, SWS) (R235, R388). -/
structure Pending where
  slot : Nat
  tag : Option (Nat × Nat)
  bytes : Overlay
  deriving DecidableEq, Repr

/-- A line held in the L1 of a core (R177, R237): its bytes as filled; the point of publication order, and the cycle, at which it became
stale; the writer slots that have published in it since. -/
structure L1Line where
  core : Nat
  line : Nat
  bytes : Memory
  stale : Option (Nat × Nat)
  writers : List Nat
  deriving DecidableEq, Repr

/-- A cached translation (R172): the core whose TLB of 128 entries it stands in, or none where it stands in the last-level TLB of its die; who walked
it, context, virtual base, page size, the leaf entry, and the translators of the die that a shootdown has since kept from it (R175). -/
structure TlbEntry where
  own : Option Nat
  who : Translator
  ctx : Nat
  base : Nat
  size : Nat
  leaf : DWord
  barred : List Translator
  deriving DecidableEq, Repr

/-- A word of local logical space that a publication has replaced while a launch was in progress (R176): its address, what it was, and the
next object number then, above the numbers of the launches that may still fetch it. -/
structure OldText where
  addr : Nat
  word : Nat
  before : Nat
  deriving DecidableEq, Repr

/-- Who holds a writer slot (R36). -/
inductive Holder where
  | team (tid : Nat)
  | copy (op : Nat)
  | receiveQueue (r : Nat)
  /-- A dead team's slot until every owner has answered DISCARD (R394). -/
  | discarding (tid : Nat)
  deriving DecidableEq, Repr

/-! ## The log -/

/-- A leaf entry of an armature (R300): the sector of the extent that it is for, V, Z, the stack and the physical sector of the copy, its writer slot, and
bits [17:0] of its mark. -/
structure LeafEntry where
  idx : Nat
  v : Bool
  z : Bool
  stack : Nat
  sector : Nat
  wslot : Nat
  mark : BitVec 18
  deriving DecidableEq, Repr

/-- A leaf in index storage (R299): the stack, its address in units of 8 KiB, and its entries that are not all zero. -/
structure Leaf where
  stack : Nat
  addr : Nat
  entries : List LeafEntry
  deriving DecidableEq, Repr

/-- A root entry with V = 1 (R299): its place, 0 to 511, and the stack and address of its leaf. -/
structure RootEntry where
  place : Nat
  stack : Nat
  leaf : Nat
  deriving DecidableEq, Repr

/-- A root (R299, R309): of an extent, the current one or that of a held cast; the entries with V = 1. -/
structure Root where
  ext : Nat
  cast : Option Nat
  entries : List RootEntry
  deriving DecidableEq, Repr

/-- A predecessor that the armature of an extent keeps with a pending entry (R301). -/
structure Predecessor where
  ext : Nat
  entry : LeafEntry
  deriving DecidableEq, Repr

/-- A cast (R309, R310): index, generation, the image it denotes, and the lost sectors of that image. -/
structure Cast where
  idx : Nat
  gen : Nat
  image : Memory
  lost : List Nat
  deriving DecidableEq, Repr

/-- An extent (R293, R295). The image stands in the published image of local logical space. `gens` holds the last generation of each
cast index taken; `row0` is the physical row P of R308. -/
structure Extent where
  num : Nat
  ctx : Nat
  kind : Nat
  home : Nat
  seg : Nat
  pc : Nat
  cold : Nat
  thr : Nat
  nrep : Nat
  pdev0 : Nat
  pext0 : Nat
  pdev1 : Nat
  pext1 : Nat
  casts : List Cast
  gens : List (Nat × Nat)
  row0 : Nat
  /-- It was created on the privileged queue (R262). -/
  priv : Bool
  deriving DecidableEq, Repr

/-- What a sector holds in one reading of it: the published value, or what stands pending under a writer slot, of this device's own stores or, at the slot of a
port, with a tag (R235, R389). -/
abbrev Version := Option (Nat × Option (Nat × Nat))

/-- A summary record with V = 1 (R304), with the data sector that it is for (R303). -/
structure SumRec where
  crc : BitVec 32
  idx : Nat
  ext : Nat
  mark : BitVec 32
  wslot : Nat
  /-- Under the slot of a port, the tag under which the copy is pending (R389). -/
  tag : Option (Nat × Nat)
  /-- The 128 bytes of the data sector. -/
  data : List Byte
  /-- Published or pending; dead (discarded, replaced while pending, lost) where `live` is false; the point of publication order that its data holds. -/
  pending : Bool
  live : Bool
  point : Nat
  deriving DecidableEq, Repr

/-- The state of a segment (R306). -/
inductive SegState where
  | opened | sealed | settled | reclaimed
  deriving DecidableEq, Repr

/-- A segment (R303, R306): `base` is the physical sector number of its data sector 0, `size` the code SEG of its size, `writer` the cluster whose log
writer took it (R305); record i stands for data sector i. -/
structure Segment where
  num : Nat
  stack : Nat
  ext : Nat
  slot : Nat
  base : Nat
  size : Nat
  writer : Nat
  recs : List SumRec
  state : SegState
  /-- The sealing sequence at which it was sealed. -/
  seq : Nat
  /-- A chisel's destination segment (R314). -/
  chisel : Bool
  /-- Replica peers it has been shipped to. -/
  shipped : List Nat
  deriving DecidableEq, Repr

/-- A line of a logged extent that L2 holds dirty, with its tags (R305), and that of R389 where it is a peer's. -/
structure Dirty where
  line : Nat
  slot : Nat
  mark : BitVec 32
  pending : Bool
  tag : Option (Nat × Nat)
  deriving DecidableEq, Repr

/-- A whole image that a peer must install (R313, R319, R320): the extent, the number of ships made before its point, the image, the writer slot and mark of each
of its sectors, and whether the peer has had nothing of the extent before. -/
structure Behind where
  ext : Nat
  ship : Nat
  image : Memory
  tags : List (Nat × Nat × BitVec 32)
  first : Bool
  deriving DecidableEq, Repr

/-- A replica peer of a context (R318, R319): 0 or 1, device; whether it has installed a catch-up image since it was named, the slots
of which it has applied a step since; the image it holds of its replica extents, by the owner's addresses, with the writer slot and mark of what it holds of
each sector (R317); and the images that it must install, oldest first. -/
structure Peer where
  ctx : Nat
  which : Nat
  dev : Nat
  caught : Bool
  valid : List Nat
  image : Memory
  tags : List (Nat × Nat × BitVec 32)
  behind : List Behind
  deriving DecidableEq, Repr

/-- A publication under way to a peer (R319): context, peer, slot, the mark step it counts toward, whether it is a mark step, its
bytes, and the sectors that no settled segment has yet brought. -/
structure Ship where
  id : Nat
  ctx : Nat
  which : Nat
  slot : Nat
  mark : BitVec 32
  step : Bool
  bytes : Overlay
  point : Nat
  left : List Nat
  deriving DecidableEq, Repr

/-! ## Caches whose contents nobody sees (R19, R302) -/

/-- A line that an L2 slice holds (R19, R20): die, slice of the die, line, and which version of it. -/
structure L2Line where
  die : Nat
  slice : Nat
  line : Nat
  held : Version
  deriving DecidableEq, Repr

/-- A pin of a tile fetch on a line (R346): the team and the reservation whose range holds the bytes, the line, where in the range they stand, and how many. -/
structure Pin where
  team : Nat
  res : Nat
  line : Nat
  off : Nat
  len : Nat
  deriving DecidableEq, Repr

/-- A leaf entry that the index lookaside cache of a slice holds (R302): die, slice, sector of local logical space. -/
structure IlcEntry where
  die : Nat
  slice : Nat
  sector : Nat
  deriving DecidableEq, Repr

/-! ## Counted operations -/

/-- An atomic operation (R196). -/
inductive AtomOp where
  | add | smin | smax | umin | umax | and | or | xor
  | xchg | fadd | fmin | fmax | incw | cas
  deriving DecidableEq, Repr

/-- A bank operation (R328, R329). -/
inductive BankOp where
  | add | max | min | mul | smx | iadd | imax | set
  deriving DecidableEq, Repr

/-- How a copy tells of its completion (R365, R371, R372). -/
inductive CopyDone where
  | none
  | barrier (n : Nat)
  | stamp (addr : Nat) (value : DWord)
  deriving DecidableEq, Repr

/-- A counted operation (R79). `t` is the first destination register. -/
inductive OpKind where
  | load (size : Nat) (sext : Bool) (t : Nat)
  | loadScalar (t : Nat)
  | store (size : Nat)
  | storeScalar
  | atomic (op : AtomOp) (size t : Nat)
  | prefetch (l1 : Bool)
  | lds (size : Nat) (sext : Bool) (t : Nat)
  | sts (size : Nat)
  | stsf
  | sete
  | ldf (size : Nat) (clr : Bool) (t : Nat)
  | atomS (op : AtomOp) (t : Nat)
  | bank (op : BankOp) (fb : Nat)
  | gang (value : DWord)
  | obres (rec : BitVec 128) (t : Nat)
  | obrel (n : Nat)
  | tfetch (res : Nat)
  | mma (quant : Bool) (t : Nat) (control : DWord) (seq : Nat)
  | accz (t count : Nat)
  /-- Copies: one part for each lane (CPY), destination in the scratchpad, completion. -/
  | copy (perLane dsp : Bool) (done : CopyDone)
  /-- CPYN: send queue, receive queue, tag, remote offset. -/
  | send (sq rq : Nat) (tag : BitVec 32) (off : DWord) (done : CopyDone)
  | nmc (entry : Nat) (args : List Word) (t : Nat)
  | rfence (point : List (Nat × BitVec 32))
  /-- A COPY command of that queue and slot (R263). -/
  | copyCommand (queue slot : Nat) (done : CopyDone)
  deriving DecidableEq, Repr

/-- A translated address (R169, R182): page target, device, output address, L1 allowed. -/
structure Phys where
  tgt : Nat
  dev : Nat
  addr : Nat
  nl1 : Bool
  deriving DecidableEq, Repr

/-- How far one lane's or one piece's part of an operation has come. -/
inductive PartState where
  | issued
  /-- Held by a replayable fault with that SEQ (R174). -/
  | held (seq : Nat)
  /-- Translated. -/
  | ready (phys : Phys)
  /-- Performed piece by piece, for a peer waits for its answers (R182, R234, R388): the pieces that are left, and what the others brought. An
  emulated host atomic in progress has no piece left and what it read (R202). -/
  | remote (phys : Phys) (left : List Nat) (got : BitVec 128)
  /-- Performed; the value that completion delivers. -/
  | done (value : BitVec 128)
  | completed
  deriving DecidableEq, Repr

/-- One lane's or one piece's part: the lane (or piece number), its address, a second address (copies), its length, its data. -/
structure Part where
  lane : Nat
  addr : Nat
  addr2 : Nat
  len : Nat
  data : BitVec 128
  data2 : BitVec 128
  /-- The translated destination of a copy. -/
  dst : Option Phys
  /-- It was held by a replayable fault that the host answered: it is performed in the program order of its lane (R174). -/
  replayed : Bool
  st : PartState
  deriving DecidableEq, Repr

/-- An outstanding operation: the group and its counter, the team it acts for, the lanes whose counters it still holds. -/
structure Op where
  id : Nat
  gid : Nat
  team : Nat
  ctx : Nat
  ctr : Nat
  kind : OpKind
  parts : List Part
  counted : Mask
  /-- Point of publication order at issue. -/
  point : Nat
  /-- For NMC the extent once translated; for copies how far completion has come (R372). -/
  aux : Nat
  deriving DecidableEq, Repr

/-- A monitor (R220, R221): of a group's WAITC, or of a WAIT command. -/
structure Monitor where
  id : Nat
  /-- The group and its lanes, or none for a WAIT. -/
  gid : Option Nat
  queue : Nat
  slot : Nat
  ctx : Nat
  addr : Nat
  vaddr : Nat
  size : Nat
  op : Nat
  value : DWord
  since : Nat
  reported : Bool
  deriving DecidableEq, Repr

/-- A shootdown in progress (R175): the command that asked for it, its range, the translators it has reached. -/
structure Shoot where
  id : Nat
  queue : Nat
  slot : Nat
  ctx : Nat
  base : Nat
  len : Nat
  reached : List Translator
  /-- Accesses translated before the arrival that must land first: operation and part. -/
  ops : List (Nat × Nat)
  deriving DecidableEq, Repr

/-! ## Front end -/

/-- A command that has started and not completed (R257, R258). -/
structure Command where
  slot : Nat
  op : Nat
  tag : BitVec 32
  irq : Bool
  deriving DecidableEq, Repr

/-- A queue (R256). -/
structure Queue where
  num : Nat
  ctx : Nat
  latency : Bool
  ring : Nat
  n : Nat
  head : Nat
  tail : Nat
  running : List Command
  deriving DecidableEq, Repr

/-- A partition (R261). -/
structure Partition where
  num : Nat
  spk : Nat
  strict : Bool
  lwn : Nat
  spn : Nat
  drn : Nat
  rsvmask : BitVec 32
  clmask : BitVec 32
  deriving DecidableEq, Repr

/-- A context (R262, R283, R284, R290). -/
structure Context where
  num : Nat
  pnum : Nat
  ptroot : Nat
  savex : Nat
  saven : Nat
  evring : Nat
  evn : Nat
  evhead : Nat
  evtail : Nat
  seq : Nat
  /-- Records that wait for space (replayable faults). -/
  evwait : List (BitVec 256)
  errst : DWord
  launches : Nat
  armed : Bool
  allstop : Bool
  saved : Bool
  /-- Saved state stands in the save area (R278). -/
  inArea : Bool
  /-- The queue and slot of a SAVE in progress, and when its drain started. -/
  saving : List (Nat × Nat)
  drainSince : Option Nat
  /-- RESUME commands with RETRY that wait. -/
  resuming : List (Nat × Nat)
  deriving DecidableEq, Repr

/-- A launch (R264 to R268). -/
structure Launch where
  lid : Nat
  ctx : Nat
  num : Nat
  queue : Nat
  slot : Nat
  params : DWord
  kdesc : DWord
  entry : DWord
  trap : DWord
  gx : Nat
  gy : Nat
  gz : Nat
  share : Nat
  checked : Bool
  latency : Bool
  feat : BitVec 32
  g : Nat
  c : Nat
  alloc : Nat
  reserve : Nat
  window : Nat
  barriers : Nat
  taskrec : Bool
  /-- Crews placed so far; teams killed without relaunch or code 0x0C recorded; elapsed cycles; energy. -/
  placed : Nat
  bad : Bool
  elapsed : Nat
  energy : Nat
  started : Bool
  deriving DecidableEq, Repr

/-- A vacation of a reserved cluster (R269): the cluster, the latency launch and its crew that it is for, when its drain started. -/
structure Vacation where
  cluster : Nat
  launch : Nat
  crew : Nat
  since : Nat
  deriving DecidableEq, Repr

/-- What the front end keeps of a core (R16, R270, R408). -/
structure CoreState where
  rank : Nat
  banks : Nat
  kslots : List (Option Nat)
  table : List (Option Nat)
  pointer : Nat
  step : Nat
  /-- 0 no ramp, 1 up, 2 down, with the cycles passed. -/
  ramp : Nat
  rampCycles : Nat
  deriving DecidableEq, Repr

/-! ## Engines, fabric, network, platform -/

/-- The DMU state of one pseudo-channel (R21, R382): 256 F16 elements and 64 F32 accumulators of each of 16 banks. -/
structure Dmu where
  stack : Nat
  channel : Nat
  bcast : List (List Word)
  acc : List (List Word)
  deriving DecidableEq, Repr

/-- A call that a sequencer has begun (R380, R381, R384): its stack and operation; the source bytes that it has read so far; the atoms that are left once it has
begun to write; those that it has written, with what they held; how long it has run, and how long no micro-word has retired, in twenty-sevenths of
a memory cycle (R22, R25). -/
structure CallRun where
  stack : Nat
  op : Nat
  got : Overlay
  left : Option (List (Nat × Nat))
  was : List (Nat × Nat)
  ran : Nat
  quiet : Nat
  deriving DecidableEq, Repr

/-- A request that a device has not answered (R388): the kind of its answer, the source's writer slot and the address that the answer repeats, and the operation, the
lane and the piece for which it was sent. -/
structure SentRequest where
  kind : Nat
  sws : Nat
  laddr : Nat
  op : Nat
  lane : Nat
  piece : Nat
  deriving DecidableEq, Repr

/-- The flow to or from a device (R390, R391, R393); `asked` are the requests that it has not answered, in the order in which they were sent; `atoms` are the packets of an atomic operation whose last has not come (R199). -/
structure Flow where
  dev : Nat
  sendSeq : Nat
  recvSeq : Nat
  early : List Packet
  asked : List SentRequest
  atoms : List Packet
  granted : Nat
  demanded : Nat
  unreachable : Bool
  /-- Packets that wait for granted bytes, and those behind them (R390). -/
  queue : List Packet
  deriving DecidableEq, Repr

/-- What a team waits for at another device (R251, R388, R394). -/
inductive AwaitKind where
  /-- A store that the owner has not accepted. -/
  | sent
  /-- A store that the owner holds pending. -/
  | held
  /-- The answer to a PUBLISH. -/
  | publish
  /-- The answer to a PUBLISH whose release is no more: its stores stay recorded as pending beside it (R393). -/
  | stray
  /-- The answer to a DISCARD. -/
  | discard
  deriving DecidableEq, Repr

/-- An entry of what a team waits for: the issuing group, the store's operation, the team, the device, the address of a store. -/
structure Await where
  gid : Nat
  op : Nat
  team : Nat
  dev : Nat
  addr : Nat
  kind : AwaitKind
  deriving DecidableEq, Repr

/-- A bound receive queue (R400): its register, its writer slot and the messages received since binding. -/
structure RecvQueue where
  num : Nat
  reg : BitVec 128
  slot : Nat
  count : Nat
  deriving DecidableEq, Repr

/-- BOOTST (R403) and the flash fields behind it (R402). -/
structure Boot where
  stage : Nat
  done : Bool
  maq : Bool
  failcnt : Nat
  reason : Nat
  failed : Bool
  flashCount : Nat
  flashReason : Nat
  deriving DecidableEq, Repr

/-- An ECDSA P-384 signature over a SHA-384 digest, kept as what it verifies: the digest that it signs, and SHA-384 of the key under which it verifies
(R401, R404; log entry 93, DESIGN CHOICE). -/
structure Signature where
  key : List Byte
  digest : List Byte
  deriving DecidableEq, Repr

/-- The fuses: the hash of the key of the firmware, and the rollback count (R401, R404). -/
structure Fuses where
  keyHash : List Byte
  rollback : Nat
  deriving DecidableEq, Repr

/-- The firmware image on the module flash: its version, its bytes, and its signature (R401). -/
structure Firmware where
  version : Nat
  image : List Byte
  signature : Signature
  deriving DecidableEq, Repr

/-- The algorithms of SPDM that the part has: ECDSA P-384 with SHA-384, and no other (R404). -/
inductive SpdmAlgorithm where
  | ecdsaP384Sha384
  deriving DecidableEq, Repr

/-- An answer of the part (R404): the code of the request, the algorithms it chose, its bytes, the measurements with their indices, and the signature of the
identity key. -/
structure SpdmAnswer where
  request : Nat
  chosen : Option SpdmAlgorithm
  body : List Byte
  measurements : List (Nat × List Byte)
  signature : Option Signature
  deriving DecidableEq, Repr

/-- The configuration record (R31) and the core feature words in order of cluster and position (R27), the pseudo-channels and the L2 slices (die, slice) in
service (R29), and the scope table (R12). -/
structure Configuration where
  record : BitVec 256
  features : List (BitVec 32)
  channels : List (Nat × Nat)
  slices : List (Nat × Nat)
  devid : Nat
  hop1 : List Nat
  hop3 : List Nat
  deriving DecidableEq, Repr

/-! ## The machine -/

/-- What comes next on the agenda: an event of the table, or a step of that group. -/
inductive Move where
  | event (i : Instr)
  | run (gid : Nat)
  deriving DecidableEq, Repr

/-- The state of the part. -/
structure State where
  /-- Cycle count and serial number of free choices (model's own). -/
  tick : Nat
  serial : Nat
  /-- Which agent moves next, oldest first; empty: the fixed order of step (model's own). -/
  agenda : List Move
  /-- The group whose word a word's meaning acts on (model's own). -/
  focus : Nat
  /-- The next number of an object (model's own). -/
  fresh : Nat
  /-- A dispatch opportunity that the front end has not yet used, and the partitions in which one has arisen (R267; model's own). -/
  dispatchDue : Bool
  dueIn : List Nat
  groups : List Group
  teams : List Team
  launches : List Launch
  ctxs : List Context
  parts : List Partition
  queues : List Queue
  cores : List CoreState
  vacations : List Vacation
  /-- The published image of local logical space. -/
  image : Memory
  /-- Words that stood in it since the launches in progress, which a fetch of code may still give (R176), newest first. -/
  texts : List OldText
  pending : List Pending
  wcb : List WcbEntry
  l1 : List L1Line
  tlb : List TlbEntry
  /-- Publication marks of the writer slots; an unlisted slot's mark is 0 (R236). -/
  marks : List (Nat × BitVec 32)
  holders : List (Nat × Holder)
  /-- Publications so far: the point of publication order. -/
  pubs : Nat
  lost : List Nat
  hostMem : Memory
  extents : List Extent
  /-- The armatures (R299 to R301): roots, leaves, and the predecessors of pending entries, newest first. -/
  roots : List Root
  leaves : List Leaf
  preds : List Predecessor
  segments : List Segment
  seals : List (Nat × Nat)
  dirty : List Dirty
  /-- What the L2 slices and their index lookaside caches hold. -/
  l2 : List L2Line
  ilc : List IlcEntry
  /-- The lines that tile fetches have pinned there (R346). -/
  pins : List Pin
  peers : List Peer
  ships : List Ship
  ops : List Op
  monitors : List Monitor
  shoots : List Shoot
  /-- Calls queued at the sequencers, oldest first: (stack, operation). -/
  calls : List (Nat × Nat)
  /-- The calls that they have begun. -/
  seqs : List CallRun
  /-- The 256 micro-words of the control store of each stack's sequencer (R21). -/
  control : List (Nat × List Nat)
  dmus : List Dmu
  /-- Packets sent, newest first, and flows. -/
  sent : List Packet
  flows : List Flow
  /-- Remote stores, publications and discards not yet done. -/
  awaiting : List Await
  /-- Demands that are not granted yet, device and bytes, in the order in which they are served (R390). -/
  demands : List (Nat × Nat)
  /-- The error counters of the links, by port (R388). -/
  linkErrors : List (Nat × Nat)
  sendq : List (Nat × BitVec 128)
  recvq : List RecvQueue
  /-- Messages that the transport has delivered, newest first (R399). -/
  messages : List NetMessage
  /-- Messages that were answered with a transport error, newest first (R399, R400). -/
  refusals : List NetMessage
  boot : Boot
  conf : Configuration
  q0ring : DWord
  fuses : Fuses
  firmware : Firmware
  powerCap : Nat
  /-- The throttle step that the part has chosen, and when (R405). -/
  throttle : Nat
  throttleSince : Nat
  /-- SPDM answers sent, newest first. -/
  spdm : List SpdmAnswer
  /-- Host interrupts raised (R257). -/
  irqs : Nat
  deriving DecidableEq, Repr

/-- Why a step stops the machine. No rule of the manual makes the machine stop, so only a state that no run reaches raises one. -/
inductive Fault where
  /-- Raised by step where its focus names no group and the agenda runs a group that does not exist: safe, since the part has no
  such step. -/
  | noSuchGroup
  deriving DecidableEq, Repr

/-- Why an instruction has no meaning. -/
inductive Refusal where
  /-- Raised by exec for an instruction that the model does not give a meaning yet: safe. -/
  | notModelled (mnemonic : String)
  deriving DecidableEq, Repr

/-- SHA-384 of no bytes, which the image that stands on the module flash at reset is signed with (log entry 90, DESIGN CHOICE). -/
def digestOfNothing : List Byte :=
  [0x38, 0xB0, 0x60, 0xA7, 0x51, 0xAC, 0x96, 0x38, 0x4C, 0xD9, 0x32, 0x7E, 0xB1, 0xB1, 0xE3, 0x6A,
   0x21, 0xFD, 0xB7, 0x11, 0x14, 0xBE, 0x07, 0x43, 0x4C, 0x0C, 0xC7, 0xBF, 0x63, 0xF6, 0xE1, 0xDA,
   0x27, 0x4E, 0xDE, 0xBF, 0xE7, 0x6F, 0x65, 0xFB, 0xD5, 0x1A, 0xD2, 0xF1, 0x48, 0x98, 0xB9, 0x5B]

/-- The part right after reset, before its start (R401): nothing is placed, bound or defined, memory reads zero, the marks are 0
(R236), BOOTST reads 0 (R403). Fields with no reset value of the manual are as log entries 3 and 4, DESIGN CHOICE, say. -/
def State.reset : State where
  tick := 0
  serial := 0
  agenda := []
  focus := 0
  fresh := 1
  dispatchDue := false
  dueIn := []
  groups := []
  teams := []
  launches := []
  ctxs := []
  parts := []
  queues := []
  cores := []
  vacations := []
  image := []
  texts := []
  pending := []
  wcb := []
  l1 := []
  tlb := []
  marks := []
  holders := []
  pubs := 0
  lost := []
  hostMem := []
  extents := []
  roots := []
  leaves := []
  preds := []
  segments := []
  seals := []
  dirty := []
  l2 := []
  ilc := []
  pins := []
  peers := []
  ships := []
  ops := []
  monitors := []
  shoots := []
  calls := []
  seqs := []
  control := []
  dmus := []
  sent := []
  flows := []
  awaiting := []
  demands := []
  linkErrors := []
  sendq := []
  recvq := []
  messages := []
  refusals := []
  boot := { stage := 0, done := false, maq := false, failcnt := 0, reason := 0, failed := false, flashCount := 0, flashReason := 0 }
  conf := { record := 0, features := [], channels := [], slices := [], devid := 0, hop1 := [], hop3 := [] }
  q0ring := 0
  fuses := { keyHash := [], rollback := 0 }
  firmware := { version := 0, image := [], signature := { key := [], digest := digestOfNothing } }
  powerCap := 0
  throttle := 0
  throttleSince := 0
  spdm := []
  irqs := 0

end Sys2Proof.Machine
end

