-- ==== Sys2Proof/Machine/Bytes.lean ====
section
/-!
DEFINITION. Bytes of memory: reading and writing a canonical memory (unlisted bytes read zero, 14_ordering R238) and an overlay of bytes
over one (pending data, R235), little-endian values (R3), and small operations on masks and lists that the meanings share.
-/
namespace Sys2Proof.Machine

/-! ## Canonical lists of cells -/

/-- The byte listed at an address, if one is. -/
def cellAt : List Host.Cell → Nat → Option Byte
  | [], _ => none
  | (b, x) :: rest, a => if a = b then some x else cellAt rest a

/-- List a byte at an address, keeping the addresses rising. -/
def cellPut : List Host.Cell → Nat → Byte → List Host.Cell
  | [], a, x => [(a, x)]
  | (b, y) :: rest, a, x =>
    if a < b then (a, x) :: (b, y) :: rest
    else if a = b then (a, x) :: rest
    else (b, y) :: cellPut rest a x

/-- Remove what is listed at an address. -/
def cellDrop : List Host.Cell → Nat → List Host.Cell
  | [], _ => []
  | (b, y) :: rest, a => if a = b then rest else (b, y) :: cellDrop rest a

/-- Addresses strictly rising from `lo` on. -/
def cellsFrom : Nat → List Host.Cell → Bool
  | _, [] => true
  | lo, (a, _) :: rest => decide (lo ≤ a) && cellsFrom (a + 1) rest

/-- The canonical form of a memory: addresses strictly rising and no zero byte listed. -/
def Memory.wf (m : Memory) : Bool := cellsFrom 0 m && m.all fun c => c.2 != 0
/-- The canonical form of an overlay: addresses strictly rising. -/
def Overlay.wf (m : Overlay) : Bool := cellsFrom 0 m

/-- The byte at an address; an unlisted one reads zero. -/
def Memory.get (m : Memory) (a : Nat) : Byte := (cellAt m a).getD 0
/-- Write one byte; writing zero removes the entry. -/
def Memory.put (m : Memory) (a : Nat) (x : Byte) : Memory := if x = 0 then cellDrop m a else cellPut m a x

/-- The n bytes from an address on. -/
def Memory.bytes (m : Memory) (a : Nat) : Nat → List Byte
  | 0 => []
  | n + 1 => m.get a :: Memory.bytes m (a + 1) n
/-- Write bytes from an address on. -/
def Memory.putBytes (m : Memory) (a : Nat) : List Byte → Memory
  | [] => m
  | x :: xs => Memory.putBytes (m.put a x) (a + 1) xs
/-- Write listed bytes over a memory. -/
def Memory.overlay (m : Memory) (o : Overlay) : Memory := o.foldl (fun m c => m.put c.1 c.2) m
/-- Write listed bytes over an overlay. -/
def Overlay.overlay (m o : Overlay) : Overlay := o.foldl (fun m c => cellPut m c.1 c.2) m

/-- The little-endian number that bytes spell (R3). -/
def leNat : List Byte → Nat
  | [] => 0
  | x :: xs => x.toNat + 256 * leNat xs
/-- The n bytes of a number, lowest first. -/
def leBytes : Nat → Nat → List Byte
  | 0, _ => []
  | n + 1, x => BitVec.ofNat 8 x :: leBytes n (x / 256)

/-- The n-byte little-endian number at an address. -/
def Memory.nat (m : Memory) (a n : Nat) : Nat := leNat (m.bytes a n)
/-- Write an n-byte little-endian number. -/
def Memory.putNat (m : Memory) (a n x : Nat) : Memory := m.putBytes a (leBytes n x)
/-- The cells of an n-byte number at an address. -/
def cellsOf (a n x : Nat) : Overlay := (List.range n).map fun i => (a + i, BitVec.ofNat 8 (x / 256 ^ i))

/-- The listed bytes whose address the test picks. -/
def cellsIf (p : Nat → Bool) (m : List Host.Cell) : List Host.Cell := m.filter fun c => p c.1

/-- The address stands in the range of n bytes from a. -/
def within (a n x : Nat) : Bool := decide (a ≤ x) && decide (x < a + n)
/-- The line of an address (R6). -/
def lineOf (a : Nat) : Nat := a / 128
/-- The extent of a local logical address (R292). -/
def extentOf (a : Nat) : Nat := a / 2 ^ 26

/-! ## Masks, lists -/

/-- Lane j is in the set. -/
def inMask (m : Mask) (j : Nat) : Bool := m.getLsbD j
/-- The lanes of a set, ascending. -/
def maskLanes (m : Mask) : List Nat := (List.range 32).filter (inMask m)
/-- The set of the lanes in a list. -/
def maskOf (l : List Nat) : Mask := l.foldl (fun m j => m ||| (1#32 <<< j)) 0
/-- The set without the lanes of the second. -/
def maskMinus (m k : Mask) : Mask := m &&& ~~~k

/-- Element n of a list of words, zero past its end. -/
def wordAt (l : List Word) (n : Nat) : Word := l.getD n 0

/-- The field of n bits from bit lo of a number. -/
def field (x lo n : Nat) : Nat := x / 2 ^ lo % 2 ^ n

/-- Look a key up in a list of pairs. -/
def assoc {α : Type} (l : List (Nat × α)) (k : Nat) : Option α := (l.find? fun p => p.1 == k).map (·.2)
/-- Set a key of a list of pairs, in front if it is new. -/
def assocPut {α : Type} (l : List (Nat × α)) (k : Nat) (v : α) : List (Nat × α) := (k, v) :: l.filter fun p => p.1 != k

/-- Add a number to a list that holds no repeats. -/
def addNew (l : List Nat) (n : Nat) : List Nat := if l.contains n then l else l ++ [n]

/-- Insert in ascending order, no repeats. -/
def insertNat (n : Nat) : List Nat → List Nat
  | [] => [n]
  | x :: xs => if n < x then n :: x :: xs else if n = x then x :: xs else x :: insertNat n xs

/-- Insertion sort by a key, stable. -/
def insertBy {α : Type} (key : α → Nat) (x : α) : List α → List α
  | [] => [x]
  | y :: ys => if key x < key y then x :: y :: ys else y :: insertBy key x ys
/-- A list in ascending order of a key, equal keys in their order. -/
def sortBy {α : Type} (key : α → Nat) (l : List α) : List α := l.foldl (fun acc x => insertBy key x acc) []

/-- Entry n of a list replaced through a function. -/
def modAt {α : Type} (l : List α) (n : Nat) (f : α → α) : List α := l.modify n f

/-- Sign-extend an n-bit number to a word. -/
def sextWord (n x : Nat) : Word := if x / 2 ^ (n - 1) % 2 = 1 then BitVec.ofNat 32 (2 ^ 32 + x % 2 ^ n - 2 ^ n) else BitVec.ofNat 32 (x % 2 ^ n)

end Sys2Proof.Machine
end

