-- ==== Sys2Proof/Machine/Find.lean ====
section
/-!
DEFINITION. Finding and replacing the objects of the state by their numbers.
-/
namespace Sys2Proof.Machine

/-! ## Ranges -/

/-- Two byte ranges meet. -/
def rangesMeet (a n b m : Nat) : Bool := decide (a < b + m) && decide (b < a + n)

/-! ## Groups, lanes, teams, launches -/

/-- The group of that number. -/
def State.group? (s : State) (gid : Nat) : Option Group := s.groups.find? fun g => g.gid == gid
/-- Change the group of that number. -/
def State.modGroup (s : State) (gid : Nat) (f : Group → Group) : State :=
  { s with groups := s.groups.map fun g => if g.gid = gid then f g else g }
/-- Replace the group with its number. -/
def State.putGroup (s : State) (g : Group) : State := s.modGroup g.gid fun _ => g
/-- The team of that number. -/
def State.team? (s : State) (tid : Nat) : Option Team := s.teams.find? fun t => t.tid == tid
/-- Change the team of that number. -/
def State.modTeam (s : State) (tid : Nat) (f : Team → Team) : State :=
  { s with teams := s.teams.map fun t => if t.tid = tid then f t else t }
/-- The launch of that number. -/
def State.launch? (s : State) (lid : Nat) : Option Launch := s.launches.find? fun l => l.lid == lid
/-- Change the launch of that number. -/
def State.modLaunch (s : State) (lid : Nat) (f : Launch → Launch) : State :=
  { s with launches := s.launches.map fun l => if l.lid = lid then f l else l }

/-- A lane with nothing in it; reading past the lanes of a group gives it. -/
def Lane.blank : Lane where
  v := List.replicate 64 0
  p := List.replicate 8 false
  sb := List.replicate 4 0
  vpc := 0
  stack := []
  origin := 0
  exited := true
  team := 0
  dist := 0
  fresh := []
  pend := []

/-- A vpc entry for an address of a kernel descriptor: bits [63:56] and [1:0] of an entry are 0 (R39; log entry 70, DEDUCED). -/
def vpcOf (a : DWord) : DWord := a &&& 0x00FFFFFFFFFFFFFC

/-- Lane L of a group. -/
def Group.lane (g : Group) (l : Nat) : Lane := g.lanes.getD l Lane.blank
/-- Change lane L. -/
def Group.modLane (g : Group) (l : Nat) (f : Lane → Lane) : Group := { g with lanes := modAt g.lanes l f }
/-- Change the lanes of a list. -/
def Group.modLanes (g : Group) (ls : List Nat) (f : Lane → Lane) : Group :=
  { g with lanes := g.lanes.zipIdx.map fun (x, i) => if ls.contains i then f x else x }
/-- The lanes that have not exited, ascending (the present lanes of R162). -/
def Group.alive (g : Group) : List Nat := (List.range 32).filter fun l => !(g.lane l).exited
/-- Counter k of a lane. -/
def Lane.counter (l : Lane) (k : Nat) : Nat := l.sb.getD k 0
/-- A lane's %origin fields (R35). -/
def Lane.originLane (l : Lane) : Nat := field l.origin.toNat 0 5

/-- %origin of lane `lane` of group `grp` of the team of index `t` (R35). -/
def originOf (t grp lane : Nat) : DWord := BitVec.ofNat 64 (t * 512 + grp * 32 + lane)

/-- The team that owns a group's slot (R228). -/
def State.ownerOf (s : State) (g : Group) : Option Team := s.team? g.owner
/-- The launch of a team. -/
def State.launchOf (s : State) (t : Team) : Option Launch := s.launch? t.launch
/-- The context of a team. -/
def State.ctxOfTeam (s : State) (t : Team) : Nat := ((s.launchOf t).map (·.ctx)).getD 0
/-- The context of a group. -/
def State.ctxOfGroup (s : State) (g : Group) : Nat := ((s.ownerOf g).map s.ctxOfTeam).getD 0
/-- The launch of a group. -/
def State.launchOfGroup (s : State) (g : Group) : Option Launch := (s.ownerOf g).bind s.launchOf
/-- Checked mode (R81). -/
def State.checkedOf (s : State) (g : Group) : Bool := ((s.launchOfGroup g).map (·.checked)).getD false
/-- The resident core of a group; a spilled group keeps its core. -/
def Group.core? (g : Group) : Option Nat :=
  match g.place with
  | .resident c _ => some c
  | .spilled c => some c
  | .saved => none
/-- The core of a group, 0 for a saved one. -/
def Group.core (g : Group) : Nat := g.core?.getD 0
/-- The resident group slot, 0 where it has none. -/
def Group.slot (g : Group) : Nat :=
  match g.place with
  | .resident _ k => k
  | _ => 0
/-- The group stands in a resident slot. -/
def Group.isResident (g : Group) : Bool :=
  match g.place with
  | .resident _ _ => true
  | _ => false
/-- The groups that stand in a team's slots. -/
def State.groupsOwned (s : State) (tid : Nat) : List Group := s.groups.filter fun g => g.owner == tid
/-- The groups that hold a non-exited lane of a team (R211, R228). -/
def State.groupsHolding (s : State) (tid : Nat) : List Group :=
  s.groups.filter fun g => g.lanes.any fun l => !l.exited && l.team == tid
/-- The teams whose tag a non-exited lane of the group carries, in ascending writer slot order (R242). -/
def State.teamsIn (s : State) (g : Group) : List Team :=
  sortBy (fun t => t.wslot.getD 0) (s.teams.filter fun t => g.lanes.any fun l => !l.exited && l.team == t.tid)
/-- The writer slot of a team; a team without one has the number past the last slot. -/
def Team.slot (t : Team) : Nat := t.wslot.getD Config.writerSlots
/-- The team that holds a writer slot. -/
def State.teamOfSlot (s : State) (w : Nat) : Option Team := s.teams.find? fun t => t.wslot == some w

/-! ## Operations, contexts, queues -/

/-- The operation of that number. -/
def State.op? (s : State) (id : Nat) : Option Op := s.ops.find? fun o => o.id == id
/-- Change the operation of that number. -/
def State.modOp (s : State) (id : Nat) (f : Op → Op) : State :=
  { s with ops := s.ops.map fun o => if o.id = id then f o else o }
/-- Remove an operation. -/
def State.dropOp (s : State) (id : Nat) : State := { s with ops := s.ops.filter fun o => o.id != id }
/-- The part of a lane or piece. -/
def Op.part? (o : Op) (l : Nat) : Option Part := o.parts.find? fun p => p.lane == l
/-- Change the part of a lane or piece. -/
def Op.modPart (o : Op) (l : Nat) (f : Part → Part) : Op :=
  { o with parts := o.parts.map fun p => if p.lane = l then f p else p }
/-- The part's operation has completed. -/
def Part.isCompleted (p : Part) : Bool :=
  match p.st with
  | .completed => true
  | _ => false
/-- The part has been performed or completed. -/
def Part.isDone (p : Part) : Bool :=
  match p.st with
  | .done _ => true
  | .completed => true
  | _ => false

/-- The context of that number. -/
def State.ctx? (s : State) (n : Nat) : Option Context := s.ctxs.find? fun c => c.num == n
/-- Change the context of that number. -/
def State.modCtx (s : State) (n : Nat) (f : Context → Context) : State :=
  { s with ctxs := s.ctxs.map fun c => if c.num = n then f c else c }
/-- The queue of that number. -/
def State.queue? (s : State) (n : Nat) : Option Queue := s.queues.find? fun q => q.num == n
/-- Change the queue of that number. -/
def State.modQueue (s : State) (n : Nat) (f : Queue → Queue) : State :=
  { s with queues := s.queues.map fun q => if q.num = n then f q else q }
/-- The partition of that number. -/
def State.part? (s : State) (n : Nat) : Option Partition := s.parts.find? fun p => p.num == n
/-- The core of that rank. -/
def State.core? (s : State) (n : Nat) : Option CoreState := s.cores.find? fun c => c.rank == n
/-- Change the core of that rank. -/
def State.modCore (s : State) (n : Nat) (f : CoreState → CoreState) : State :=
  { s with cores := s.cores.map fun c => if c.rank = n then f c else c }
/-- The defined extent of that number. -/
def State.extent? (s : State) (n : Nat) : Option Extent := s.extents.find? fun e => e.num == n
/-- The bytes that stand in defined extents (R298). -/
def State.definedBytes (s : State) (b : Overlay) : Overlay := cellsIf (fun a => (s.extent? (extentOf a)).isSome) b
/-- Those that stores, copies and messages may land at: in defined extents that are not filled by segment shipping only (R293, R298; log entry 86, DESIGN
CHOICE). -/
def State.storableBytes (s : State) (b : Overlay) : Overlay := cellsIf (fun a => ((s.extent? (extentOf a)).map fun e => e.kind != 3).getD false) b
/-- Change the extent of that number. -/
def State.modExtent (s : State) (n : Nat) (f : Extent → Extent) : State :=
  { s with extents := s.extents.map fun e => if e.num = n then f e else e }
/-- Cast index i of an extent is held. -/
def Extent.cast? (e : Extent) (i : Nat) : Option Cast := e.casts.find? fun c => c.idx == i
/-- A replica peer of a context. -/
def State.peer? (s : State) (ctx which : Nat) : Option Peer := s.peers.find? fun p => p.ctx == ctx && p.which == which
/-- Change it. -/
def State.modPeer (s : State) (ctx which : Nat) (f : Peer → Peer) : State :=
  { s with peers := s.peers.map fun p => if p.ctx = ctx && p.which == which then f p else p }
/-- The extent ships to that peer. -/
def Extent.shipsTo (e : Extent) (p : Peer) : Bool := e.kind == 0 && e.ctx == p.ctx && decide (p.which < e.nrep)
/-- The monitor of that number. -/
def State.monitor? (s : State) (n : Nat) : Option Monitor := s.monitors.find? fun m => m.id == n

/-- Each lane's part acts for the team whose tag the lane carries (R226); other operations act for one team. -/
def OpKind.perLane : OpKind → Bool
  | .load _ _ _ | .store _ | .prefetch _ | .atomic _ _ _ => true
  | .lds _ _ _ | .sts _ | .stsf | .sete | .ldf _ _ _ | .atomS _ _ => true
  | .bank _ _ => true
  | .copy p _ _ => p
  | _ => false

/-- The granule of a scratchpad offset (R6). -/
def granuleOf (o : Nat) : Nat := o / 16
/-- The bank of a granule among the banks of a core's scratchpad (R184). -/
def State.bankOf (s : State) (core o : Nat) : Nat := granuleOf o % max 1 (((s.core? core).map (·.banks)).getD 1)

/-- The team of a lane's part of an operation. -/
def State.partTeam (s : State) (o : Op) (lane : Nat) : Nat :=
  match s.group? o.gid with
  | some g => if o.kind.perLane then (g.lane lane).team else o.team
  | none => o.team

/-- The publication mark of a writer slot (R236); an unlisted one is 0. -/
def State.mark (s : State) (w : Nat) : BitVec 32 := (assoc s.marks w).getD 0
/-- Who holds a writer slot. -/
def State.holder? (s : State) (w : Nat) : Option Holder := assoc s.holders w

/-! ## Cores (R13, R14, R27) -/

/-- The feature word of a core position (R27). -/
def Configuration.feature (c : Configuration) (cluster pos : Nat) : BitVec 32 := c.features.getD (cluster * 8 + pos) 0
/-- The indices, cluster × 8 + position, of the enabled cores in rank order (R14). -/
def Configuration.enabled (c : Configuration) : List Nat :=
  (List.range c.features.length).filter fun i => (c.features.getD i 0).getLsbD 31
/-- Cluster × 8 + position of the core of a rank. -/
def State.corePos (s : State) (rank : Nat) : Nat := s.conf.enabled.getD rank 0
/-- The cluster of a core (R14). -/
def State.clusterOf (s : State) (rank : Nat) : Nat := s.corePos rank / 8
/-- The feature word of a core. -/
def State.featureOf (s : State) (rank : Nat) : BitVec 32 := s.conf.features.getD (s.corePos rank) 0
/-- The partition that holds a cluster (R261). -/
def State.partOfCluster (s : State) (cl : Nat) : Option Partition := s.parts.find? fun p => p.clmask.getLsbD cl
/-- Whether core feature bits are all there on a core. -/
def State.hasUnit (s : State) (rank bit : Nat) : Bool := (s.featureOf rank).getLsbD bit

/-- The compute dies in service (R29, R31). -/
def State.dies (s : State) : List Nat := (List.range 4).filter fun d => s.conf.record.getLsbD (60 + d)

/-- The control store of a stack's sequencer as the signed firmware fills it (R21). -/
def State.controlStore (s : State) (stack : Nat) : List Nat := (List.range 256).map (Config.microWord s.firmware.image stack)

/-! ## Home slices and the die directory (R19, R20) -/

/-- The one of n places that falls to an index: within each run of n indices every place falls to one of them, from where a hash turns the run (R20). -/
def homePlace (what n i : Nat) : Nat := (i + Config.homeHash what (i / n)) % n
/-- The dies that have an L2 slice in service. -/
def State.homeDies (s : State) : List Nat := s.conf.slices.foldl (fun l x => addNew l x.1) []
/-- The slices of a die that are in service. -/
def State.slicesOf (s : State) (die : Nat) : List Nat := (s.conf.slices.filter fun x => x.1 == die).map (·.2)
/-- The die on which the 512-byte region of a line is homed: one that has an L2 slice in service (R20). -/
def State.homeDie (s : State) (line : Nat) : Nat := s.homeDies.getD (homePlace 0 s.homeDies.length (line / 4)) 0
/-- The slice of that die in which a line is homed: among the lines of the regions of the die, in their order (R20). -/
def State.homeSlice (s : State) (line : Nat) : Nat :=
  let die := s.homeDie line
  let ks := s.slicesOf die
  ks.getD (homePlace (1 + die) ks.length (line / 4 / s.homeDies.length * 4 + line % 4)) 0
/-- The directory's vector of a 512-byte region: the clusters with an L1 copy of a line of it (R19, R237). -/
def State.directory (s : State) (region : Nat) : BitVec 32 :=
  BitVec.ofNat 32 (((List.range 32).map fun c =>
    if s.l1.any fun l => l.line / 4 == region && s.clusterOf l.core == c then 2 ^ c else 0).sum)

/-! ## Dispatch opportunities (R267) -/

/-- The partitions with a dispatch opportunity, once one has arisen in the partition of a context. -/
def State.dueFor (s : State) (ctx : Nat) : List Nat :=
  match s.ctx? ctx with
  | some c => addNew s.dueIn c.pnum
  | none => s.dueIn
/-- A dispatch opportunity arises in the partition of a context. -/
def State.opportunity (s : State) (ctx : Nat) : State :=
  { s with
    dispatchDue := true
    dueIn := s.dueFor ctx }

/-! ## Registers held per team (R48) -/

/-- Blocks of a group that are in no team's budget: those of a slot whose owner has been killed (log entry 73). -/
def Group.loan (g : Group) : Nat := min g.lent (g.alloc / 4)
/-- Blocks of the groups that count against a team's budget and have not ended. -/
def State.blocksUsed (s : State) (tid : Nat) : Nat :=
  ((s.groups.filter fun g => g.owner == tid && !g.ended).map fun g => g.alloc / 4 - g.loan).sum
/-- The team's reserve in blocks. -/
def State.reserve (s : State) (t : Team) : Nat := t.budget - s.blocksUsed t.tid

end Sys2Proof.Machine
end

