-- ==== Sys2Proof/Machine/Platform.lean ====
section
/-!
DEFINITION. Starting the part (28_platform R401 to R403; 01_organisation R14, R29 to R31), attestation (R404), power and throttling (R405 to R408).
-/
namespace Sys2Proof.Machine

/-! ## What a start leaves in service (R29, R402) -/

/-- A compute die is in service. -/
def dieOn (maq : Bool) (o : StartInput) (d : Nat) : Bool := !o.disabled.offDies.contains d && (!maq || d == 0)
/-- A stack is in service: it goes with its die. -/
def stackOn (maq : Bool) (o : StartInput) (k : Nat) : Bool :=
  dieOn maq o (k / 2) && !o.disabled.offStacks.contains k && (!maq || k == 0)
/-- A core position is enabled: position 7 of a cluster never is, so at most 224 are (R18, R31; log entry 32, DEDUCED). -/
def coreOn (maq : Bool) (o : StartInput) (i : Nat) : Bool :=
  decide (i % 8 < 7) && dieOn maq o (i / 64) && !o.disabled.offClusters.contains (i / 8) && !o.disabled.offCores.contains (i / 8, i % 8)

/-- The unit bits that every enabled core lacks: REPL goes with the fabric; maquette mode has no fabric, replicas or near-memory units (R29). -/
def packageOff (maq : Bool) (o : StartInput) : BitVec 10 :=
  o.disabled.offUnits ||| (if o.disabled.offUnits.getLsbD 8 then 0x200 else 0) ||| (if maq then 0x380 else 0)
/-- The unit bits of an enabled core: VEC always; SFU, the matrix formats and BAU stand in the core, and one core can lack them (R15, R27). -/
def unitBits (maq : Bool) (o : StartInput) (i : Nat) : BitVec 10 :=
  let own := (o.disabled.coreUnits.filter fun x => x.1 == i).foldl (fun a x => a ||| x.2) 0
  (~~~(packageOff maq o ||| (own &&& 0x1E))) ||| 1

/-- The 256 core feature words (R27). -/
def featureWords (maq : Bool) (o : StartInput) : List (BitVec 32) :=
  (List.range 256).map fun i => if coreOn maq o i then BitVec.ofNat 32 (2 ^ 31) ||| (unitBits maq o i).setWidth 32 else 0

/-- The L2 slices in service: they go with their die (R29). -/
def slicesOn (maq : Bool) (o : StartInput) : List (Nat × Nat) :=
  (List.range 4).flatMap fun d =>
    ((List.range 48).filter fun k => dieOn maq o d && !o.disabled.offSlices.contains (d, k)).map fun k => (d, k)

/-- The enabled pseudo-channels. -/
def channelsOn (maq : Bool) (o : StartInput) : List (Nat × Nat) :=
  (List.range 8).flatMap fun k =>
    ((List.range 32).filter fun c => stackOn maq o k && !o.disabled.offChannels.contains (k, c)).map fun c => (k, c)

/-- A number whose bit i is set where the test holds. -/
def bitsWhere (n : Nat) (p : Nat → Bool) : Nat := ((List.range n).map fun i => if p i then 2 ^ i else 0).sum

/-- The configuration record (R31). -/
def configRecord (maq : Bool) (o : StartInput) : BitVec 256 :=
  let f := featureWords maq o
  let on : List Nat := (List.range 256).filter (coreOn maq o)
  let pc : Nat → Nat := fun k => ((channelsOn maq o).filter fun c => c.1 == k).length
  BitVec.ofNat 256
    ((if maq then 1 else 0) + bitsWhere 4 (dieOn maq o) * 2 ^ 60 + bitsWhere 8 (stackOn maq o) * 2 ^ 64
      + bitsWhere 32 (fun c => on.any fun i => i / 8 == c) * 2 ^ 72 + on.length * 2 ^ 104
      + ((List.range 8).map fun k => pc k * 2 ^ (112 + 6 * k)).sum
      + (f.foldl (fun (a : BitVec 32) w => a ||| w) 0).toNat % 2 ^ 31 * 2 ^ 160)

/-- What a start finds: without the fabric the device is alone (R386). -/
def configurationOf (maq : Bool) (o : StartInput) : Configuration :=
  let fab := !(packageOff maq o).getLsbD 8
  let own := if fab then o.devid % 4096 else 0
  let hop1 := if fab then addNew o.hop1 own else [own]
  { record := configRecord maq o, features := featureWords maq o, channels := channelsOn maq o, slices := slicesOn maq o, devid := own, hop1 := hop1
    hop3 := if fab then o.hop3.foldl addNew hop1 else [own] }

/-- A core after a start (R270, R407); its scratchpad division before a team is placed has four banks (R16 gives none; log entry 3, DESIGN CHOICE). -/
def CoreState.start (rank : Nat) : CoreState where
  rank := rank
  banks := 4
  kslots := List.replicate 4 none
  table := List.replicate 64 none
  pointer := 0
  step := 0
  ramp := 0
  rampCycles := 0

/-! ## Starts (R401 to R403) -/

/-- The machine as a start finds it: everything anew but the fuses, the module flash, host memory, and the model's own counters (log entry 47). -/
def State.restarted (s : State) : State :=
  { State.reset with
    tick := s.tick
    serial := s.serial
    agenda := s.agenda
    fresh := s.fresh
    hostMem := s.hostMem
    irqs := s.irqs
    fuses := s.fuses
    firmware := s.firmware
    spdm := s.spdm }

/-- What BOOTST takes from the flash at the beginning of a start. -/
def Boot.begin_ (b : Boot) : Boot :=
  { b with stage := 1, done := false, maq := b.flashCount == 3, failcnt := b.flashCount, reason := if b.flashCount = 0 then 0 else b.flashReason
           failed := false }

/-- A start fails in a stage with a reason. -/
def State.failStart (s : State) (stage reason : Nat) : State :=
  let b := s.boot.begin_
  { s.restarted with
    boot := { b with stage := stage, reason := reason, failed := true, flashCount := min 3 (b.flashCount + 1), flashReason := reason } }

/-- The signature of the image verifies: it signs the SHA-384 digest of the image, under the key whose hash the fuses hold (R401 stage 1). -/
def State.verified (s : State) : Bool :=
  s.firmware.signature.key == s.fuses.keyHash && s.firmware.signature.digest == sha384 s.firmware.image

/-- The stage in which a start fails and the reason, taken in the order of the stages (R401, R403): the image that does not verify or is too old; a stack, a die
link or a control store; a self-test that leaves die 0 without a core; fabric discovery, which maquette mode has not. -/
def State.startFails (s : State) (o : StartInput) : Option (Nat × Nat) :=
  let maq := s.boot.flashCount == 3
  if !s.verified then some (1, 1)
  else if s.firmware.version < s.fuses.rollback then some (1, 2)
  else if o.fault = some .stackTraining then some (2, 3)
  else if o.fault = some .linkTraining then some (2, 4)
  else if o.fault = some .controlStore then some (2, 6)
  else if !((List.range 64).any (coreOn maq o)) then some (3, 7)
  else if !maq && o.fault == some .discovery then some (4, 5)
  else none

/-- START: the five stages, in maquette mode where the count stands at 3. -/
def execStart (o : StartInput) (s : State) : Host.Outcome State Fault Refusal :=
  .next (match s.startFails o with
    | some (stage, reason) => s.failStart stage reason
    | none =>
      let b := s.boot.begin_
      let c := configurationOf b.maq o
      let full := !b.maq
      { s.restarted with
        conf := c
        cores := (List.range c.enabled.length).map CoreState.start
        control := (List.range 8).filterMap fun k => if stackOn b.maq o k then some (k, s.controlStore k) else none
        boot := { b with stage := 5, done := true, flashCount := if full then 0 else b.flashCount,
                         flashReason := if full then 0 else b.flashReason } })

/-- START_TIMEOUT: a start that does not reach stage 5 within 10 s fails with 0x08 in the stage that it is in (R401, R403). -/
def execStartTimeout (stage : Nat) (s : State) : Host.Outcome State Fault Refusal :=
  .next (if 1 ≤ stage ∧ stage ≤ 4 then s.failStart stage 8 else s)

/-- PLDM_CLEAR_FAILCNT: the count and the stored reason are cleared (R402, R403). -/
def execPldmClearFailcnt (s : State) : Host.Outcome State Fault Refusal :=
  .next { s with boot := { s.boot with flashCount := 0, flashReason := 0 } }

/-- BOOTST (R403). -/
def Boot.word (b : Boot) : Nat :=
  b.stage % 8 + (if b.done then 2 ^ 8 else 0) + (if b.maq then 2 ^ 9 else 0) + b.failcnt % 4 * 2 ^ 10 + b.reason % 256 * 2 ^ 16

/-! ## Attestation (R404) -/

/-- What a measurement covers (R404): the ROM, the firmware image, the sequencer control stores, the fuses with the rollback count, and the configuration
record with the core feature words. -/
def State.measured (s : State) (index : Nat) : List Byte :=
  match index with
  | 1 => Config.romBytes
  | 2 => s.firmware.image
  | 3 => s.control.flatMap fun c => leBytes 8 c.1 ++ c.2.flatMap (leBytes 8)
  | 4 => s.fuses.keyHash ++ leBytes 8 s.fuses.rollback
  | 5 => leBytes 32 s.conf.record.toNat ++ s.conf.features.flatMap fun f => leBytes 4 f.toNat
  | _ => []

/-- A measurement with its index: a SHA-384 digest (R404). -/
def State.measurement (s : State) (index : Nat) : Nat × List Byte :=
  (index, sha384 (if index = 1 then Config.romBytes else Config.measuredForm index (s.measured index)))

/-- The measurements that a request asks for by its second parameter: one of the five, or all (log entry 12, PRESUMED). -/
def measuredBy (q : SpdmRequest) : List Nat :=
  if q.param2 = 0xFF then [1, 2, 3, 4, 5] else [1, 2, 3, 4, 5].filter fun i => i == q.param2.toNat

/-- The bytes of a request. -/
def requestBytes (q : SpdmRequest) : List Byte := q.param1 :: q.param2 :: q.body

/-- The signature of the identity key over a digest of the request and what answers it (R404). -/
def signedBy (q : SpdmRequest) (answer : List Byte) : Signature := { key := Config.identityKey, digest := sha384 (requestBytes q ++ answer) }

/-- The algorithms that the part chooses among those offered: ECDSA P-384 with SHA-384, where both are among them, and nothing else (R404; the places of
the offer are those of SPDM 1.3, log entry 12, PRESUMED). -/
def chosenOf (q : SpdmRequest) : Option SpdmAlgorithm :=
  if (q.body.getD 4 0).getLsbD 7 && (q.body.getD 8 0).getLsbD 1 then some .ecdsaP384Sha384 else none

/-- The part answers (R404). -/
def State.answerSpdm (s : State) (a : SpdmAnswer) : State := { s with spdm := a :: s.spdm }

/-- An answer of bytes alone. -/
def plainAnswer (code : Nat) (body : List Byte) : SpdmAnswer := { request := code, chosen := none, body := body, measurements := [], signature := none }

/-- GET_VERSION: SPDM 1.3 (R404; log entry 12). -/
def execGetVersion (_ : SpdmRequest) (s : State) : Host.Outcome State Fault Refusal := .next (s.answerSpdm (plainAnswer 0x84 [0x13]))

/-- GET_CAPABILITIES (R404; log entry 12). -/
def execGetCapabilities (q : SpdmRequest) (s : State) : Host.Outcome State Fault Refusal :=
  .next (s.answerSpdm (plainAnswer 0xE1 (Config.capabilityBytes (requestBytes q))))

/-- NEGOTIATE_ALGORITHMS (R404). -/
def execNegotiateAlgorithms (q : SpdmRequest) (s : State) : Host.Outcome State Fault Refusal :=
  .next (s.answerSpdm { plainAnswer 0xE3 [] with chosen := chosenOf q })

/-- GET_DIGESTS: the digest of the certificate chain (R404). -/
def execGetDigests (_ : SpdmRequest) (s : State) : Host.Outcome State Fault Refusal :=
  .next (s.answerSpdm (plainAnswer 0x81 (sha384 Config.certificateChain)))

/-- GET_CERTIFICATE: the part of the certificate chain that the request names by offset and length (R404; log entry 12, PRESUMED). -/
def execGetCertificate (q : SpdmRequest) (s : State) : Host.Outcome State Fault Refusal :=
  let at_ := leNat (q.body.take 2)
  let n := leNat ((q.body.drop 2).take 2)
  .next (s.answerSpdm (plainAnswer 0x82 ((Config.certificateChain.drop at_).take n)))

/-- CHALLENGE: a signature of the identity key (R404). -/
def execChallenge (q : SpdmRequest) (s : State) : Host.Outcome State Fault Refusal :=
  let chain := sha384 Config.certificateChain
  .next (s.answerSpdm { plainAnswer 0x83 chain with signature := some (signedBy q chain) })

/-- GET_MEASUREMENTS: the digests asked for, signed with the identity key (R404). -/
def execGetMeasurements (q : SpdmRequest) (s : State) : Host.Outcome State Fault Refusal :=
  let ms := (measuredBy q).map s.measurement
  .next (s.answerSpdm { plainAnswer 0xE0 [] with measurements := ms, signature := some (signedBy q (ms.flatMap fun m => leBytes 1 m.1 ++ m.2)) })

/-! ## Power (R405, R408) -/

/-- POWER_CAP: power management sets the cap in watts (R405). -/
def execPowerCap (watts : Nat) (s : State) : Host.Outcome State Fault Refusal := .next { s with powerCap := watts }

/-- What the PLDM numeric sensor of the module power reads (R405). -/
def State.modulePower (s : State) : Nat := Config.modulePower s.tick

/-- THROTTLE_STEP_CHANGE: the part chooses a step (R405). It takes effect on the core named at once and on the others within 4,096 cycles (CoreState.follow); a step
chosen before has then taken effect on every core (log entry 90, DESIGN CHOICE). -/
def execThrottleStepChange (core newStep : Nat) (s : State) : Host.Outcome State Fault Refusal :=
  .next (if newStep ≤ 7 then
      let s : State := { s with cores := s.cores.map fun c => { c with step := s.throttle } }
      let s : State := { s with throttle := newStep, throttleSince := s.tick }
      s.modCore core fun c => { c with step := newStep }
    else s)

/-- A ramp of 2,048 cycles is over (R408). -/
def CoreState.endRamp (c : CoreState) : CoreState :=
  if c.ramp ≠ 0 && decide (2048 ≤ c.rampCycles) then { c with ramp := 0, rampCycles := 0 } else c

/-- RAMP_END: a ramp of 2,048 cycles is over (R408). The cycle that completes a ramp ends it too (State.cycle). -/
def execRampEnd (core : Nat) (s : State) : Host.Outcome State Fault Refusal := .next (s.modCore core CoreState.endRamp)

end Sys2Proof.Machine
end

