-- ==== Sys2Proof/Machine/Link.lean ====
section
/-!
DEFINITION. Sending Tuihel packets (26_fabric R387, R388, R390, R391): flows, sequence numbers, grants and demands. The content of payload
beats that the manual does not lay out is as log entry 15, PRESUMED, says.
-/
namespace Sys2Proof.Machine

/-- The kinds of R388. -/
def kLdreq : Nat := 0x01
/-- Load response. -/
def kLdrsp : Nat := 0x02
/-- Store. -/
def kStore : Nat := 0x03
/-- Store accepted. -/
def kStack : Nat := 0x04
/-- Atomic. -/
def kAtomic : Nat := 0x05
/-- Atomic response. -/
def kAtrsp : Nat := 0x06
/-- Publish. -/
def kPublish : Nat := 0x07
/-- Publication or discard done. -/
def kPuback : Nat := 0x08
/-- Demand. -/
def kDemand : Nat := 0x09
/-- Grant. -/
def kGrant : Nat := 0x0A
/-- Discard. -/
def kDiscard : Nat := 0x0B

/-- The flow to and from a device; a new one starts at sequence number 0. -/
def State.flow (s : State) (dev : Nat) : Flow :=
  (s.flows.find? fun f => f.dev == dev).getD
    { dev := dev, sendSeq := 0, recvSeq := 0, early := [], asked := [], atoms := [], granted := 0, demanded := 0, unreachable := false, queue := [] }
/-- Replace a flow. -/
def State.putFlow (s : State) (f : Flow) : State := { s with flows := f :: s.flows.filter fun x => x.dev != f.dev }

/-- Put a packet on the wire: it takes the next sequence number of its flow, modulo 2^20 (R387). -/
def State.transmit (s : State) (p : Packet) : State :=
  let f := s.flow p.ddev
  { s.putFlow { f with sendSeq := (f.sendSeq + 1) % 2 ^ 20 } with sent := { p with seq := f.sendSeq } :: s.sent }

/-- The header of a packet (R387). -/
def packHeader (p : Packet) : BitVec 128 :=
  BitVec.ofNat 128 (p.ddev % 2 ^ 12 * 2 ^ 116 + p.sdev % 2 ^ 12 * 2 ^ 104 + p.kind % 2 ^ 8 * 2 ^ 96 + p.sws % 2 ^ 12 * 2 ^ 84 + p.seq % 2 ^ 20 * 2 ^ 64
    + p.beats.length % 2 ^ 4 * 2 ^ 60 + p.op % 2 ^ 5 * 2 ^ 55 + p.laddr % 2 ^ 39)
/-- The packet of a header, with the beats that follow it and the port at which it arrives (R387): LEN is their number, bits [54:39] are 0, and OP is 0 for kinds
other than ATOMIC; none where the header is not so. -/
def unpackHeader (h : BitVec 128) (beats : List (BitVec 128)) (port : Nat) : Option Packet :=
  let x := h.toNat
  let p : Packet := { ddev := field x 116 12, sdev := field x 104 12, kind := field x 96 8, sws := field x 84 12, seq := field x 64 20, op := field x 55 5,
                      laddr := field x 0 39, beats := beats, port := port }
  if field x 60 4 = beats.length && decide (beats.length ≤ 9) && field x 39 16 == 0 && (p.kind == kAtomic || p.op == 0) then some p else none

/-- STORE and LDRSP payload goes only against granted bytes (R390). -/
def needsGrant (p : Packet) : Bool := p.kind == kStore || p.kind == kLdrsp
/-- Payload bytes. -/
def payload (p : Packet) : Nat := 16 * p.beats.length

/-- The packet of this device with those fields. -/
def State.packet (s : State) (dev kind sws op laddr : Nat) (beats : List (BitVec 128)) : Packet :=
  { ddev := dev, sdev := s.conf.devid, kind := kind, sws := sws, seq := 0, op := op, laddr := laddr % 2 ^ 39, beats := beats, port := 0 }

/-- A packet stays behind one that is held: payload behind payload that waits for granted bytes, and what a source team sends behind a store of its own
(R390, R392). A packet without payload of another source goes past. -/
def staysBehind (p h : Packet) : Bool := (needsGrant p && needsGrant h) || (h.kind == kStore && h.sws == p.sws)

/-- Packets that may go now, in order, the granted bytes that are left, and what stays, `held` first (R390, R392). -/
def readyPackets : Nat → List Packet → List Packet → List Packet × Nat × List Packet
  | granted, held, [] => ([], granted, held)
  | granted, held, p :: rest =>
    if held.any (staysBehind p) || (needsGrant p && decide (granted < payload p)) then readyPackets granted (held ++ [p]) rest
    else
      let r := readyPackets (if needsGrant p then granted - payload p else granted) held rest
      (p :: r.1, r.2.1, r.2.2)

/-- Send what may go to a device, and ask for bytes where the first packet that stays needs them and no demand is unanswered (R390: at
most 64 KiB of unanswered demand; a packet carries at most 144 bytes). -/
def State.drainFlow (s : State) (dev : Nat) : State :=
  let f := s.flow dev
  let r := readyPackets f.granted [] f.queue
  let s : State := s.putFlow { f with granted := r.2.1, queue := r.2.2 }
  let s : State := r.1.foldl State.transmit s
  match r.2.2 with
  | [] => s
  | p :: _ =>
    let f := s.flow dev
    if f.demanded = 0 then
      (s.putFlow { f with demanded := payload p }).transmit (s.packet dev kDemand 0 0 0 [BitVec.ofNat 128 (payload p)])
    else s

/-- Hand a packet to the port: answers without payload go at once, the rest in order (R390 to R392). -/
def State.post (s : State) (p : Packet) : State :=
  if p.kind = kStack || p.kind = kPuback || p.kind = kGrant || p.kind = kAtrsp then s.transmit p
  else
    let f := s.flow p.ddev
    (s.putFlow { f with queue := f.queue ++ [p] }).drainFlow p.ddev

/-- Send a request for a piece of an operation's part, whose answer is to come: requests of one source for one address are answered in the order in which they were
sent (R388, R391). -/
def State.request (s : State) (p : Packet) (answer op lane piece : Nat) : State :=
  let s : State := s.post p
  let f := s.flow p.ddev
  s.putFlow { f with asked := f.asked ++ [{ kind := answer, sws := p.sws, laddr := p.laddr, op := op, lane := lane, piece := piece }] }

/-- An answer is to that request. -/
def SentRequest.isFor (q : SentRequest) (p : Packet) : Bool := q.kind == p.kind && q.sws == p.sws && q.laddr == p.laddr
/-- Remove the first entry that a test picks. -/
def dropFirst {α : Type} (p : α → Bool) : List α → List α
  | [] => []
  | x :: xs => if p x then xs else x :: dropFirst p xs
/-- The request that an answer is to, which waits no more. -/
def State.takeAsked (s : State) (p : Packet) : Option (SentRequest × State) :=
  let f := s.flow p.sdev
  (f.asked.find? fun q => q.isFor p).map fun q => (q, s.putFlow { f with asked := dropFirst (fun q => q.isFor p) f.asked })

/-! ## Grants (R390) -/

/-- The next source in turn is granted a unit of 4 KiB; what it wants beyond it waits behind the other sources. -/
def State.grantNext (s : State) : State :=
  match s.demands with
  | [] => s
  | (dev, n) :: rest =>
    let s : State := { s with demands := if n ≤ 4096 then rest else rest ++ [(dev, n - 4096)] }
    s.post (s.packet dev kGrant 0 0 0 [BitVec.ofNat 128 4096])

/-- The beats of a STORE of n bytes at a logical address: the byte mask of the line, then its 128 data bytes (R388). -/
def storeBeats (addr n x : Nat) : List (BitVec 128) :=
  let o := addr % 128
  let data := x % 2 ^ (8 * n) * 2 ^ (8 * o)
  BitVec.ofNat 128 ((2 ^ n - 1) * 2 ^ o) :: (List.range 8).map fun i => BitVec.ofNat 128 (data / 2 ^ (128 * i))

/-- The naturally aligned pieces of at most 8 bytes of n bytes at an address: offset and length (R182). -/
def piecesFrom (a n : Nat) : Nat → Nat → List (Nat × Nat)
  | 0, _ => []
  | fuel + 1, k =>
    if n ≤ k then []
    else
      let m := min (8 - (a + k) % 8) (n - k)
      (k, m) :: piecesFrom a n fuel (k + m)
/-- All of them. -/
def pieces (a n : Nat) : List (Nat × Nat) := piecesFrom a n n 0

end Sys2Proof.Machine
end

