-- ==== Sys2Proof/Machine/Legality.lean ====
section
/-!
DEFINITION. The legality of an instruction word beyond its fields' ranges (04_encoding R62 to R75 and the rules of each word): which
operands are illegal, the special registers, the class of a major, and which registers a word names.
-/
namespace Sys2Proof

/-- Why bits are no instruction (all of them end the group with code 0x01, R64). -/
inductive Reject where
  /-- No word to read. -/
  | noWord
  /-- Majors 0x00, 0x17, 0x3D, 0x3E, 0x3F (R64). -/
  | reservedMajor
  /-- A minor or kind that the opcode map lists as a dash (R83, R84). -/
  | reservedMinor
  /-- A non-zero field that the word does not use (R64). -/
  | unusedField
  /-- A scalar-arithmetic word with a guard other than p0 (R65). -/
  | guardNotZero
  /-- An odd register where a pair is named (R66). -/
  | oddPair
  /-- A register that is no multiple of 4 where a quad is named (R66). -/
  | badQuad
  /-- A predicate field above 7 (R162, R223). -/
  | badPredicate
  /-- pd1 = pd2 where the combine type forbids it (R75). -/
  | samePredicate
  /-- A special register number that R68 does not list (R69). -/
  | unlistedRegister
  /-- A conversion that R149 makes illegal. -/
  | badConversion
  /-- A scope, path or SEAL that R241 makes illegal. -/
  | badOrdering
  /-- An allotment outside 8 to 64 (R229, R230). -/
  | badAllotment
  /-- A literal past the last word of the clause (R70). -/
  | literalMissing
  deriving DecidableEq, Repr

/-- The width of a special register, for the numbers that R68 lists. -/
def specialWidth (n : Nat) : Option Nat :=
  match n with
  | 0x001 => some 5 | 0x002 => some 6 | 0x003 => some 32 | 0x004 => some 16 | 0x005 => some 16 | 0x006 => some 16
  | 0x007 => some 64 | 0x008 => some 8 | 0x009 => some 5 | 0x00A => some 3 | 0x00B => some 12 | 0x00C => some 2
  | 0x010 => some 7 | 0x011 => some 11 | 0x012 => some 64
  | 0x020 => some 64 | 0x021 => some 64 | 0x022 => some 64 | 0x023 => some 64
  | 0x030 => some 64 | 0x031 => some 64
  | 0x040 => some 32 | 0x041 => some 64 | 0x042 => some 64
  | _ => none

namespace Machine

/-- A check on operands: the first that fails rejects. -/
def firstReject : List (Bool × Reject) → Option Reject
  | [] => none
  | (ok, r) :: rest => if ok then firstReject rest else some r

/-- The register is even (R66). -/
def pairOk (n : Nat) : Bool × Reject := (n % 2 == 0, .oddPair)
/-- The register is a multiple of 4 (R66). -/
def quadOk (n : Nat) : Bool × Reject := (n % 4 == 0, .badQuad)
/-- The field names a predicate (R162). -/
def predOk (n : Nat) : Bool × Reject := (decide (n < 8), .badPredicate)

/-- Element types of CVT that occupy a pair: S64, N64, F64 (R86). -/
def cvtWide (ty : Nat) : Bool := ty == 2 || ty == 3 || ty == 7
/-- Integer types of CVT (R86). -/
def cvtInt (ty : Nat) : Bool := decide (ty < 4)
/-- A conversion that is exact for every operand and so takes no rounding mode (R149). -/
def cvtExact (src dst : Nat) : Bool :=
  (cvtInt src && cvtInt dst) || ((src == 4 || src == 5) && (dst == 6 || dst == 7)) || (src == 6 && dst == 7)
    || ((src == 0 || src == 1) && dst == 7)
/-- A conversion from a float to a wider float (R149). -/
def cvtWidens (src dst : Nat) : Bool := ((src == 4 || src == 5) && (dst == 6 || dst == 7)) || (src == 6 && dst == 7)

/-- R149's legality of CVT. -/
def cvtFault (o : ArgsCvt) : Option Reject :=
  firstReject [(o.src != o.dst, .badConversion), (!cvtWide o.src || o.a % 2 == 0, .oddPair),
    (!cvtWide o.dst || o.d % 2 == 0, .oddPair), (o.rm == 0 || !cvtExact o.src o.dst, .badConversion),
    (!(o.sat && cvtWidens o.src o.dst), .badConversion)]

/-- R75's legality of a compare. -/
def cmpFault (o : ArgsCmp) : Bool × Reject :=
  (!((o.k == 0 || o.k == 1 || o.k == 6 || o.k == 7) && o.p == o.q && o.p != 0), .samePredicate)

/-- A 64-bit word of R136 with d and a even, and b even when it names a v register. -/
def add64Fault (o : ArgsRS) : Option Reject := firstReject [pairOk o.d, pairOk o.a, (o.s || o.b % 2 == 0, .oddPair)]
/-- A double-precision word: d, a and b are pairs (R147). -/
def dopFault (o : ArgsR3) : Option Reject := firstReject [pairOk o.d, pairOk o.a, pairOk o.b]
/-- A scan or reduction: b is a predicate number (R165, R166). -/
def reduceFault (o : ArgsR3) : Option Reject := firstReject [predOk o.b]
/-- RGIVE and RCLAIM: 2 to 16 (R229, R230). -/
def allotFault (n : Nat) : Option Reject := firstReject [(decide (2 ≤ n) && decide (n ≤ 16), .badAllotment)]

/-- What is illegal about the operands of a word whose fields are in range (R66, R69, R75 and the rules of each word). -/
def operandFault : Instr → Option Reject
  | .add64 o | .sub64 o | .mul64 o => add64Fault o
  | .mulw o => firstReject [pairOk o.d]
  | .dadd o | .dsub o | .dmul o | .dfma o | .dmin o | .dmax o | .ddiv o => dopFault o
  | .dsqrt o => firstReject [pairOk o.d, pairOk o.a]
  | .cvt o => cvtFault o
  | .up8e4 o | .up8e5 o | .up4 o | .dq4 o => firstReject [pairOk o.d]
  | .icmp o | .ucmp o | .fcmp o | .scmp o => firstReject [cmpFault o]
  | .dcmp o => firstReject [pairOk o.a, pairOk o.b, cmpFault o]
  | .rdsr o =>
    match specialWidth o.n with
    | none => some .unlistedRegister
    | some w => firstReject [(w != 64 || o.d % 2 == 0, .oddPair)]
  | .wrsr o => if (specialWidth o.n).isNone then some .unlistedRegister else none
  | .rdpc o => firstReject [pairOk o.d]
  | .vall o | .vany o => firstReject [predOk o.d, predOk o.a]
  | .ballot o => firstReject [predOk o.a]
  | .pand o | .por o | .pxor o => firstReject [predOk o.d, predOk o.a]
  | .pset o => firstReject [predOk o.d]
  | .gredAdd o | .gredMin o | .gredMax o | .gredMinu o | .gredMaxu o | .gredFadd o | .gredFmin o | .gredFmax o
  | .scani o | .scanx o | .scanf o | .scanfx o | .scanmax o | .scanmin o | .segscan o => reduceFault o
  | .ldD o | .stD o | .ldsD o | .stsD o => firstReject [pairOk o.t]
  | .ldQ o | .stQ o | .ldsQ o | .stsQ o | .stsf o => firstReject [quadOk o.t]
  | .ldfD o => firstReject [pairOk o.t]
  | .ldfQ o => firstReject [quadOk o.t]
  | .ldaW o | .staW o => firstReject [pairOk o.idx]
  | .ldaD o | .staD o => firstReject [pairOk o.t, pairOk o.idx]
  | .ldaQ o | .staQ o => firstReject [quadOk o.t, pairOk o.idx]
  | .atomxXchg64 o | .atomxAdd64 o | .atomxFadd64 o | .cas32 o | .bsmx o => firstReject [pairOk o.t]
  | .cas64 o => firstReject [quadOk o.t]
  | .obres o => firstReject [pairOk o.t, pairOk o.base]
  | .mma o | .mmaq o => firstReject [quadOk o.t]
  | .accz o | .acczD o => firstReject [quadOk o.t]
  | .cpy o => firstReject [quadOk o.base]
  | .cpyt o => firstReject [pairOk o.t]
  | .cpyn o => firstReject [pairOk o.t]
  | .nmc o => firstReject [pairOk o.t]
  | .rel o => firstReject [(!(o.sealed && o.scope == 0), .badOrdering)]
  | .fencex o => firstReject [(decide (o.pa < 6) && decide (o.pb < 6) && decide (o.pa < o.pb), .badOrdering)]
  | .waitc o => firstReject [pairOk o.t]
  | .snap o => firstReject [pairOk o.t]
  | .regrpTeam o | .regrpCore o => firstReject [predOk o.p]
  | .rgive o => allotFault o.n4
  | .rclaim o => allotFault o.n4
  | .brx o | .callx o => firstReject [pairOk o.a]
  | _ => none

end Machine
end Sys2Proof
end

