-- ==== Sys2Proof/Machine/Float.lean ====
section
/-!
DEFINITION. Number formats and arithmetic (06_numbers): integer wrap and saturation, floating-point formats, rounding, flags, and the
correctly rounded functions.
-/
namespace Sys2Proof.Machine

/-! ## Flags (R112) -/

/-- NV, DZ, OF, UF, NX, SV as bits 0 to 5 of %fpflags. -/
abbrev Flags := BitVec 6

/-- Invalid operation. -/
def fNV : Flags := 1
/-- Division by zero. -/
def fDZ : Flags := 2
/-- Overflow. -/
def fOF : Flags := 4
/-- Underflow. -/
def fUF : Flags := 8
/-- Inexact. -/
def fNX : Flags := 16
/-- Clamped. -/
def fSV : Flags := 32

/-- A flag raised when the condition holds. -/
def flagIf (c : Bool) (f : Flags) : Flags := if c then f else 0

/-! ## Integers (R93, R95) -/

/-- Sat(f, x) for the range lo to hi (R95). -/
def satInt (lo hi x : Int) : Int := if x < lo then lo else if hi < x then hi else x

/-- The least value of a width-n format, signed or not. -/
def intLo (signed : Bool) (n : Nat) : Int := if signed then -(2 ^ (n - 1) : Nat) else 0
/-- The greatest value of a width-n format. -/
def intHi (signed : Bool) (n : Nat) : Int := if signed then (2 ^ (n - 1) : Nat) - 1 else (2 ^ n : Nat) - 1

/-- The number of binary digits of n. -/
def bitLength (n : Nat) : Nat := if n = 0 then 0 else Nat.log2 n + 1

/-! ## Formats (R96, R97) -/

/-- Special encodings of a format (R98). -/
inductive FmtKind where
  | ieee | e4m3 | e2m1
  deriving DecidableEq, Repr

/-- A floating-point format: exponent bits, fraction bits, bias. -/
structure Fmt where
  e : Nat
  f : Nat
  bias : Nat
  kind : FmtKind
  deriving DecidableEq, Repr

/-- binary64. -/
def F64 : Fmt := ⟨11, 52, 1023, .ieee⟩
/-- binary32. -/
def F32 : Fmt := ⟨8, 23, 127, .ieee⟩
/-- binary16. -/
def F16 : Fmt := ⟨5, 10, 15, .ieee⟩
/-- bfloat16. -/
def BF16 : Fmt := ⟨8, 7, 127, .ieee⟩
/-- 8-bit, 5 exponent bits. -/
def E5M2 : Fmt := ⟨5, 2, 15, .ieee⟩
/-- 8-bit, 4 exponent bits. -/
def E4M3 : Fmt := ⟨4, 3, 7, .e4m3⟩
/-- 4-bit. -/
def E2M1 : Fmt := ⟨2, 1, 1, .e2m1⟩

/-- Codes of the magnitude: 2^(E+F), the place of the sign bit. -/
def Fmt.signBit (t : Fmt) : Nat := 2 ^ (t.e + t.f)
/-- The code of infinity, for formats that have one. -/
def Fmt.infCode (t : Fmt) : Nat := (2 ^ t.e - 1) * 2 ^ t.f
/-- The code of the largest finite magnitude (R97). -/
def Fmt.maxCode (t : Fmt) : Nat :=
  match t.kind with
  | .ieee => t.infCode - 1
  | .e4m3 => 0x7E
  | .e2m1 => 7
/-- The canonical quiet NaN (R99); E2M1 has none and the rule that can meet one gives its own result. -/
def Fmt.nanCode (t : Fmt) : Nat :=
  match t.kind with
  | .ieee => t.infCode + 2 ^ (t.f - 1)
  | .e4m3 => 0x7F
  | .e2m1 => 0
/-- The exponent of the subnormal unit. -/
def Fmt.qmin (t : Fmt) : Int := 1 - (t.bias : Int) - (t.f : Int)

/-- The value of an encoding: a NaN, an infinity, or (−1)^neg × m × 2^x. -/
inductive FVal where
  | nan (signalling : Bool)
  | inf (neg : Bool)
  | fin (neg : Bool) (m : Nat) (x : Int)
  deriving DecidableEq, Repr

/-- The value that a code denotes (R96, R98). Code 0b1000 of E2M1 is the extra value, which decodeE2m1 gives. -/
def Fmt.value (t : Fmt) (code : Nat) : FVal :=
  let neg := code / t.signBit % 2 == 1
  let ef := code % t.signBit
  let ex := ef / 2 ^ t.f
  let fr := ef % 2 ^ t.f
  match t.kind with
  | .ieee =>
    if ex = 2 ^ t.e - 1 then
      if fr = 0 then .inf neg else .nan (fr / 2 ^ (t.f - 1) == 0)
    else if ex = 0 then .fin neg fr t.qmin else .fin neg (2 ^ t.f + fr) (t.qmin + ex - 1)
  | .e4m3 =>
    if ef = 0x7F then .nan false
    else if ex = 0 then .fin neg fr t.qmin else .fin neg (2 ^ t.f + fr) (t.qmin + ex - 1)
  | .e2m1 =>
    if ex = 0 then .fin neg fr t.qmin else .fin neg (2 ^ t.f + fr) (t.qmin + ex - 1)

/-- An E2M1 code with the extra value X (R100): a NaN X decodes as the quiet NaN, with its signalling mark kept for UP4 (R152). -/
def decodeE2m1 (x : BitVec 16) (code : Nat) : FVal := if code % 16 = 8 then F16.value x.toNat else E2M1.value (code % 16)

/-- A NaN of either kind. -/
def FVal.isNan : FVal → Bool
  | .nan _ => true
  | _ => false
/-- A signalling NaN. -/
def FVal.isSnan : FVal → Bool
  | .nan s => s
  | _ => false
/-- NV for a signalling operand (R109). -/
def FVal.snanFlag (v : FVal) : Flags := flagIf v.isSnan fNV
/-- The sign. -/
def FVal.isNeg : FVal → Bool
  | .nan _ => false
  | .inf n => n
  | .fin n _ _ => n
/-- The value with its sign reversed. -/
def FVal.negate : FVal → FVal
  | .nan s => .nan s
  | .inf n => .inf !n
  | .fin n m x => .fin (!n) m x

/-! ## Rounding (R103 to R107) -/

/-- Rounding modes (R85): 0 .RN, 1 .RZ, 2 .RP, 3 .RM. Whether the magnitude goes up from n, given the remainder against half a unit. -/
def roundUp (rm : Nat) (neg : Bool) (n rem half : Nat) : Bool :=
  match rm with
  | 0 => decide (half < rem) || (rem == half && rem != 0 && n % 2 == 1)
  | 1 => false
  | 2 => rem != 0 && !neg
  | _ => rem != 0 && neg

/-- Round m × 2^x to a multiple of 2^u: the multiple and whether it is inexact. -/
def roundUnit (rm : Nat) (neg : Bool) (m : Nat) (x u : Int) : Nat × Bool :=
  if u ≤ x then (m * 2 ^ (x - u).toNat, false)
  else
    let d := 2 ^ (u - x).toNat
    let n := m / d
    let rem := m % d
    (if roundUp rm neg (n : Nat) (2 * rem) d then n + 1 else n, rem != 0)

/-- The sign of a code; E2M1 has no negative zero (R100). -/
def Fmt.withSign (t : Fmt) (neg : Bool) (c : Nat) : Nat :=
  if neg && !(t.kind == .e2m1 && c == 0) then t.signBit + c else c

/-- The overflow result (R104), as a magnitude code. -/
def Fmt.overflow (t : Fmt) (neg : Bool) (rm : Nat) : Nat :=
  match t.kind with
  | .ieee =>
    match rm with
    | 0 => t.infCode
    | 1 => t.maxCode
    | 2 => if neg then t.maxCode else t.infCode
    | _ => if neg then t.infCode else t.maxCode
  | _ => t.maxCode

/-- Round the non-zero m × 2^x, or RoundSat with sat (R103, R104, R105, R107). -/
def Fmt.roundFin (t : Fmt) (sat : Bool) (neg : Bool) (m : Nat) (x : Int) (rm : Nat) : Nat × Flags :=
  if m = 0 then (t.withSign neg 0, 0)
  else
    let lead : Int := (bitLength m : Int) - 1 + x
    let u0 := lead - t.f
    let u := if u0 < t.qmin then t.qmin else u0
    let (n, inexact) := roundUnit rm neg m x u
    let code := (u - t.qmin).toNat * 2 ^ t.f + n
    if t.maxCode < code then
      if sat then (t.withSign neg t.maxCode, fSV ||| fNX)
      else (t.withSign neg (t.overflow neg rm), fOF ||| fNX)
    else
      let (n0, _) := roundUnit rm neg m x u0
      let lead' := if 2 ^ (t.f + 1) ≤ n0 then lead + 1 else lead
      let tiny := decide (lead' < 1 - (t.bias : Int))
      (t.withSign neg code, flagIf inexact fNX ||| flagIf (tiny && inexact) fUF)

/-- Round(fmt, x, rm) of a value (R103, R104, R108); an infinity stays, in a format without one it is the largest finite and raises SV
as RoundSat does (log entry 13, DEDUCED). -/
def Fmt.round (t : Fmt) (v : FVal) (rm : Nat) : Nat × Flags :=
  match v with
  | .nan _ => (t.nanCode, v.snanFlag)
  | .inf n => if t.kind = .ieee then (t.withSign n t.infCode, 0) else (t.withSign n t.maxCode, fSV)
  | .fin n m x => t.roundFin false n m x rm

/-- RoundSat(fmt, x, rm) (R107). -/
def Fmt.roundSat (t : Fmt) (v : FVal) (rm : Nat) : Nat × Flags :=
  match v with
  | .nan _ => (t.nanCode, v.snanFlag)
  | .inf n => (t.withSign n t.maxCode, fSV)
  | .fin n m x => t.roundFin true n m x rm

/-- Round(f, x, rm) for an integer format (R106): the integer and the flags. -/
def roundInteger (lo hi : Int) (v : FVal) (rm : Nat) : Int × Flags :=
  match v with
  | .nan _ => (0, fNV)
  | .inf n => (if n then lo else hi, fSV)
  | .fin n m x =>
    let (k, inexact) := roundUnit rm n m x 0
    let i : Int := if n then -(k : Int) else k
    if i < lo then (lo, fSV) else if hi < i then (hi, fSV) else (i, flagIf inexact fNX)

/-- The value of an integer. -/
def FVal.ofInt (i : Int) : FVal := .fin (decide (i < 0)) i.natAbs 0

/-! ## Arithmetic -/

/-- The signed numerator of ±m × 2^x over 2^u, for u ≤ x. -/
def scaled (neg : Bool) (m : Nat) (x u : Int) : Int :=
  let k : Int := (m * 2 ^ (x - u).toNat : Nat)
  if neg then -k else k

/-- The exact sum of two values, with the flags of R109 and the zero sign of R110. -/
def FVal.add (a b : FVal) (rm : Nat) : FVal × Flags :=
  match a, b with
  | .nan s, v => (.nan false, flagIf (s || v.isSnan) fNV)
  | v, .nan s => (.nan false, flagIf (s || v.isSnan) fNV)
  | .inf n, .inf n' => if n = n' then (.inf n, 0) else (.nan false, fNV)
  | .inf n, .fin _ _ _ => (.inf n, 0)
  | .fin _ _ _, .inf n => (.inf n, 0)
  | .fin n m x, .fin n' m' x' =>
    let u := if x ≤ x' then x else x'
    let t := scaled n m x u + scaled n' m' x' u
    if t = 0 then (.fin (if m = 0 && m' = 0 && n = n' then n else decide (rm = 3)) 0 u, 0)
    else (.fin (decide (t < 0)) t.natAbs u, 0)

/-- The exact product (R109, R110). -/
def FVal.mul (a b : FVal) : FVal × Flags :=
  match a, b with
  | .nan s, v => (.nan false, flagIf (s || v.isSnan) fNV)
  | v, .nan s => (.nan false, flagIf (s || v.isSnan) fNV)
  | .inf n, .inf n' => (.inf (n != n'), 0)
  | .inf n, .fin n' m _ => if m = 0 then (.nan false, fNV) else (.inf (n != n'), 0)
  | .fin n m _, .inf n' => if m = 0 then (.nan false, fNV) else (.inf (n != n'), 0)
  | .fin n m x, .fin n' m' x' => (.fin (n != n') (m * m') (x + x'), 0)

/-- Round(fmt, a + b, rm). -/
def Fmt.add (t : Fmt) (a b rm : Nat) : Nat × Flags :=
  let (v, f) := (t.value a).add (t.value b) rm
  let (c, f') := t.round v rm
  (c, f ||| f')

/-- Round(fmt, a − b, rm). -/
def Fmt.sub (t : Fmt) (a b rm : Nat) : Nat × Flags :=
  let (v, f) := (t.value a).add (t.value b).negate rm
  let (c, f') := t.round v rm
  (c, f ||| f')

/-- Round(fmt, a × b, rm). -/
def Fmt.mul (t : Fmt) (a b rm : Nat) : Nat × Flags :=
  let (v, f) := (t.value a).mul (t.value b)
  let (c, f') := t.round v rm
  (c, f ||| f')

/-- Round(fmt, a × b ± d, rm) with one rounding (R144). -/
def Fmt.fma (t : Fmt) (a b d : Nat) (minus : Bool) (rm : Nat) : Nat × Flags :=
  let (p, f0) := (t.value a).mul (t.value b)
  let c := t.value d
  let (v, f) := p.add (if minus then c.negate else c) rm
  let (r, f') := t.round v rm
  (r, f0 ||| f ||| f')

/-- a < b on values that are no NaN; −0 and +0 are equal here. -/
def FVal.lt (a b : FVal) : Bool :=
  match a, b with
  | .nan _, _ => false
  | _, .nan _ => false
  | .inf n, .inf n' => n && !n'
  | .inf n, .fin _ _ _ => n
  | .fin _ _ _, .inf n => !n
  | .fin n m x, .fin n' m' x' =>
    let u := if x ≤ x' then x else x'
    decide (scaled n m x u < scaled n' m' x' u)

/-- a = b on values that are no NaN. -/
def FVal.eqv (a b : FVal) : Bool := !a.isNan && !b.isNan && !a.lt b && !b.lt a

/-- a precedes b in the order of R145, where −0 counts as less than +0. -/
def FVal.before (a b : FVal) : Bool :=
  a.lt b || (a.eqv b && a.isNeg && !b.isNeg)

/-- The rule of FMIN (max = false) and FMAX (R145); `number` selects FMINP and FMAXP, where the other operand of a NaN is the result. -/
def Fmt.select (t : Fmt) (max number : Bool) (a b : Nat) : Nat × Flags :=
  let va := t.value a
  let vb := t.value b
  let f := va.snanFlag ||| vb.snanFlag
  if va.isNan && vb.isNan then (t.nanCode, f)
  else if va.isNan then (if number then b else t.nanCode, f)
  else if vb.isNan then (if number then a else t.nanCode, f)
  else if max then (if va.before vb then b else a, f)
  else (if vb.before va then b else a, f)

/-- A lone value of a reduction: unchanged unless a NaN (R165). -/
def Fmt.lone (t : Fmt) (a : Nat) : Nat × Flags :=
  let v := t.value a
  if v.isNan then (t.nanCode, v.snanFlag) else (a, 0)

/-- Fold(fmt, P) with the single-lane rule (R120, R165); an empty list gives zero. -/
def Fmt.fold (t : Fmt) : List Nat → Nat × Flags
  | [] => (0, 0)
  | [a] => t.lone a
  | a :: rest => rest.foldl (fun (acc : Nat × Flags) b => let (c, f) := t.add acc.1 b 0; (c, acc.2 ||| f)) (a, 0)

/-- The FMIN or FMAX rule applied from the first value through the last (R165). -/
def Fmt.foldSelect (t : Fmt) (max : Bool) : List Nat → Nat × Flags
  | [] => (if max then t.withSign true t.infCode else t.infCode, 0)
  | [a] => t.lone a
  | a :: rest => rest.foldl (fun (acc : Nat × Flags) b => let (c, f) := t.select max false acc.1 b; (c, acc.2 ||| f)) (a, 0)

/-! ## Quotients and roots (R116, R117) -/

/-- A quotient a / b of non-zero magnitudes as a dyadic whose last bit stands for a remainder. It carries at least 66 significant
bits, more than any rounding needs. -/
def quotient (ma : Nat) (xa : Int) (mb : Nat) (xb : Int) : Nat × Int :=
  let k := bitLength mb + 66 - bitLength ma
  let n := ma * 2 ^ k
  (2 * (n / mb) + (if n % mb = 0 then 0 else 1), xa - xb - k - 1)

/-- The integer square root by the digits from bit k − 1 down. -/
def isqrtFrom (n : Nat) : Nat → Nat → Nat
  | 0, r => r
  | k + 1, r => let r' := r + 2 ^ k; isqrtFrom n k (if r' * r' ≤ n then r' else r)

/-- The integer square root. -/
def isqrt (n : Nat) : Nat := isqrtFrom n ((bitLength n + 1) / 2) 0

/-- √(m × 2^x) as a dyadic whose last bit stands for a remainder. -/
def squareRoot (m : Nat) (x : Int) : Nat × Int :=
  let k0 := 140 - bitLength m
  let k := if (x - k0) % 2 = 0 then k0 else k0 + 1
  let n := m * 2 ^ k
  let r := isqrt n
  (2 * r + (if r * r = n then 0 else 1), (x - k) / 2 - 1)

/-- 1 ÷ x, flags included (R116, R117). -/
def Fmt.recip (t : Fmt) (a : Nat) : Nat × Flags :=
  match t.value a with
  | .nan s => (t.nanCode, flagIf s fNV)
  | .inf n => (t.withSign n 0, 0)
  | .fin n 0 _ => (t.withSign n t.infCode, fDZ)
  | .fin n m x => let (q, y) := quotient 1 0 m x; t.roundFin false n q y 0

/-- a ÷ b. -/
def Fmt.div (t : Fmt) (a b : Nat) : Nat × Flags :=
  match t.value a, t.value b with
  | .nan s, v => (t.nanCode, flagIf (s || v.isSnan) fNV)
  | v, .nan s => (t.nanCode, flagIf (s || v.isSnan) fNV)
  | .inf _, .inf _ => (t.nanCode, fNV)
  | .inf n, .fin n' _ _ => (t.withSign (n != n') t.infCode, 0)
  | .fin n _ _, .inf n' => (t.withSign (n != n') 0, 0)
  | .fin _ 0 _, .fin _ 0 _ => (t.nanCode, fNV)
  | .fin n _ _, .fin n' 0 _ => (t.withSign (n != n') t.infCode, fDZ)
  | .fin n 0 _, .fin n' _ _ => (t.withSign (n != n') 0, 0)
  | .fin n m x, .fin n' m' x' => let (q, y) := quotient m x m' x'; t.roundFin false (n != n') q y 0

/-- √x. -/
def Fmt.sqrt (t : Fmt) (a : Nat) : Nat × Flags :=
  match t.value a with
  | .nan s => (t.nanCode, flagIf s fNV)
  | .inf n => if n then (t.nanCode, fNV) else (t.infCode, 0)
  | .fin _ 0 _ => (a, 0)
  | .fin n m x => if n then (t.nanCode, fNV) else let (q, y) := squareRoot m x; t.roundFin false false q y 0

/-- 1 ÷ √x: the root of the quotient 2^(2k) / m, its remainder kept in the last bit. -/
def Fmt.rsqrt (t : Fmt) (a : Nat) : Nat × Flags :=
  match t.value a with
  | .nan s => (t.nanCode, flagIf s fNV)
  | .inf n => if n then (t.nanCode, fNV) else (0, 0)
  | .fin n 0 _ => (t.withSign n t.infCode, fDZ)
  | .fin n m x =>
    if n then (t.nanCode, fNV)
    else
      let (m', x') : Nat × Int := if x % 2 = 0 then (m, x) else (2 * m, x - 1)
      let r := isqrt (2 ^ 200 / m')
      t.roundFin false false (2 * r + (if r * r * m' = 2 ^ 200 then 0 else 1)) (-x' / 2 - 101) 0

/-! ## Elementary functions (R116): fixed point with 256 fraction bits (log entry 14, DEDUCED) -/

/-- Fraction bits. -/
def fxBits : Nat := 256
/-- One. -/
def fxOne : Nat := 2 ^ 256
/-- ln 2. -/
def fxLn2 : Nat := 0xb17217f7d1cf79abc9e3b39803f2f6af40f343267298b62d8a0d175b8baafa2b
/-- 2π. -/
def fxTwoPi : Nat := 0x6487ed5110b4611a62633145c06e0e68948127044533e63a0105df531d89cd912

/-- y + y²/2 + … : the sum of y^k / k! from the term `t` on. -/
def expTerms (y : Nat) : Nat → Nat → Nat → Nat
  | 0, _, _ => 0
  | fuel + 1, k, t => t + expTerms y fuel (k + 1) (t * y / fxOne / (k + 1))

/-- e^y for y below 1. -/
def fxExp (y : Nat) : Nat := expTerms y 64 0 fxOne

/-- z + z³/3 + z⁵/5 + … : the sum of `t` / k over odd k. -/
def atanhTerms (z2 : Nat) : Nat → Nat → Nat → Nat
  | 0, _, _ => 0
  | fuel + 1, k, t => t / k + atanhTerms z2 fuel (k + 2) (t * z2 / fxOne)

/-- log₂ of m / 2^l for l = bitLength m − 1: 2 atanh((m − 2^l) / (m + 2^l)) / ln 2. -/
def fxLog2 (m : Nat) : Nat :=
  let one := 2 ^ (bitLength m - 1)
  let z := (m - one) * fxOne / (m + one)
  2 * atanhTerms (z * z / fxOne) 100 1 z * fxOne / fxLn2

/-- The alternating sums of sine (from k = 1) and cosine (from k = 0): `t` is the term of degree k. -/
def circTerms (y2 : Nat) : Nat → Nat → Nat → Int
  | 0, _, _ => 0
  | fuel + 1, k, t => t - circTerms y2 fuel (k + 2) (t * y2 / fxOne / ((k + 1) * (k + 2)))

/-- sin of an angle y below 1, in fixed point. -/
def fxSin (y : Nat) : Nat := (circTerms (y * y / fxOne) 32 1 y).toNat
/-- cos of an angle y below 1. -/
def fxCos (y : Nat) : Nat := (circTerms (y * y / fxOne) 32 0 fxOne).toNat

/-- 2^x. -/
def Fmt.exp2 (t : Fmt) (a : Nat) : Nat × Flags :=
  match t.value a with
  | .nan s => (t.nanCode, flagIf s fNV)
  | .inf n => if n then (0, 0) else (t.infCode, 0)
  | .fin n m x =>
    if m = 0 then t.roundFin false false 1 0 0
    else if 1000 ≤ m * 2 ^ x.toNat && 0 ≤ x || 1000 * 2 ^ (-x).toNat ≤ m && x < 0 then
      t.roundFin false false 1 (if n then -1000 else 1000) 0
    else
      let v := scaled n m x (-256)
      let i := v / (fxOne : Int)
      let f := (v % (fxOne : Int)).toNat
      if f = 0 then t.roundFin false false 1 i 0
      else t.roundFin false false (2 * fxExp (f * fxLn2 / fxOne) + 1) (i - 257) 0

/-- log₂ x. -/
def Fmt.log2 (t : Fmt) (a : Nat) : Nat × Flags :=
  match t.value a with
  | .nan s => (t.nanCode, flagIf s fNV)
  | .inf n => if n then (t.nanCode, fNV) else (t.infCode, 0)
  | .fin _ 0 _ => (t.withSign true t.infCode, fDZ)
  | .fin n m x =>
    if n then (t.nanCode, fNV)
    else
      let lead : Int := (bitLength m : Int) - 1 + x
      if m = 2 ^ (bitLength m - 1) then t.roundFin false (decide (lead < 0)) lead.natAbs 0 0
      else
        let v : Int := lead * fxOne + fxLog2 m
        t.roundFin false (decide (v < 0)) (2 * v.natAbs + 1) (-257) 0

/-- sin and cos of a reduced angle of r / 2^256 turns, r at most an eighth, sticky bit included. -/
def turnSin (r : Nat) : Nat := fxSin (r * fxTwoPi / fxOne)
/-- See turnSin. -/
def turnCos (r : Nat) : Nat := fxCos (r * fxTwoPi / fxOne)

/-- sin of f / 2^256 turns for f below one turn and no multiple of a quarter: its sign and magnitude. -/
def sinTurns (f : Nat) : Bool × Nat :=
  let half := fxOne / 2
  let neg := decide (half ≤ f)
  let g := f % half
  let quarter := fxOne / 4
  let h := if quarter < g then half - g else g
  (neg, if h ≤ fxOne / 8 then turnSin h else turnCos (quarter - h))

/-- sin(2πx) (cos := false) and cos(2πx) (R117). -/
def Fmt.circ (t : Fmt) (cos : Bool) (a : Nat) : Nat × Flags :=
  match t.value a with
  | .nan s => (t.nanCode, flagIf s fNV)
  | .inf _ => (t.nanCode, fNV)
  | .fin n m x =>
    let v := scaled n m x (-256)
    let quarter := fxOne / 4
    let f := ((if cos then v + (quarter : Int) else v) % (fxOne : Int)).toNat
    if f % (fxOne / 2) = 0 then (if cos then 0 else t.withSign n 0, 0)
    else if f % quarter = 0 then t.roundFin false (decide (fxOne / 2 < f)) 1 0 0
    else
      let (neg, k) := sinTurns f
      t.roundFin false neg (2 * k + 1) (-257) 0

/-! ## Quantized formats (R101, R102) -/

/-- Deq(q, σ, z) (R101). A zero has the sign of σ, reversed when q < z (R110). -/
def deq (q z : Nat) (sigma : BitVec 16) : FVal × Flags :=
  match F16.value sigma.toNat with
  | .nan s => (.nan false, flagIf s fNV)
  | .inf n => if q = z then (.nan false, fNV) else (.inf (n != decide (q < z)), 0)
  | .fin n m x => (.fin (n != decide (q < z)) (m * ((q : Int) - z).natAbs) x, 0)

/-- Quantization to a code of 2^w values (R102). -/
def quantize (w : Nat) (v : FVal) (sigma : BitVec 16) (z : Nat) : Nat × Flags :=
  match v, F16.value sigma.toNat with
  | .nan _, _ => (z, fNV)
  | _, .nan _ => (z, fNV)
  | _, .inf _ => (z, fNV)
  | _, .fin _ 0 _ => (z, fNV)
  | .inf n, .fin ns _ _ => (if n != ns then 0 else 2 ^ w - 1, fSV ||| fNX)
  | .fin n m x, .fin ns ms xs =>
    let num := m * 2 ^ (x - xs).toNat
    let den := ms * 2 ^ (xs - x).toNat
    let k := num / den
    let r := num % den
    let k' := if roundUp 0 false k (2 * r) den then k + 1 else k
    let nz : Int := (if n != ns then -(k' : Int) else k') + z
    let q := (satInt 0 (2 ^ w - 1 : Nat) nz).toNat
    let clamped := decide (nz < 0) || decide (((2 ^ w - 1 : Nat) : Int) < nz)
    (q, flagIf clamped fSV ||| flagIf (!(deq q z sigma).1.eqv v) fNX)

end Sys2Proof.Machine
end

