-- ==== Sys2Proof/Machine/Flags.lean ====
section
/-!
DEFINITION. %fpflags of a group (06_numbers R112 to R115): raising, reading, writing, and the union that a regroup takes.
-/
namespace Sys2Proof.Machine

/-- Flags accrue (R112). -/
def Group.raise (g : Group) (f : Flags) : Group := { g with fpflags := g.fpflags ||| f }
/-- WRSR of %fpflags: bits [5:0] of the source (R160). -/
def Group.writeFlags (g : Group) (x : DWord) : Group := { g with fpflags := x.setWidth 6 }
/-- The value that RDSR of %fpflags reads (R112). -/
def Group.readFlags (g : Group) : DWord := g.fpflags.setWidth 64
/-- The union of the flags of groups that enter a regroup (R115). -/
def unionFlags (gs : List Group) : Flags := gs.foldl (fun f g => f ||| g.fpflags) 0

end Sys2Proof.Machine
end

