-- ==== Sys2Proof/Machine/Armature.lean ====
section
/-!
DEFINITION. The armatures of logged and replica extents (18_log R299 to R302, R309, R314, R317): roots and leaves in index storage, pending entries with
their predecessors, the roots of casts. Nothing of it is visible but through what a read returns, which the image holds.
-/
namespace Sys2Proof.Machine

/-! ## Entries (R299, R300) -/

/-- A root entry as a word of 64 bits. -/
def RootEntry.encode (r : RootEntry) : Nat := 2 ^ 63 + r.stack % 8 * 2 ^ 59 + r.leaf % 2 ^ 23 * 2 ^ 36
/-- The 512 words of a root. -/
def Root.words (r : Root) : List Nat :=
  (List.range 512).map fun i => ((r.entries.find? fun x => x.place == i).map RootEntry.encode).getD 0
/-- A leaf entry as a word of 64 bits. -/
def LeafEntry.encode (x : LeafEntry) : Nat :=
  (if x.v then 2 ^ 63 else 0) + (if x.z then 2 ^ 62 else 0) + x.stack % 8 * 2 ^ 59 + x.sector % 2 ^ 29 * 2 ^ 30 + x.wslot % 2 ^ 12 * 2 ^ 18 + x.mark.toNat

/-- The entry of a sector that was never written. -/
def LeafEntry.blank (idx : Nat) : LeafEntry := { idx := idx, v := false, z := false, stack := 0, sector := 0, wslot := 0, mark := 0 }
/-- The entry of a lost sector (R317). -/
def LeafEntry.lost (idx : Nat) : LeafEntry := { LeafEntry.blank idx with z := true }
/-- The entry points to a copy. -/
def LeafEntry.hasCopy (x : LeafEntry) : Bool := x.v && !x.z
/-- It points to that copy. -/
def LeafEntry.pointsTo (x : LeafEntry) (stack sector : Nat) : Bool := x.hasCopy && x.stack == stack && x.sector == sector

/-- The entry of a sector in a leaf. -/
def Leaf.entry (l : Leaf) (idx : Nat) : LeafEntry := (l.entries.find? fun x => x.idx == idx).getD (LeafEntry.blank idx)
/-- Replace it. -/
def Leaf.put (l : Leaf) (x : LeafEntry) : Leaf :=
  let rest := l.entries.filter fun y => y.idx != x.idx
  { l with entries := if x = LeafEntry.blank x.idx then rest else rest ++ [x] }

/-! ## Roots and leaves -/

/-- The root of an extent, the current one or a cast's; an extent that nothing has been appended to has no root entry. -/
def State.rootOf (s : State) (ext : Nat) (cast : Option Nat) : Root :=
  (s.roots.find? fun r => r.ext == ext && r.cast == cast).getD { ext := ext, cast := cast, entries := [] }
/-- Replace it. -/
def State.putRoot (s : State) (r : Root) : State :=
  { s with roots := (s.roots.filter fun x => !(x.ext == r.ext && x.cast == r.cast)) ++ [r] }
/-- The leaf at an address of a stack's index storage. -/
def State.leafAt? (s : State) (stack addr : Nat) : Option Leaf := s.leaves.find? fun l => l.stack == stack && l.addr == addr
/-- The entry of a sector under a root. -/
def State.entryIn (s : State) (r : Root) (idx : Nat) : LeafEntry :=
  match r.entries.find? fun x => x.place == idx / 1024 with
  | some x => ((s.leafAt? x.stack x.leaf).map fun l => l.entry idx).getD (LeafEntry.blank idx)
  | none => LeafEntry.blank idx

/-- A free place for a leaf on a stack, the lowest. -/
def State.freeLeaf (s : State) (stack : Nat) : Nat :=
  ((List.range (s.leaves.length + 1)).find? fun a => (s.leafAt? stack a).isNone).getD 0
/-- A root gets a leaf of its own with those entries at a place. -/
def State.newLeaf (s : State) (r : Root) (stack place : Nat) (entries : List LeafEntry) : State :=
  let a := s.freeLeaf stack
  let s : State := { s with leaves := s.leaves ++ [{ stack := stack, addr := a, entries := entries }] }
  s.putRoot { r with entries := (r.entries.filter fun x => x.place != place) ++ [{ place := place, stack := stack, leaf := a }] }
/-- Another root shares the leaf. -/
def State.isShared (s : State) (r : Root) (x : RootEntry) : Bool :=
  s.roots.any fun q => !(q.ext == r.ext && q.cast == r.cast) && q.entries.any fun y => y.stack == x.stack && y.leaf == x.leaf

/-- The entry of a sector under the current root of an extent is replaced; a shared leaf is copied before it is changed (R309). -/
def State.putEntry (s : State) (ext stack : Nat) (x : LeafEntry) : State :=
  let r := s.rootOf ext none
  if s.entryIn r x.idx = x then s
  else
    match r.entries.find? fun y => y.place == x.idx / 1024 with
    | none => s.newLeaf r stack (x.idx / 1024) [x]
    | some y =>
      let l := (s.leafAt? y.stack y.leaf).getD { stack := y.stack, addr := y.leaf, entries := [] }
      if s.isShared r y then s.newLeaf r stack (x.idx / 1024) (l.put x).entries
      else { s with leaves := s.leaves.map fun (m : Leaf) => if m.stack = y.stack && m.addr == y.leaf then m.put x else m }

/-- Leaves that no root reaches are free. -/
def State.pruneLeaves (s : State) : State :=
  { s with leaves := s.leaves.filter fun l => s.roots.any fun r => r.entries.any fun x => x.stack == l.stack && x.leaf == l.addr }

/-! ## Pending entries and predecessors (R301) -/

/-- The record of the data sector at a physical sector of a stack, with its segment. -/
def State.recAt (s : State) (stack sector : Nat) : Option (Segment × SumRec) :=
  s.segments.findSome? fun g =>
    if g.stack = stack && decide (g.base ≤ sector) then (g.recs[sector - g.base]?).map fun r => (g, r) else none
/-- The copy to which an entry points is one that a test picks. -/
def State.copyIs (s : State) (x : LeafEntry) (p : SumRec → Bool) : Bool := x.hasCopy && ((s.recAt x.stack x.sector).any fun r => p r.2)
/-- An entry is pending: its mark is the one to come of its slot, and it was written since that mark last advanced, so that its copy is pending (R301). -/
def State.isPendingEntry (s : State) (x : LeafEntry) : Bool :=
  x.mark == (s.mark x.wslot + 1).setWidth 18 && s.copyIs x fun r => r.pending && r.live
/-- Its copy is a published one. -/
def State.isPublishedEntry (s : State) (x : LeafEntry) : Bool := s.copyIs x fun r => !r.pending && r.live
/-- The MARK of a published entry never meets the pending condition (R301). -/
def State.settledMark (s : State) (slot : Nat) (m : BitVec 32) : BitVec 18 :=
  let x : BitVec 18 := m.setWidth 18
  if x = (s.mark slot + 1).setWidth 18 then (s.mark slot).setWidth 18 else x
/-- The entry of a sector under the current root, and its predecessors, newest first. -/
def State.chain (s : State) (ext idx : Nat) : List LeafEntry :=
  s.entryIn (s.rootOf ext none) idx :: (s.preds.filter fun p => p.ext == ext && p.entry.idx == idx).map (·.entry)
/-- Replace them. -/
def State.putChain (s : State) (ext stack idx : Nat) (l : List LeafEntry) : State :=
  let s : State := { s with
    preds := (s.preds.filter fun p => !(p.ext == ext && p.entry.idx == idx)) ++ l.tail.map fun x => ({ ext := ext, entry := x } : Predecessor) }
  s.putEntry ext stack (l.headD (LeafEntry.blank idx))
/-- The published entry of a sector. -/
def State.published (s : State) (ext idx : Nat) : LeafEntry := (s.chain ext idx).getLastD (LeafEntry.blank idx)
/-- The pending entry of a slot and tag for a sector. -/
def State.pendingEntry (s : State) (slot : Nat) (tag : Option (Nat × Nat)) (ext idx : Nat) : Option LeafEntry :=
  (s.chain ext idx).find? fun x => s.isPendingEntry x && x.wslot == slot && s.copyIs x fun r => r.tag == tag
/-- The entry that a lookup for a writer slot finds: it follows predecessors to one that is published or pending under that slot. -/
def State.lookupEntry (s : State) (slot ext idx : Nat) : LeafEntry := (s.pendingEntry slot none ext idx).getD (s.published ext idx)

/-- A copy has been appended: a pending one stands before the entry that it replaces, an older pending one, which is dead by then, falls out; a published one
takes the place of the published entry, unless the sector is lost (R301, R305, R317). -/
def State.appendEntry (s : State) (ext stack : Nat) (pending : Bool) (x : LeafEntry) : State :=
  let l := s.chain ext x.idx
  let above := l.dropLast.filter s.isPendingEntry
  if pending then s.putChain ext stack x.idx (x :: (above ++ [l.getLastD (LeafEntry.blank x.idx)]))
  else if s.lost.contains (ext * 2 ^ 19 + x.idx) then s
  else s.putChain ext stack x.idx (above ++ [x])

/-- The entries of a sector follow its copies (R301): pending ones stay above, one whose copy has been published takes the place of the published entry, unless
the sector is lost (R300), and those whose copies are dead fall out, so that what they replaced stands again. -/
def State.settleEntry (s : State) (line : Nat) : State :=
  let ext := line / 2 ^ 19
  let idx := line % 2 ^ 19
  match s.extent? ext with
  | none => s
  | some e =>
    let l := s.chain ext idx
    let last := l.getLastD (LeafEntry.blank idx)
    let base := if s.lost.contains line then last else (l.dropLast.find? s.isPublishedEntry).getD last
    let l' := l.dropLast.filter s.isPendingEntry ++ [base]
    if l = l' then s else s.putChain ext e.home idx l'

/-- Published entries of a slot keep clear of the pending condition as its mark advances (R301). -/
def State.rewriteMarks (s : State) (slot : Nat) : State :=
  let m : BitVec 18 := (s.mark slot).setWidth 18
  let f : LeafEntry → LeafEntry := fun x => if x.wslot = slot && x.mark == m + 1 then { x with mark := m } else x
  { s with
    leaves := s.leaves.map fun (l : Leaf) => { l with entries := l.entries.map f }
    preds := s.preds.map fun (p : Predecessor) => { p with entry := f p.entry } }

/-! ## Copies that move or are lost (R314, R317) -/

/-- Every entry that points to a copy is replaced. -/
def State.mapCopy (s : State) (stack sector : Nat) (f : LeafEntry → LeafEntry) : State :=
  let g : LeafEntry → LeafEntry := fun x => if x.pointsTo stack sector then f x else x
  { s with
    leaves := s.leaves.map fun (l : Leaf) => { l with entries := l.entries.map g }
    preds := s.preds.map fun (p : Predecessor) => { p with entry := g p.entry } }
/-- The current root or a held cast, or a predecessor of a pending entry, references a copy (R314). -/
def State.references (s : State) (stack sector : Nat) : Bool :=
  s.leaves.any (fun l => l.entries.any fun x => x.pointsTo stack sector) || s.preds.any fun p => p.entry.pointsTo stack sector
/-- The casts of an extent whose root references a copy of a sector. -/
def State.castsWith (s : State) (ext idx stack sector : Nat) : List Nat :=
  s.roots.filterMap fun r => if r.ext = ext && (s.entryIn r idx).pointsTo stack sector then r.cast else none

/-! ## The roots of casts (R309, R312, R313) -/

/-- A cast takes the current root: it shares the leaves, but for those with a pending entry, of which it gets a copy with the published entries. -/
def State.castRoot (s : State) (ext idx : Nat) : State :=
  let r := s.rootOf ext none
  r.entries.foldl (fun (s : State) (x : RootEntry) =>
    let l := (s.leafAt? x.stack x.leaf).getD { stack := x.stack, addr := x.leaf, entries := [] }
    let c := s.rootOf ext (some idx)
    if l.entries.any s.isPendingEntry then
      s.newLeaf c x.stack x.place ((l.entries.map fun y => s.published ext y.idx).filter fun y => y != LeafEntry.blank y.idx)
    else s.putRoot { c with entries := c.entries ++ [x] }) (s.putRoot { ext := ext, cast := some idx, entries := [] })

/-- A cast's root goes. -/
def State.dropRoot (s : State) (ext idx : Nat) : State :=
  let s : State := { s with roots := s.roots.filter fun r => !(r.ext == ext && r.cast == some idx) }
  s.pruneLeaves

/-- The current root becomes that of a cast; pending entries of every slot stay pending over it (R313). -/
def State.revertRoot (s : State) (ext stack idx : Nat) : State :=
  let sectors := (s.preds.filter fun p => p.ext == ext).foldl (fun l p => addNew l p.entry.idx) []
  let above := sectors.map fun i => (i, (s.chain ext i).filter s.isPendingEntry)
  let s : State := { s with preds := s.preds.filter fun p => p.ext != ext }
  let s : State := s.putRoot { s.rootOf ext (some idx) with cast := none }
  (above.foldl (fun (s : State) (i, ps) => s.putChain ext stack i (ps ++ [s.entryIn (s.rootOf ext none) i])) s).pruneLeaves

/-- The armature of an extent goes with all its casts. -/
def State.dropArmature (s : State) (ext : Nat) : State :=
  let s : State := { s with
    roots := s.roots.filter fun r => r.ext != ext
    preds := s.preds.filter fun p => p.ext != ext }
  s.pruneLeaves

end Sys2Proof.Machine
end

