-- ==== Sys2Proof/Machine/Log.lean ====
section
/-!
DEFINITION. What a publication does to the log (18_log R300 to R307, R317 to R319): tags of dirty lines, summary records, lost sectors, and
what is to be shipped to replica peers; sealing; discarding what is pending.
-/
namespace Sys2Proof.Machine

/-- CRC-32C of one byte more (R316): eight shifts of the reflected register. -/
def crcBits : Nat → BitVec 32 → BitVec 32
  | 0, c => c
  | n + 1, c => crcBits n (if c.getLsbD 0 then (c >>> 1) ^^^ 0x82F63B78 else c >>> 1)
/-- CRC-32C of bytes: initial value and final XOR of all ones (R316). -/
def crc32c (bs : List Byte) : BitVec 32 :=
  ~~~(bs.foldl (fun c b => crcBits 8 (c ^^^ b.setWidth 32)) 0xFFFFFFFF#32)

/-- The sectors that bytes stand in, ascending. -/
def sectorsOf (b : Overlay) : List Nat := b.foldl (fun l c => addNew l (lineOf c.1)) []

/-- The words that stand at cells which a publication replaces, beside those replaced before (R176); none while nothing is launched. -/
def State.textsBefore (s : State) (b : Overlay) : List OldText :=
  if s.launches == [] then []
  else ((b.foldl (fun l c => addNew l (c.1 / 4 * 4)) []).map fun a => { addr := a, word := s.image.nat a 4, before := s.fresh }) ++ s.texts

/-- The extent of a sector, when it is logged (R293). -/
def State.loggedExtent (s : State) (sector : Nat) : Option Extent :=
  match s.extent? (sector / 2 ^ 19) with
  | some e => if e.kind = 0 then some e else none
  | none => none

/-- The extent of a sector, when it has an armature: a logged or a replica extent (R293, R299). -/
def State.indexed (s : State) (sector : Nat) : Option Extent :=
  match s.extent? (sector / 2 ^ 19) with
  | some e => if e.kind = 0 || e.kind == 3 then some e else none
  | none => none

/-- Sectors of such extents among the bytes. -/
def State.indexedSectors (s : State) (b : Overlay) : List Nat := (sectorsOf b).filter fun n => (s.indexed n).isSome

/-- A sector that was lost is no longer, once a publication writes all 128 of its bytes (R317). -/
def clearLost (lost : List Nat) (b : Overlay) : List Nat :=
  lost.filter fun n => decide ((cellsIf (fun a => lineOf a == n) b).length < 128)

/-! ## L2 and the lookaside caches (R19, R302) -/

/-- A version of a line is in L2. -/
def State.inL2 (s : State) (line : Nat) (v : Version) : Bool := s.l2.any fun x => x.line == line && x.held == v
/-- It is, from now on: in the slice in which the line is homed (R19, R20). A slice that holds too many gives some up at the end of the step. -/
def State.holdLine (s : State) (line : Nat) (v : Version) : State :=
  if s.inL2 line v then s else { s with l2 := s.l2 ++ [{ die := s.homeDie line, slice := s.homeSlice line, line := line, held := v }] }
/-- The leaf entry of a line of an extent with an armature is in the lookaside cache of its slice (R302). -/
def State.fillIlc (s : State) (line : Nat) : State :=
  let x : IlcEntry := { die := s.homeDie line, slice := s.homeSlice line, sector := line }
  if s.ilc.contains x || (s.indexed line).isNone then s
  else
    let same := s.ilc.filter fun y => y.die == x.die && y.slice == x.slice
    let out := if same.length < Config.ilcEntries then none else same[Config.freeNat s.serial line 49 % same.length]?
    { s with ilc := (s.ilc.filter fun y => some y != out) ++ [x] }

/-! ## Segments (R303, R304) -/

/-- Bytes of a segment of a size code. -/
def segmentBytes (seg : Nat) : Nat := 65536 * 2 ^ seg
/-- Its data sectors, in its first seven eighths. -/
def dataSectors (seg : Nat) : Nat := 7 * segmentBytes seg / 1024
/-- Where in a segment the record of data sector i stands, and where the trailer follows the last record. -/
def summaryOffset (seg i : Nat) : Nat := 7 * segmentBytes seg / 8 + 16 * i
/-- The trailer's offset. -/
def trailerOffset (seg : Nat) : Nat := summaryOffset seg (dataSectors seg)
/-- The 128 bits of a summary record. -/
def SumRec.encode (r : SumRec) : Nat :=
  r.crc.toNat * 2 ^ 96 + r.idx % 2 ^ 19 * 2 ^ 77 + r.ext % 2 ^ 13 * 2 ^ 64 + r.mark.toNat * 2 ^ 32 + r.wslot % 2 ^ 12 * 2 ^ 20 + 1
/-- The summary of a segment: offsets and records; a data sector that holds no copy has a record with V = 0, all zero. -/
def Segment.summary (g : Segment) : List (Nat × Nat) :=
  (List.range (dataSectors g.size)).map fun i => (summaryOffset g.size i, (g.recs[i]?.map SumRec.encode).getD 0)
/-- What the trailer holds: the writer slot, the extent number and the sealing sequence number. -/
def Segment.trailer (g : Segment) : Nat × Nat × Nat := (g.slot, g.ext, g.seq)
/-- The copy of a record passes the check of its CRC (R316). -/
def SumRec.intact (r : SumRec) : Bool := r.crc == crc32c r.data

/-- Places on a stack at which a segment of a size may stand, aligned to it, from one on. -/
def segmentPlaces (seg first : Nat) (n : Nat) : List Nat :=
  (List.range n).map fun i => (first + i) % (2 ^ 20 / 2 ^ seg) * (512 * 2 ^ seg)
/-- A place where no segment of the stack stands; which one is a free choice (log entry 7, DESIGN CHOICE). -/
def State.freeSegment (s : State) (stack seg : Nat) : Nat :=
  let taken : Nat → Bool := fun b =>
    s.segments.any fun g => g.stack == stack && rangesMeet b (512 * 2 ^ seg) g.base (512 * 2 ^ g.size)
  ((segmentPlaces seg (Config.freeNat s.serial stack 46) (64 * s.segments.length + 1)).find? fun b => !taken b).getD 0

/-- The cluster whose log writer appends for a slot: that of the core that runs the slot's team, else one of the home slice's die (R305). -/
def State.logWriter (s : State) (slot line : Nat) : Nat :=
  match (s.teamOfSlot slot).filter fun t => t.state == .resident with
  | some t => s.clusterOf t.core
  | none => s.homeDie line * 8 + Config.freeNat s.serial line 47 % 8

/-- The state of a sealed segment: settled when no sector of it is pending (R306). -/
def Segment.settle (g : Segment) : Segment :=
  match g.state with
  | .sealed => if g.recs.any fun r => r.pending && r.live then g else { g with state := .settled }
  | _ => g

/-- Seal the open segments that the test picks; each seal advances the sealing sequence of its stack (R306). -/
def State.sealSegments (s : State) (p : Segment → Bool) : State :=
  s.segments.foldl (fun s g =>
    if g.state = .opened && p g then
      let n := ((assoc s.seals g.stack).getD 0) + 1
      { s with
        seals := assocPut s.seals g.stack n
        segments := s.segments.map fun h => if h.num = g.num then Segment.settle { h with state := .sealed, seq := n } else h }
    else s) s

/-- Segments that hold no pending sector any more settle. -/
def State.settleSegments (s : State) : State := { s with segments := s.segments.map Segment.settle }

/-- The open segment of a slot in an extent, or a chisel's destination there. -/
def State.openSegment (s : State) (ext slot : Nat) (chisel : Bool) : Option Segment :=
  s.segments.find? fun g => g.state == .opened && g.ext == ext && g.chisel == chisel && (chisel || g.slot == slot)

/-- A new open segment. -/
def State.newSegment (s : State) (e : Extent) (slot line : Nat) (chisel : Bool) : Segment where
  num := s.fresh
  stack := e.home
  ext := e.num
  slot := slot
  base := s.freeSegment e.home e.seg
  size := e.seg
  writer := s.logWriter slot line
  recs := []
  state := .opened
  seq := 0
  chisel := chisel
  shipped := []

/-- A record with its data goes to the open segment, or to a new one where there is none; a segment with its data sectors filled is sealed (R305, R306). The state,
and the physical sector. -/
def State.appendRec (s : State) (e : Extent) (slot : Nat) (chisel : Bool) (r : SumRec) : State × Nat :=
  let s' : State × Segment := match s.openSegment e.num slot chisel with
    | some g => (s, g)
    | none =>
      let g := s.newSegment e slot (r.ext * 2 ^ 19 + r.idx) chisel
      ({ s with
        fresh := s.fresh + 1
        segments := s.segments ++ [g] }, g)
  let g := s'.2
  let s : State := { s'.1 with
    segments := s'.1.segments.map fun (x : Segment) => if x.num = g.num then { x with recs := x.recs ++ [r] } else x }
  (s.sealSegments fun x => x.num == g.num && decide (dataSectors x.size ≤ x.recs.length), g.base + g.recs.length)

/-! ## Publication (R301, R305, R306) -/

/-- What stands pending at the home slices under a slot and a tag (R235, R389). -/
def State.pendingUnder (s : State) (slot : Nat) (tag : Option (Nat × Nat)) : Overlay :=
  ((s.pending.find? fun p => p.slot == slot && p.tag == tag).map (·.bytes)).getD []
/-- What stands pending there under a slot of this device's own stores (R235). -/
def State.pendingOf (s : State) (slot : Nat) : Overlay := s.pendingUnder slot none
/-- Replace it. -/
def State.setPending (s : State) (slot : Nat) (b : Overlay) : State :=
  let rest := s.pending.filter fun p => !(p.slot == slot && p.tag == none)
  { s with pending := if b = [] then rest else rest ++ [{ slot := slot, tag := none, bytes := b }] }

/-- Pending bytes under a slot and a tag stand in a sector. -/
def State.stands (s : State) (slot : Nat) (tag : Option (Nat × Nat)) (sector : Nat) : Bool :=
  (s.pendingUnder slot tag).any fun c => lineOf c.1 == sector

/-- The version of its line that a dirty line is. -/
def Dirty.version (d : Dirty) : Version := if d.pending then some (d.slot, d.tag) else none
/-- The sector that a record is for. -/
def SumRec.line (r : SumRec) : Nat := r.ext * 2 ^ 19 + r.idx

/-- A slot's pending copy of a sector holds what the sector holds after a mark step: it becomes the published copy. A pending copy that a newer store, or
another team's publication beside its mask, has overtaken does not: the line stays dirty (R305). -/
def SumRec.becomes (r : SumRec) (m : Memory) (slot sector : Nat) : Bool :=
  r.pending && r.live && r.wslot == slot && r.tag == none && r.line == sector && r.data == m.bytes (sector * 128) 128
/-- The sectors, not lost, of which that is so. -/
def State.goodCopies (s : State) (m : Memory) (secs : List Nat) (slot : Nat) (step : Bool) : List Nat :=
  secs.filter fun n => step && !s.lost.contains n && s.segments.any fun g => g.recs.any fun r => r.becomes m slot n

/-- The published dirty lines after a publication under a slot (R305): a sector that it wrote is one under its slot and mark, unless the slot's appended copy is
the published one now. -/
def State.tagDirty (s : State) (secs good : List Nat) (slot : Nat) (mark : BitVec 32) : List Dirty :=
  (s.dirty.filter fun d => !(secs.contains d.line && !d.pending)) ++
    (secs.filter fun n => !good.contains n).map fun n => { line := n, slot := slot, mark := mark, pending := false, tag := none }

/-- The summary records after it: the slot's pending copies that are the published ones now are published (R306). -/
def State.tagRecords (s : State) (m : Memory) (good : List Nat) (slot : Nat) : List Segment :=
  s.segments.map fun g =>
    { g with recs := g.recs.map fun r =>
        if good.contains r.line && r.becomes m slot r.line then { r with pending := false, point := s.pubs + 1 } else r }

/-- The lines that L2 holds after it: those that it wrote stand there published, but for a slot's appended copy of one that is the published copy now and that
L2 does not hold. -/
def State.holdPublished (s : State) (lines good : List Nat) (slot : Nat) : State :=
  let stay := lines.filter fun n => !good.contains n || s.inL2 n (some (slot, none))
  stay.foldl (fun s n => s.holdLine n none) { s with l2 := s.l2.filter fun x => !(lines.contains x.line && x.held == none) }

/-- What no longer stands pending of some sectors is dirty no more and in no slice, its copies in the log are dead (R306), and the entries of the sectors follow
(R301). -/
def State.dropGone (s : State) (lines : List Nat) : State :=
  let gone : Nat → Nat → Option (Nat × Nat) → Bool := fun line slot tag => lines.contains line && !s.stands slot tag line
  let s : State := { s with
    dirty := s.dirty.filter fun d => !(d.pending && gone d.line d.slot d.tag)
    l2 := s.l2.filter fun x => match x.held with | some (w, t) => !gone x.line w t | none => true
    segments := s.segments.map fun (g : Segment) =>
      { g with recs := g.recs.map fun (r : SumRec) => if r.pending && gone r.line r.wslot r.tag then { r with live := false } else r } }
  ((lines.filter fun n => (s.indexed n).isSome).foldl State.settleEntry s).settleSegments

/-- What a publication adds to the shipping toward replica peers (R319): for each peer of the replicated extents it writes, its bytes
there. `mark` is the mark step it counts toward. -/
def State.shipsFor (s : State) (b : Overlay) (slot : Nat) (mark : BitVec 32) (step : Bool) : List Ship :=
  (s.peers.zipIdx.map fun (p, i) =>
    let mine := cellsIf (fun a =>
      match s.extent? (extentOf a) with
      | some e => e.kind == 0 && e.ctx == p.ctx && decide (p.which < e.nrep)
      | none => false) b
    { id := s.fresh + i, ctx := p.ctx, which := p.which, slot := slot, mark := mark, step := step, bytes := mine,
      point := s.pubs + 1, left := sectorsOf mine : Ship }).filter fun h => h.bytes != []

/-- The writer slot and mark of the copy to which an entry points. -/
def State.copyTag (s : State) (x : LeafEntry) : Option (Nat × BitVec 32) :=
  if x.hasCopy then (s.recAt x.stack x.sector).map fun r => (r.2.wslot, r.2.mark) else none
/-- The writer slot and mark of the latest publication of a sector: of its dirty line, or of its published copy (R305). -/
def State.tagOf (s : State) (line : Nat) : Option (Nat × BitVec 32) :=
  match s.dirty.find? fun d => d.line == line && !d.pending with
  | some d => some (d.slot, d.mark)
  | none => s.copyTag (s.published (line / 2 ^ 19) (line % 2 ^ 19))
/-- Those of the sectors of an extent, in its current image. -/
def State.tagsNow (s : State) (ext : Nat) : List (Nat × Nat × BitVec 32) :=
  let old := (s.rootOf ext none).entries.flatMap fun x => ((s.leafAt? x.stack x.leaf).map fun l => l.entries.map fun y => ext * 2 ^ 19 + y.idx).getD []
  let new := (s.dirty.filter fun d => !d.pending && d.line / 2 ^ 19 == ext).map (·.line)
  ((old ++ new).foldl addNew []).filterMap fun n => (s.tagOf n).map fun x => (n, x)
/-- Those of the image of a cast. -/
def State.tagsCast (s : State) (ext idx : Nat) : List (Nat × Nat × BitVec 32) :=
  (s.rootOf ext (some idx)).entries.flatMap fun x => ((s.leafAt? x.stack x.leaf).map fun l =>
    l.entries.filterMap fun y => (s.copyTag y).map fun t => (ext * 2 ^ 19 + y.idx, t)).getD []

/-- The oldest of some marks of a slot, as they stand behind its mark. -/
def State.oldestMark (s : State) (slot : Nat) (l : List (BitVec 32)) : Option (BitVec 32) :=
  l.foldl (fun acc m => match acc with | none => some m | some x => if (s.mark slot - x).toNat < (s.mark slot - m).toNat then some m else some x) none
/-- The marks of publications of a slot that a peer has not applied (R319): those under way, and those of the sectors of an extent of which it has had nothing
(a sector counts with its latest publication: log entry 88, DEDUCED). -/
def State.unapplied (s : State) (ctx which slot : Nat) : List (BitVec 32) :=
  ((s.ships.filter fun h => h.ctx == ctx && h.which == which && h.slot == slot).map (·.mark)) ++
    (((s.peer? ctx which).map (·.behind)).getD []).flatMap fun b =>
      if b.first then (b.tags.filter fun x => x.2.1 == slot).map (·.2.2) else []
/-- The applied mark of a slot at a peer (R319): one below the oldest mark step that a publication not yet applied counts toward. -/
def State.appliedMark (s : State) (ctx which slot : Nat) : BitVec 32 :=
  match s.oldestMark slot (s.unapplied ctx which slot) with
  | some m => m - 1
  | none => s.mark slot

/-- Discard everything pending under a slot (R239): pending bytes, write-combining entries, dirty pending lines; its pending copies in
segments are dead, the predecessors of their entries are restored (R301), and its open segments are sealed (R306). -/
def State.discardSlot (s : State) (slot : Nat) : State :=
  let lines := sectorsOf (s.pendingOf slot)
  let s : State := { s with
    pending := s.pending.filter fun p => !(p.slot == slot && p.tag == none)
    wcb := s.wcb.filter fun e => e.slot != slot
    dirty := s.dirty.filter fun d => !(d.pending && d.slot == slot && d.tag == none)
    segments := s.segments.map fun (g : Segment) =>
      { g with recs := g.recs.map fun (r : SumRec) => if r.pending && r.wslot == slot && r.tag == none then { r with live := false } else r } }
  ((s.dropGone lines).sealSegments fun g => g.slot == slot && !g.chisel).settleSegments

/-! ## Appending (R305, R306, R315) -/

/-- What is appended for a slot in an extent needs a new segment, and its stack has none that is free (R315; log entry 11, DESIGN CHOICE). -/
def State.noSegment (s : State) (e : Extent) (slot : Nat) : Bool :=
  (s.openSegment e.num slot false).isNone && Config.logSlack e.home s.tick == 0
/-- A dirty line cannot be appended now (R315). -/
def State.appendBlocked (s : State) (d : Dirty) : Bool := ((s.indexed d.line).map fun e => s.noSegment e d.slot).getD false

/-- The 128 bytes of a dirty line: a pending one is merged with the published image (R305). -/
def State.lineData (s : State) (d : Dirty) : List Byte :=
  (s.image.overlay (if d.pending then s.pendingUnder d.slot d.tag else [])).bytes (d.line * 128) 128

/-- Append a dirty line to the open segment of its slot in its extent, taking a new segment where there is none (R305); an older pending copy of it
under the slot is dead. It waits while no segment is free (R315). -/
def State.appendLine (s : State) (d : Dirty) : State :=
  match s.indexed d.line with
  | none => s
  | some e =>
    if s.appendBlocked d then s
    else
      let idx := d.line % 2 ^ 19
      let data := s.lineData d
      let r : SumRec := { crc := crc32c data, idx := idx, ext := e.num, mark := d.mark, wslot := d.slot, tag := d.tag, data := data, pending := d.pending,
                          live := true, point := s.pubs }
      let s : State := { s with
        dirty := s.dirty.filter fun x => x != d
        segments := if !d.pending then s.segments else s.segments.map fun (g : Segment) =>
          { g with recs := g.recs.map fun (x : SumRec) =>
              if x.ext = e.num && x.idx == idx && x.pending && x.wslot == d.slot && x.tag == d.tag then { x with live := false } else x } }
      let a := s.appendRec e d.slot false r
      a.1.appendEntry e.num e.home d.pending
        { idx := idx, v := true, z := false, stack := e.home, sector := a.2, wslot := d.slot,
          mark := if d.pending then d.mark.setWidth 18 else s.settledMark d.slot d.mark }

/-- The published dirty lines of a slot in the extents that a test picks. -/
def State.toAppend (s : State) (slot : Nat) (p : Extent → Bool) : List Dirty :=
  s.dirty.filter fun d => !d.pending && d.slot == slot && ((s.indexed d.line).map p).getD false

/-- Append the published dirty lines of a slot, then seal its open segments (R306: REL.SEAL, R320); while no segment is free for them, they stay. -/
def State.appendAndSeal (s : State) (slot : Nat) (p : Extent → Bool) : State :=
  let s : State := (s.toAppend slot p).foldl (fun s d => s.appendLine d) s
  if s.toAppend slot p != [] then s.settleSegments
  else (s.sealSegments fun g => g.slot == slot && !g.chisel && ((s.extent? g.ext).map p).getD false).settleSegments

end Sys2Proof.Machine
end

