-- ==== Sys2Proof/Machine/Ops.lean ====
section
/-!
DEFINITION. The named operations over the state that the meanings share: registers, runs of a clause, event records and %errst, barriers,
claims, monitors, publication, ending a group or a team by a fault, entering the trap handler.
-/
namespace Sys2Proof.Machine

/-! ## Registers -/

/-- Write an s register; s0 discards it (R8). -/
def Group.putS (g : Group) (n : Nat) (x : DWord) : Group := if n = 0 then g else { g with s := g.s.set n x }
/-- The s register; s0 reads zero (R8). -/
def Group.getS (g : Group) (n : Nat) : DWord := if n = 0 then 0 else g.s.getD n 0
/-- Write a predicate; p0 discards it (R8). -/
def Lane.putP (l : Lane) (n : Nat) (x : Bool) : Lane := if n = 0 then l else { l with p := l.p.set n x }
/-- The predicate; p0 reads true (R8). -/
def Lane.getP (l : Lane) (n : Nat) : Bool := if n = 0 then true else l.p.getD n false
/-- Write a v register. -/
def Lane.putV (l : Lane) (n : Nat) (x : Word) : Lane := { l with v := l.v.set n x }
/-- The v register as it stands. -/
def Lane.getV (l : Lane) (n : Nat) : Word := wordAt l.v n
/-- Write a v register with a result that is complete: no earlier fixed-latency result can still show (R77, R78). -/
def Lane.landV (l : Lane) (n : Nat) (x : Word) : Lane := { l.putV n x with fresh := l.fresh.filter fun f => f.reg != n }
/-- The same for an s register. -/
def Group.landS (g : Group) (n : Nat) (x : DWord) : Group := { g.putS n x with sfresh := g.sfresh.filter fun f => f.reg != n }
/-- Every fixed-latency result of a lane is written: a read finds it whatever the distance (R127). -/
def Lane.written (l : Lane) : Lane := { l with fresh := l.fresh.map fun f => { f with old := l.getV f.reg } }
/-- Every fixed-latency result of a group is written, as it is before the group is taken out of execution (R127). -/
def Group.written (g : Group) : Group :=
  { g with
    lanes := g.lanes.map Lane.written
    sfresh := g.sfresh.map fun f => { f with old := g.getS f.reg } }
/-- Set a counter. -/
def Lane.putCounter (l : Lane) (k x : Nat) : Lane := { l with sb := l.sb.set k x }

/-! ## Runs of a clause (R39) -/

/-- The fall-through address of a clause (R58). -/
def Run.fallThrough (r : Run) : DWord := r.hdr + BitVec.ofNat 64 (4 * (r.words.length + 1))
/-- The run stands at a word that is tried again. -/
def Run.tries (r : Run) : Bool :=
  match r.wait with
  | .retry => true
  | .after _ => true
  | .look _ _ _ _ => true
  | .cast _ _ => true
  | .acq _ _ _ => true
  | .fence _ _ _ => true
  | _ => false
/-- The run can execute its next word. -/
def Run.runs (r : Run) : Bool :=
  match r.wait with
  | .none => true
  | _ => false
/-- The lanes of the run wait under R40: in WAITC, at a barrier, in RCLAIM, LDF or REGRP, in an ordering or a cast word until it completes (R241, R311), or
for the other lanes of their issue. A run that a full counter holds (R79), or that waits in RGIVE (R229), does not, and its lanes are ready. -/
def Run.blocked (r : Run) : Bool :=
  match r.wait with
  | .none => false
  | .retry => false
  | _ => true
/-- The word at which the run stands has waited before, so that its issue has counted (R76). -/
def Run.waited (r : Run) : Bool :=
  match r.wait with
  | .none => false
  | .retry => false
  | .join => false
  | _ => true
/-- Every word has completed. -/
def Run.isOver (r : Run) : Bool :=
  match r.wait with
  | .none => decide (r.words.length ≤ r.pos)
  | _ => false

/-- Push an address onto a lane's call stack (R205). -/
def Lane.push (l : Lane) (a : DWord) : Lane := { l with stack := a :: l.stack }
/-- The depth of the call stack is 16. -/
def Lane.full (l : Lane) : Bool := decide (Config.stackDepth ≤ l.stack.length)

/-- The clause completes for the lanes of a run: their vpc entries take the target or the fall-through address; a yield moves the group into the pending set
(R39, R61, R273). Where lanes of a clause with Y = 1 have parted at a word that waits, the clause completes, and yields, once for each part of them (log
entry 67, DESIGN CHOICE). -/
def Group.completeRun (tick : Nat) (g : Group) (r : Run) : Group :=
  let move : Lane × Nat → Lane := fun (x, i) =>
    if inMask r.lanes i then { x with vpc := (assoc r.targets i).getD r.fallThrough } else x
  let g : Group := { g with lanes := g.lanes.zipIdx.map move }
  if r.yields then { g with active := false, yielded := true, pendingSince := tick } else g

/-- A run waits for the other lanes of its issue. -/
def Run.joins (r : Run) : Bool := r.wait == .join
/-- Lanes of the same issue stand in another run. -/
def Group.parted (g : Group) (r : Run) : Bool := g.runs.any fun x => x.issue == r.issue && x.lanes != r.lanes
/-- Every lane of an issue that is left stands at one word that executes once for them. -/
def Group.joined (g : Group) (r : Run) : Bool := r.joins && g.runs.all fun x => x.issue != r.issue || (x.joins && x.pos == r.pos)
/-- The lanes of an issue that have all come to such a word are one run again, which goes on; the first of its runs stands for them (R44, R65; log entry
68). -/
def Group.rejoin (g : Group) : Group :=
  if !(g.runs.any g.joined) then g
  else
    { g with
      runs := g.runs.filterMap fun r =>
        if !g.joined r then some r
        else
          let mine := g.runs.filter fun x => x.issue == r.issue
          if (mine.head?.map (·.lanes)) == some r.lanes then
            some { r with
              lanes := mine.foldl (fun m x => m ||| x.lanes) 0
              targets := mine.flatMap (·.targets)
              yields := mine.any (·.yields)
              wait := .none }
          else none }

/-- The lanes that receive a replay report; none while one of them is in a clause (R288). -/
def Group.reported (g : Group) (m : Mask) : List Nat := (maskLanes m).filter fun l => !(g.lane l).exited
/-- A replay report is delivered, in one delivery, once none of its lanes is in a clause: each pushes its vpc and takes the handler's entry, s61 to s63 take
the address, cause 0x08 and the lanes; a full call stack among them ends the group (R288; log entry 28, DEDUCED). -/
def Group.giveReport (g : Group) : Group :=
  match g.report with
  | none => g
  | some (m, va, ent) =>
    let ls := g.reported m
    if !g.isResident || ls.any (fun l => g.runs.any fun r => inMask r.lanes l) then g
    else if ls = [] then { g with report := none }
    else if ls.any fun l => (g.lane l).full then
      { g with
        report := none
        overflowed := true }
    else
      let g := g.modLanes ls fun l => { l.push l.vpc with vpc := ent }
      { ((g.landS 61 (BitVec.ofNat 64 va)).landS 62 0x08).landS 63 ((maskOf ls).setWidth 64) with report := none }

/-- What follows a change of the runs: lanes of an issue join again, the clause of every run whose words are over completes, and a replay report that can
be is delivered. -/
def Group.settle (tick : Nat) (g : Group) : Group :=
  let g := g.rejoin
  let done := g.runs.filter Run.isOver
  (done.foldl (Group.completeRun tick) { g with runs := g.runs.filter fun r => !r.isOver && r.lanes != 0 }).giveReport

/-- Take lanes out of the runs that `p` picks into runs of their own that wait no more. -/
def Group.release (g : Group) (p : Run → Bool) (ls : Run → List Nat) : Group :=
  { g with
    runs := g.runs.flatMap fun r =>
      if p r then
        let out := (ls r).filter (inMask r.lanes)
        if out = [] then [r]
        else
          let rest := maskMinus r.lanes (maskOf out)
          let go : Run := { r with lanes := maskOf out, wait := .none }
          if rest = 0 then [go] else [{ r with lanes := rest }, go]
      else [r] }

/-- The runs whose lanes are ready. -/
def Group.readyRuns (g : Group) : List Run := g.runs.filter fun r => !r.blocked
/-- Of runs, one with the least header address, and of those the first in the order in which they stand (R51; log entry 68, DESIGN CHOICE). -/
def leastRun : List Run → Option Run
  | [] => none
  | r :: rest =>
    match leastRun rest with
    | none => some r
    | some x => if x.hdr.toNat < r.hdr.toNat then some x else some r
/-- The run that goes on, if the group has one: of those whose lanes are ready that at the lowest address (R51), or, where `again` says so or none is ready,
the first that tries its word again (log entry 68, DESIGN CHOICE). -/
def Group.goesOn (g : Group) (again : Bool) : Option Run :=
  match leastRun g.readyRuns, (g.runs.find? fun r => r.blocked && r.tries) with
  | some r, some x => if again then some x else some r
  | some r, none => some r
  | none, x => x
/-- The run that goes on in a state; between a word of a ready lane and a word that waits and is tried again the choice is free (log entry 7). -/
def State.current? (s : State) (g : Group) : Option Run := g.goesOn (Config.freeBit s.serial g.gid 56)
/-- Replace a run, or remove it; runs have no lane in common. -/
def Group.setRun (g : Group) (r : Run) (r' : Option Run) : Group :=
  { g with runs := g.runs.flatMap fun x => if x = r then r'.toList else [x] }
/-- Put a run last: it tries its word again after the others. -/
def Group.rotate (g : Group) (r r' : Run) : Group := { g with runs := (g.runs.filter fun x => x != r) ++ [r'] }

/-! ## Host memory, event records, %errst -/

/-- A host write of n bytes. -/
def State.hostWrite (s : State) (a n x : Nat) : State := { s with hostMem := s.hostMem.putNat a n x }

/-- What an event record carries beside the context and its number (R284). -/
structure EventInfo where
  kind : Nat
  code : Nat
  acc : Nat
  core : Nat
  grp : Nat
  kslot : Nat
  launchid : Nat
  teamidx : Nat
  mask : Mask
  vaddr : Nat
  deriving DecidableEq, Repr

/-- The 32 bytes of a record (R284). -/
def EventInfo.encode (e : EventInfo) (seq : Nat) : Nat :=
  e.kind % 256 + e.code % 256 * 2 ^ 8 + e.acc % 256 * 2 ^ 16 + e.core % 256 * 2 ^ 24 + e.grp % 64 * 2 ^ 32 + e.kslot % 4 * 2 ^ 38
    + e.launchid % 2 ^ 16 * 2 ^ 48 + e.teamidx % 2 ^ 32 * 2 ^ 64 + seq % 2 ^ 32 * 2 ^ 96 + e.vaddr % 2 ^ 64 * 2 ^ 128
    + e.mask.toNat * 2 ^ 192

/-- The event ring is full (R284). -/
def Context.ringFull (c : Context) : Bool := (c.evtail + 1) % 2 ^ c.evn == c.evhead

/-- Write a record at the tail of the ring. -/
def State.ringPut (s : State) (c : Context) (rec_ : Nat) : State :=
  (s.hostWrite (c.evring + 32 * c.evtail) 32 rec_).modCtx c.num fun c => { c with evtail := (c.evtail + 1) % 2 ^ c.evn }

/-- An event of a context: it takes the next number; with the ring full a replayable-fault record waits for space and every other record
is dropped (R284). -/
def State.event (s : State) (ctx : Nat) (e : EventInfo) : State :=
  match s.ctx? ctx with
  | none => s
  | some c =>
    let rec_ := e.encode c.seq
    let s : State := s.modCtx ctx fun c => { c with seq := (c.seq + 1) % 2 ^ 32 }
    if c.ringFull then
      (if e.kind = 2 then s.modCtx ctx fun c => { c with evwait := c.evwait ++ [BitVec.ofNat 256 rec_] } else s)
    else s.ringPut { c with seq := c.seq } rec_

/-- %errst after one more recorded event (R283). -/
def noteErrst (e : DWord) (code t : Nat) : DWord :=
  let n := e.toNat
  let nflt := field n 48 15
  let first := if n.testBit 63 then field n 32 8 else code
  let fteam := if n.testBit 63 then field n 0 32 else t % 2 ^ 32
  BitVec.ofNat 64 (2 ^ 63 + (if nflt < 0x7FFF then nflt + 1 else nflt) * 2 ^ 48 + code % 256 * 2 ^ 40 + first * 2 ^ 32 + fteam)

/-- Record a code in a context's %errst. -/
def State.note (s : State) (ctx code t : Nat) : State := s.modCtx ctx fun c => { c with errst := noteErrst c.errst code t }

/-- The fields of a record about a group. -/
def State.groupEvent (s : State) (g : Group) (kind code acc : Nat) (mask : Mask) (vaddr : Nat) : EventInfo :=
  let t := s.ownerOf g
  { kind := kind, code := code, acc := acc, core := g.core, grp := g.slot, kslot := (t.map (·.kslot)).getD 0,
    launchid := ((t.bind s.launchOf).map (·.num)).getD 0, teamidx := (t.map (·.index)).getD 0, mask := mask, vaddr := vaddr }

/-- The fields of a record about a team: no group, no lanes. -/
def State.teamEvent (s : State) (t : Team) (kind code : Nat) : EventInfo :=
  { kind := kind, code := code, acc := 0xFF, core := t.core, grp := 0, kslot := t.kslot,
    launchid := ((s.launchOf t).map (·.num)).getD 0, teamidx := t.index, mask := 0, vaddr := 0 }

/-! ## Completion of commands (R257) -/

/-- The address of a command slot. -/
def Queue.slotAddr (q : Queue) (slot : Nat) : Nat := q.ring + 64 * slot

/-- A command that has started completes with a status: its completion word is written once, an interrupt is raised if it asked for one,
and it is outstanding no more. -/
def State.completeCommand (s : State) (queue slot status : Nat) : State :=
  match s.queue? queue with
  | none => s
  | some q =>
    match q.running.find? fun c => c.slot == slot with
    | none => s
    | some c =>
      let s : State := s.hostWrite (q.slotAddr slot + 56) 8 (2 ^ 63 + c.tag.toNat * 256 + status % 256)
      let s : State := s.modQueue queue fun q => { q with running := q.running.filter fun c => c.slot != slot }
      if c.irq then { s with irqs := s.irqs + 1 } else s

/-! ## Named barriers (R210 to R218) -/

/-- Change barrier i of a team. -/
def State.modBarrier (s : State) (tid i : Nat) (f : Barrier → Barrier) : State :=
  s.modTeam tid fun t => { t with barriers := modAt t.barriers i f }

/-- The lanes of a team that have not exited, as %origin values. -/
def State.aliveOrigins (s : State) (tid : Nat) : List DWord :=
  s.groups.flatMap fun g => (g.lanes.filter fun l => !l.exited && l.team == tid).map (·.origin)

/-- The count at the start of a phase (R211, R214). -/
def State.startCount (s : State) (tid : Nat) (b : Barrier) : Nat :=
  match b.mode with
  | .all => (s.aliveOrigins tid).length
  | .fixed => b.exp
  | .byte => 0

/-- A run waits on that barrier, for lanes of that team. -/
def Run.waitsOn (r : Run) (bar : Nat) : Bool :=
  match r.wait with
  | .barrier b _ _ => b == bar
  | _ => false
/-- The register and the tokens of a barrier wait. -/
def Run.tokens (r : Run) : Nat × List (Nat × Nat) :=
  match r.wait with
  | .barrier _ t ks => (t, ks)
  | _ => (0, [])

/-- The lanes of a run that wait on barrier bar of a team with a token that `p` picks. -/
def Run.barrierLanes (g : Group) (r : Run) (tid : Nat) (p : Nat → Bool) : List Nat :=
  (maskLanes r.lanes).filter fun l => (g.lane l).team == tid && p ((assoc r.tokens.2 l).getD 0)

/-- Wake the lanes of a team that wait on a barrier with a token that `p` picks: each receives the status (R214). -/
def State.wakeBarrier (s : State) (tid bar : Nat) (p : Nat → Bool) (status : Word) : State :=
  { s with
    groups := s.groups.map fun g =>
      if g.runs.any fun r => r.waitsOn bar then
        let woken := g.runs.flatMap fun r =>
          if r.waitsOn bar then (r.barrierLanes g tid p).map fun l => (l, r.tokens.1) else []
        let g' := woken.foldl (fun (g : Group) (l, t) => g.modLane l fun x => x.landV t status) g
        (g'.release (fun r => r.waitsOn bar) fun r => r.barrierLanes g tid p).settle s.tick
      else g }

/-- Break() (R218). -/
def State.breakBarrier (s : State) (tid i : Nat) : State :=
  (s.modBarrier tid i fun b => { b with broken := true }).wakeBarrier tid i (fun _ => true) 0x0D

/-- Complete() (R214). -/
def State.completeBarrier (s : State) (tid i : Nat) : State :=
  match (s.team? tid).bind fun t => t.barriers[i]? with
  | none => s
  | some b =>
    let ph := (b.ph + 1) % 2 ^ 16
    let s : State := s.modBarrier tid i fun b => { b with ph := ph, cnt := s.startCount tid b, arrived := [] }
    s.wakeBarrier tid i (fun k => k != ph) 0

/-- The barrier that a copy of a group names (R371). -/
def OpKind.barrier? : OpKind → Option Nat
  | .copy _ _ (.barrier n) => some n
  | .send _ _ _ _ (.barrier n) => some n
  | _ => none

/-- The teams whose barriers an operation names: those of its lanes' tags, or the one for which it acts (R226). -/
def State.teamsOfOp (s : State) (o : Op) : List Nat :=
  if o.kind.perLane then o.parts.foldl (fun l p => if p.lane < 32 then addNew l (s.partTeam o p.lane) else l) [] else [o.team]

/-- The copies of a group that name barrier i of a team and are outstanding (R211). -/
def State.copiesNaming (s : State) (gid tid i : Nat) : Bool :=
  s.ops.any fun o => o.gid == gid && o.kind.barrier? == some i && (s.teamsOfOp o).contains tid

/-- The group belongs to barrier i of the team (R211). -/
def State.belongs (s : State) (g : Group) (tid i : Nat) (b : Barrier) : Bool :=
  let mine := g.lanes.filter fun l => !l.exited && l.team == tid
  match b.mode with
  | .all => mine != []
  | .fixed => mine.any fun l => b.members.contains l.origin
  | .byte => b.groups.contains g.gid || s.copiesNaming g.gid tid i

/-- Break the barriers that the outstanding copies of a group name (R375). -/
def State.breakNamed (s : State) (gid : Nat) : State :=
  s.ops.foldl (fun s o =>
    match o.kind.barrier? with
    | some n => if o.gid = gid then (s.teamsOfOp o).foldl (fun s t => s.breakBarrier t n) s else s
    | none => s) s

/-- Break every barrier that a group belongs to (R55). -/
def State.breakBarriersOf (s : State) (g : Group) : State :=
  s.teams.foldl (fun s t =>
    t.barriers.zipIdx.foldl (fun s (b, i) => if s.belongs g t.tid i b then s.breakBarrier t.tid i else s) s) s

/-- Lanes that become exited other than by a kill leave the ALL and FIXED barriers of their teams in one step (R216). `gone` are the
lanes, as team and %origin; the lanes are already exited. A count or an expectation that a departure would take below 0 stays 0, and a phase whose count
stands at 0 completes (log entry 76, DESIGN CHOICE). -/
def State.departLanes (s : State) (gone : List (Nat × DWord)) : State :=
  s.teams.foldl (fun s t =>
    let mine := (gone.filter fun x => x.1 == t.tid).map (·.2)
    if mine = [] then s
    else
      t.barriers.zipIdx.foldl (fun s (b, i) =>
        if b.broken then s
        else
          match b.mode with
          | .byte => s
          | .fixed =>
            let members := mine.filter fun o => b.members.contains o
            let missing := members.filter fun o => !b.arrived.contains o
            let b' : Barrier := { b with
              exp := b.exp - members.length, cnt := b.cnt - missing.length
              members := b.members.filter fun o => !members.contains o, arrived := b.arrived.filter fun o => !members.contains o }
            let s : State := s.modBarrier t.tid i fun _ => b'
            if missing != [] && b'.cnt == 0 then s.completeBarrier t.tid i else s
          | .all =>
            let missing := mine.filter fun o => !b.arrived.contains o
            let b' : Barrier := { b with cnt := b.cnt - missing.length, arrived := b.arrived.filter fun o => !mine.contains o }
            let s : State := s.modBarrier t.tid i fun _ => b'
            if missing != [] && b'.cnt == 0 then s.completeBarrier t.tid i else s) s) s

/-! ## The register pool (R229 to R231) -/

/-- The claims of a team that wait: group, new allotment, status register, order. -/
def State.claims (s : State) (tid : Nat) : List (Nat × Nat × Nat × Nat) :=
  sortBy (fun c => c.2.2.2) ((s.groupsOwned tid).flatMap fun g => g.runs.filterMap fun r =>
    match r.wait with
    | .claim n sreg since => some (g.gid, n, sreg, since)
    | _ => none)

/-- Grant a claim: the new allotment, zero in the added registers of all lanes, status 0 (R230). -/
def Group.grant (tick : Nat) (g : Group) (n sreg since : Nat) : Group :=
  let a := g.alloc
  let g : Group := { g with
    alloc := if a < n then n else a
    lanes := g.lanes.map fun l => { l with
      v := l.v.zipIdx.map fun (x, i) => if a ≤ i && i < n then 0 else x
      fresh := l.fresh.filter fun f => f.reg < a || n ≤ f.reg } }
  ((g.landS sreg 0).release (fun r => r.wait == .claim n sreg since) fun r => maskLanes r.lanes).settle tick

/-- A pass over the waiting claims of a team in the order in which they began to wait: each that the reserve covers at its turn is
granted (R230). -/
def State.claimPass (s : State) (tid : Nat) : State :=
  (s.claims tid).foldl (fun s (gid, n, sreg, since) =>
    match s.team? tid, s.group? gid with
    | some t, some g => if (n - g.alloc) / 4 ≤ s.reserve t then s.putGroup (g.grant s.tick n sreg since) else s
    | _, _ => s) s

/-! ## Memory monitors (R219 to R222) -/

/-- Cond(op, x, v) on values of that size in bytes (R220). -/
def monitorCond (op size x v : Nat) : Bool :=
  let w := 8 * size
  let sx : Int := if x < 2 ^ (w - 1) then x else (x : Int) - (2 ^ w : Nat)
  let sv : Int := if v < 2 ^ (w - 1) then v else (v : Int) - (2 ^ w : Nat)
  match op with
  | 0 => x == v
  | 1 => x != v
  | 2 => decide (x < v)
  | 3 => decide (v ≤ x)
  | 4 => decide (sx < sv)
  | 5 => decide (sv ≤ sx)
  | 6 => Nat.land x v != 0
  | _ => Nat.land x v == 0

/-- A monitor ends: its lanes go on with the value and status 0, or with the status alone where it was cancelled; a WAIT command completes
(R220, R222, R263). -/
def State.endMonitor (s : State) (m : Monitor) (value : Option Nat) : State :=
  let s : State := { s with monitors := s.monitors.filter fun x => x.id != m.id }
  match m.gid with
  | none => s.completeCommand m.queue m.slot (if value.isSome then 0 else 0x0D)
  | some gid =>
    s.modGroup gid fun g =>
      match g.runs.find? fun r => match r.wait with | .monitor i _ => i == m.id | _ => false with
      | none => g
      | some r =>
        let t := match r.wait with | .monitor _ t => t | _ => 0
        let g := match value with
          | some x => (g.landS t (BitVec.ofNat 64 x)).landS (t + 1) 0
          | none => g.landS (t + 1) 0x0D
        (g.release (fun r => match r.wait with | .monitor i _ => i == m.id | _ => false) fun r => maskLanes r.lanes).settle s.tick

/-- The monitors on the lines evaluate their condition on the published value (R220). -/
def State.evalMonitors (s : State) (lines : List Nat) : State :=
  s.monitors.foldl (fun s m =>
    if lines.contains (lineOf m.addr) then
      let x := s.image.nat m.addr m.size
      if monitorCond m.op m.size x (m.value.toNat % 2 ^ (8 * m.size)) then s.endMonitor m (some x) else s
    else s) s

/-! ## Publication (R236 to R238) -/

/-- One publication takes effect: the bytes stand in the published image, L1 copies of their lines are stale, the log's tags and what is to
be shipped follow, lost sectors written whole are found again, and the monitors on the lines are evaluated. Bytes of an extent that has been
destroyed are discarded (R298). -/
def State.commitImage (s : State) (bytes : Overlay) (slot : Nat) (tag toward : BitVec 32) (step : Bool) : State :=
  let b := s.definedBytes bytes
  let lines := sectorsOf b
  let ships := s.shipsFor b slot toward step
  let secs := s.indexedSectors b
  let good := s.goodCopies (s.image.overlay b) secs slot step
  let s : State := { s with
    image := s.image.overlay b
    texts := s.textsBefore b
    pubs := s.pubs + 1
    fresh := s.fresh + s.peers.length
    l1 := s.l1.map fun (l : L1Line) =>
      if lines.contains l.line then
        { l with stale := if l.stale == none then some (s.pubs + 1, s.tick) else l.stale, writers := addNew l.writers slot }
      else l
    lost := clearLost s.lost b
    dirty := s.tagDirty secs good slot tag
    segments := s.tagRecords (s.image.overlay b) good slot
    ships := s.ships ++ ships }
  ((s.holdPublished lines good slot).dropGone lines).evalMonitors lines

/-- The team of a writer slot has published (R280 PUB). -/
def State.setPub (s : State) (slot : Nat) : State :=
  { s with teams := s.teams.map fun t => if t.wslot == some slot then { t with pub := true } else t }

/-- Publish(slot): one mark step publishes every sector pending under the slot (R236). -/
def State.publish (s : State) (slot : Nat) : State :=
  let b := s.pendingOf slot
  let m := s.mark slot + 1
  let s : State := { s with marks := assocPut s.marks slot m }
  (((s.rewriteMarks slot).setPending slot []).setPub slot).commitImage b slot m m true

/-- Publish the pending bytes of a slot that the test picks, with the bytes given beside them, without a mark step (R236: atomics and
copies). -/
def State.publishPart (s : State) (slot : Nat) (p : Nat → Bool) (extra : Overlay) : State :=
  let b := s.pendingOf slot
  let out := (cellsIf p b).foldl (fun o c => cellPut o c.1 c.2) []
  ((s.setPending slot (cellsIf (fun a => !p a) b)).setPub slot).commitImage (Overlay.overlay out extra) slot (s.mark slot)
    (s.mark slot + 1) false

/-! ## Ending a group or a team by a fault (R55, R281) -/

/-- What a record of a fault says beyond its code (R284): lanes, address, access. -/
structure FaultInfo where
  mask : Option Mask := none
  vaddr : Nat := 0
  acc : Nat := 0xFF
  deriving DecidableEq, Repr

/-- A group with every lane exited and nothing outstanding (R55). -/
def Group.killed (g : Group) : Group :=
  { g with
    lanes := g.lanes.map fun l => { l with exited := true, sb := List.replicate 4 0, pend := [], fresh := [] }
    runs := [], holds := [], report := none, halted := false, doomed := false, sfresh := [], spend := [], yielded := false, overflowed := false }

/-- A release of a group that waits for owners to publish is no more: the stores stay pending there, and a later release publishes them (R393); stores that are not
accepted yet are no access of the group any more (R55). -/
def abandonPublish (gid : Nat) (l : List Await) : List Await :=
  (l.map fun (x : Await) =>
    if x.gid == gid && x.kind == .publish then { x with kind := .stray } else if x.gid == gid && x.kind == .sent then { x with gid := 0 } else x)
    ++ (l.filter fun x => x.gid == gid && x.kind == .publish).map fun (x : Await) => { x with kind := .held }

/-- The operations of a group are abandoned, with its calls, monitors and releases. -/
def State.abandonOps (s : State) (gid : Nat) : State :=
  let ids := (s.ops.filter fun o => o.gid == gid).map (·.id)
  { s with
    awaiting := abandonPublish gid s.awaiting
    ops := s.ops.filter fun o => o.gid != gid
    calls := s.calls.filter fun c => !ids.contains c.2
    monitors := s.monitors.filter fun m => m.gid != some gid }

/-- What goes on of the bank commands of a group that ends: the parts of those banks that have begun to apply theirs, which no lane counts any more
(R336). -/
def State.begunBanks (s : State) (gid : Nat) : List Op :=
  let core := ((s.group? gid).map (·.core)).getD 0
  s.ops.filterMap fun o =>
    match o.kind with
    | .bank _ _ =>
      let near : Part → Part → Bool := fun p q => s.partTeam o p.lane == s.partTeam o q.lane && s.bankOf core p.addr == s.bankOf core q.addr
      let ps := o.parts.filter fun p => o.parts.any fun q => q.isDone && near p q
      if o.gid = gid && ps.any (fun p => !p.isDone) then some { o with parts := ps, counted := 0 } else none
    | _ => none

/-- The effect of Kill(group) without its record: lanes exited, operations abandoned, barriers broken (R55). -/
def State.endGroup (s : State) (gid : Nat) : State :=
  match s.group? gid with
  | none => s
  | some g =>
    let s : State := (s.breakBarriersOf g).breakNamed gid
    let banks := s.begunBanks gid
    let s : State := (s.abandonOps gid).modGroup gid Group.killed
    { s with ops := s.ops ++ banks }

/-- Kill(group, code) (R55, R283, R284). -/
def State.killGroup (s : State) (gid code : Nat) (f : FaultInfo := {}) : State :=
  match s.group? gid with
  | none => s
  | some g =>
    if g.ended then s else
    let ctx := s.ctxOfGroup g
    let t := ((s.ownerOf g).map (·.index)).getD 0
    let e := s.groupEvent g 1 code f.acc (f.mask.getD (maskOf g.alive)) f.vaddr
    (((s.note ctx code t).event ctx e).endGroup gid).opportunity ctx

/-! ## The slot table (R270) -/

/-- The 6 bits of a number reversed. -/
def rev6 (i : Nat) : Nat := (List.range 6).foldl (fun acc k => acc + (i / 2 ^ k % 2) * 2 ^ (5 - k)) 0

/-- The index of the largest entry, the lowest on a tie. -/
def argMax (l : List Nat) : Nat := (l.zipIdx.foldl (fun (best : Nat × Nat) (x, i) => if best.1 < x then (x, i) else best) (0, 0)).2

/-- Reduce the largest share until they fit 64 entries. -/
def fitShares : Nat → List Nat → List Nat
  | 0, l => l
  | n + 1, l => if l.sum ≤ 64 then l else fitShares n (modAt l (argMax l) (· - 1))

/-- The numbers of entries of the four kernel slots. -/
def slotShares (w : List Nat) : List Nat :=
  if w.sum ≤ 64 then w else fitShares 256 (w.map fun x => if x = 0 then 0 else max 1 (64 * x / w.sum))

/-- The slot that owns the k-th entry of the order O. -/
def slotOwner (n : List Nat) (k : Nat) : Option Nat :=
  if k < n.getD 0 0 then some 0
  else if k < n.getD 0 0 + n.getD 1 0 then some 1
  else if k < n.getD 0 0 + n.getD 1 0 + n.getD 2 0 then some 2
  else if k < n.sum then some 3
  else none

/-- The table for the shares of the four kernel slots. -/
def slotTable (w : List Nat) : List (Option Nat) :=
  let n := slotShares w
  (List.range 64).map fun i => slotOwner n (rev6 i)

/-- Rebuild a core's table (R270). -/
def State.rebuildTable (s : State) (core : Nat) : State :=
  s.modCore core fun c =>
    { c with table := slotTable (c.kslots.map fun k => ((k.bind s.launch?).map (·.share)).getD 0) }

/-- Free a kernel slot of a core where no team of its launch is resident any more. -/
def State.freeKernelSlots (s : State) (core : Nat) : State :=
  match s.core? core with
  | none => s
  | some c =>
    let used := fun lid => s.teams.any fun t => t.launch == lid && t.core == core && t.state == .resident
    let ks := c.kslots.map fun k => match k with | some lid => if used lid then some lid else none | none => none
    if ks = c.kslots then s else (s.modCore core fun c => { c with kslots := ks }).rebuildTable core

/-- A team leaves its core: kernel slots are freed, and a core that holds no team any more ramps down (R270, R408). -/
def State.leaveCore (s : State) (core : Nat) : State :=
  let s : State := s.freeKernelSlots core
  if s.teams.any fun t => t.core == core && t.state == .resident then s
  else s.modCore core fun c => { c with ramp := 2, rampCycles := 0 }

/-! ## Freeing a team -/

/-- Pins that a test picks are released (R346). -/
def State.unpin (s : State) (p : Pin → Bool) : State := { s with pins := s.pins.filter fun x => !p x }

/-- A team gives its core's resources back: window, barriers, budget, reservations, team slot, kernel slot (R54, R277). -/
def State.freeTeam (s : State) (tid : Nat) (st : TeamState) : State :=
  match s.team? tid with
  | none => s
  | some t =>
    let s : State := s.modTeam tid fun t =>
      { t with state := st, spad := [], full := [], barriers := [], reservations := [], leaving := false }
    let s : State := s.unpin fun p => p.team == tid
    let s : State := if t.state = .resident then s.leaveCore t.core else s
    -- what is left of bank commands of killed groups in the team's window goes with the window (R336)
    { s with
      ops := s.ops.filterMap fun (o : Op) =>
        if o.counted != 0 then some o
        else
          let ps := o.parts.filter fun (p : Part) => s.partTeam o p.lane != tid
          if ps = [] then none else some { o with parts := ps } }.opportunity (s.ctxOfTeam t)

/-- Give a writer slot back to the pool. -/
def State.freeSlot (s : State) (w : Nat) : State := { s with holders := s.holders.filter fun h => h.1 != w }

/-- An operation that acts for a group's slot owner, not for lanes: it is abandoned with that team. -/
def OpKind.ofOwner : OpKind → Bool
  | .gang _ | .obres _ _ | .obrel _ | .tfetch _ | .mma _ _ _ _ | .accz _ _ => true
  | .copy p _ _ => !p
  | .send _ _ _ _ _ => true
  | .nmc _ _ _ => true
  | _ => false

/-- An operation of a group that goes on without a killed team's lanes: it loses their parts where each lane has its own, and counts for them no more. An access
of the whole split is now that of the first lane that still counts (log entry 19, DEDUCED). -/
def Op.without (o : Op) (g : Group) (mine : List Nat) : Op :=
  let counted := maskMinus o.counted (maskOf mine)
  let heir := ((maskLanes counted).head?.map fun l => (g.lane l).team).getD o.team
  { o with
    parts := if o.kind.perLane then o.parts.filter fun p => !mine.contains p.lane else o.parts
    counted := counted
    team := if o.kind.ofOwner then o.team else heir }

/-- An operation of the whole group is abandoned: it counts for no lane and its results are not written. -/
def Group.abandon (g : Group) (o : Op) : Group :=
  let g := g.modLanes (maskLanes o.counted) fun l => l.putCounter o.ctr (l.counter o.ctr - 1)
  { g with
    lanes := g.lanes.map fun l => { l with pend := l.pend.filter fun p => p.op != o.id }
    spend := g.spend.filter fun p => p.op != o.id }

/-- The operations of a group of which a killed team's lanes exit and others go on (R226, R227, R361, R375): those that acted for the team are abandoned, the
others go on for the lanes that are left. -/
def State.cutOps (s : State) (g : Group) (tid : Nat) (mine : List Nat) : State :=
  let gone := s.ops.filter fun o => o.gid == g.gid && o.kind.ofOwner && o.team == tid
  let ids := gone.map (·.id)
  let s : State := { s with
    calls := s.calls.filter fun c => !ids.contains c.2
    ops := (s.ops.filter fun o => !ids.contains o.id).filterMap fun o =>
      if o.gid = g.gid then
        let o' := o.without g mine
        if (o'.counted = 0 && o.counted != 0) || (o'.parts = [] && o.parts != []) then none else some o'
      else some o }
  s.modGroup g.gid fun g => gone.foldl Group.abandon g

/-- The teams other than one for which operations of a group are outstanding, those of lanes that have exited too. -/
def State.othersIn (s : State) (g : Group) (tid : Nat) : List Nat :=
  (s.ops.filter fun o => o.gid == g.gid).foldl (fun l o => ((s.teamsOfOp o).filter (· != tid)).foldl addNew l) []

/-- The groups of a killed team: lanes with its tag exit, and their operations are abandoned; a group in which lanes or operations of other teams are left goes on
with them (R218, R226, R227, R336), and a group that it owns and in which none are left ends. -/
def State.endLanesOf (s : State) (tid : Nat) : State :=
  s.groups.foldl (fun s g =>
    let mine := (List.range 32).filter fun l => (g.lane l).team == tid
    if !(g.owner == tid || mine != []) then s
    else if s.othersIn g tid != [] || g.lanes.any fun l => !l.exited && l.team != tid then
      (s.cutOps g tid mine).modGroup g.gid fun g => Group.settle s.tick
        { (g.modLanes mine fun l => { l with exited := true, sb := List.replicate 4 0, pend := [], fresh := [] }) with
          runs := g.runs.map fun r => { r with lanes := maskMinus r.lanes (maskOf mine) } }
    else if g.owner == tid then (s.abandonOps g.gid).modGroup g.gid fun g => { g.killed with ended := true }
    else if !g.ended then (s.abandonOps g.gid).modGroup g.gid Group.killed
    else s) s

/-- The devices at which a team has remote stores that are not known to be published: not accepted, pending, or published on a request that has not been
answered (R251, R393, R394). -/
def State.remoteDevices (s : State) (tid : Nat) : List Nat :=
  s.awaiting.foldl (fun l x => if x.team == tid && x.kind != .discard then addNew l x.dev else l) []

/-- The owners of a killed team's remote stores are told to discard them (R394); an answer to an earlier PUBLISH may still come before. -/
def State.sendDiscards (s : State) (tid slot : Nat) : State :=
  let devs := s.remoteDevices tid
  let s : State := { s with
    awaiting := (s.awaiting.filter fun x => !(x.team == tid && (x.kind == .sent || x.kind == .held))).map fun (x : Await) =>
      if x.team == tid && x.kind == .publish then { x with kind := .stray } else x }
  devs.foldl (fun (s : State) dev =>
    let s : State := s.post (s.packet dev kDiscard slot 0 0 [])
    { s with awaiting := s.awaiting ++ [{ gid := 0, op := 0, team := tid, dev := dev, addr := 0, kind := .discard }] }) s

/-- Crews of a launch (R33). -/
def Launch.crews (l : Launch) : Nat := (l.gx * l.gy * l.gz + l.c - 1) / l.c

/-- A launch all of whose teams have retired or been killed without relaunch completes, and its task records are gone (R56, R268, R280). -/
def State.checkLaunch (s : State) (lid : Nat) : State :=
  match s.launch? lid with
  | none => s
  | some l =>
    let mine := s.teams.filter fun t => t.launch == lid
    if l.placed < l.crews || mine.any fun t => !(t.state == .retired || t.state == .killed) then s
    else
      let tids := mine.map (·.tid)
      { s with
        launches := s.launches.filter fun x => x.lid != lid
        teams := s.teams.filter fun t => t.launch != lid
        groups := s.groups.filter fun g => !tids.contains g.owner }.completeCommand l.queue l.slot (if l.bad then 0x20 else 0)

/-- The pseudo-channel on which a team has an established lease. -/
def Team.leased (t : Team) : Option (Nat × Nat) :=
  match t.lease with
  | .held k c _ => some (k, c)
  | _ => none
/-- Zero the DMU state of a pseudo-channel. -/
def State.zeroDmu (s : State) (ch : Nat × Nat) : State :=
  { s with dmus := s.dmus.filter fun x => !(x.stack == ch.1 && x.channel == ch.2) }
/-- An established lease of a team ends: the DMU state is zeroed (R382). -/
def State.endLease (s : State) (t : Team) : State :=
  match t.leased with
  | some ch => s.zeroDmu ch
  | none => s

/-- The team to which a killed team's slot passes: that of the lowest live lane of another team, or else one with an operation outstanding there (log entry 73,
DESIGN CHOICE). -/
def State.heirOf (s : State) (g : Group) (tid : Nat) : Option Nat :=
  ((g.lanes.find? fun l => !l.exited && l.team != tid).map (·.team)).orElse fun _ => (s.othersIn g tid).head?

/-- A killed team's slots in which lanes or operations of other teams are left pass to one of those teams; no budget changes, and the slot's blocks are in
none (R48, R227, R228; log entry 73, DESIGN CHOICE). -/
def State.passSlots (s : State) (tid : Nat) : State :=
  s.groups.foldl (fun (s : State) g =>
    match s.heirOf g tid with
    | some heir =>
      if g.owner = tid && !g.ended then s.modGroup g.gid fun g => { g with owner := heir, lent := g.alloc / 4 } else s
    | none => s) s

/-- Kill(team, code) (R55, R239, R281). `recorded` is false, and no relaunch follows, for the kills of CTXEND (R259); the record of a kill by an
access names the access (R284). -/
def State.killTeam (s : State) (tid code : Nat) (recorded : Bool := true) (f : FaultInfo := {}) : State :=
  match s.team? tid with
  | none => s
  | some t =>
    if t.state = .retired || t.state == .killed then s else
    let ctx := s.ctxOfTeam t
    let s : State := if recorded then s.note ctx code t.index else s
    let s : State := match t.wslot with
      | some w => (s.discardSlot w).sendDiscards tid w
      | none => s
    let s : State := ((s.endLanesOf tid).passSlots tid).endLease t
    let again := recorded && ((s.launchOf t).map (·.taskrec)).getD false && !t.pub && decide (t.att < 3)
    if again then
      let s : State := s.event ctx (s.teamEvent t 5 code)
      (s.freeTeam tid .waiting).modTeam tid fun t => { t with lcode := code, att := t.att + 1, lease := .none, released := false }
    else
      let s : State := if recorded then s.event ctx { s.teamEvent t 1 code with acc := f.acc, vaddr := f.vaddr } else s
      let s : State := (s.freeTeam tid .killed).modTeam tid fun t => { t with lcode := code, lease := .none, wslot := none }
      let s : State := match t.wslot with
        | some w =>
          if s.awaiting.any fun x => x.team == tid && x.kind == .discard then { s with holders := assocPut s.holders w (.discarding tid) }
          else s.freeSlot w
        | none => s
      (s.modLaunch t.launch fun l => { l with bad := true }).checkLaunch t.launch

/-! ## Traps (R288) -/

/-- The trap handler of a group's kernel; 0 where it names none (R264). -/
def State.handlerOf (s : State) (g : Group) : DWord := ((s.launchOfGroup g).map (·.trap)).getD 0
/-- The vpc entry at which its clauses begin. -/
def State.handlerEntry (s : State) (g : Group) : DWord := vpcOf (s.handlerOf g)

/-- Taking a trap: entry of lanes into the handler (R288). Each pushes its vpc and takes TRAPENT; s61 to s63 receive the address, the cause with
its argument, and the mask. A full call stack among them ends the group with 0x0A. -/
def State.enterHandler (s : State) (gid cause arg : Nat) (lanes : List Nat) (vaddr : Nat) : State :=
  match s.group? gid with
  | none => s
  | some g =>
    if lanes.any fun l => (g.lane l).full then s.killGroup gid 0x0A
    else
      let ent := s.handlerEntry g
      let g := g.modLanes lanes fun l => { l.push l.vpc with vpc := ent }
      s.putGroup (((g.landS 61 (BitVec.ofNat 64 vaddr)).landS 62 (BitVec.ofNat 64 (cause + arg * 256))).landS 63
        ((maskOf lanes).setWidth 64))

/-- Return of one lane from a handler or a call: the newest entry of its call stack; none where the depth is 0 (R207, R288). -/
def Lane.pop (l : Lane) : Option (DWord × Lane) :=
  match l.stack with
  | [] => none
  | a :: rest => some (a, { l with stack := rest })

end Sys2Proof.Machine
end

