-- ==== Sys2Proof/Machine/Operands.lean ====
section
/-!
DEFINITION. Operand forms: which registers a word reads and writes (04_encoding R66, R49), what it reads from them when it comes early
(R76 to R81, 08_alu R126), Issue (00_scope R8), and how a word's results are written and its lanes go on.
-/
namespace Sys2Proof.Machine

/-! ## Registers a word uses -/

/-- The v and s registers that a word reads and writes. `mx` marks a matrix word, whose accumulator may be pending on an earlier one
(R356). `names` holds v registers named beyond those (R357). -/
structure Uses where
  vr : List Nat := []
  vw : List Nat := []
  sr : List Nat := []
  sw : List Nat := []
  mx : Bool := false
  names : List Nat := []
  /-- The one lane whose v registers are written, where it is not every lane of Issue (WRLN). -/
  only : Option Nat := none
  deriving DecidableEq, Repr

/-- The registers of a pair (R66). -/
def pairOf (n : Nat) : List Nat := [n, n + 1]
/-- n registers from the first on. -/
def regsFrom (n k : Nat) : List Nat := (List.range k).map (n + ·)
/-- The registers of a value of that many bytes, at least one. -/
def regsFor (t size : Nat) : List Nat := regsFrom t ((size + 3) / 4)

/-- va, and vb or sb. -/
def Uses.rs (o : ArgsRS) : Uses := { vr := if o.s then [o.a] else [o.a, o.b], vw := [o.d], sr := if o.s then [o.b] else [] }
/-- The same, vd a source too. -/
def Uses.rsAcc (o : ArgsRS) : Uses := { Uses.rs o with vr := o.d :: (Uses.rs o).vr }
/-- Pairs (R136). -/
def Uses.rs64 (o : ArgsRS) : Uses :=
  { vr := if o.s then pairOf o.a else pairOf o.a ++ pairOf o.b, vw := pairOf o.d, sr := if o.s then [o.b] else [] }
/-- Single operands, a pair written (MULW). -/
def Uses.rsWide (o : ArgsRS) : Uses := { Uses.rs o with vw := pairOf o.d }
/-- One source. -/
def Uses.r2 (o : ArgsR2) : Uses := { vr := [o.a], vw := [o.d] }
/-- Two v sources. -/
def Uses.vvv (d a b : Nat) : Uses := { vr := [a, b], vw := [d] }
/-- Two v sources and the destination. -/
def Uses.vvvAcc (d a b : Nat) : Uses := { vr := [d, a, b], vw := [d] }
/-- Pairs throughout (R147). -/
def Uses.ddd (d a b : Nat) : Uses := { vr := pairOf a ++ pairOf b, vw := pairOf d }
/-- Pairs throughout, the destination a source. -/
def Uses.dddAcc (d a b : Nat) : Uses := { vr := pairOf d ++ pairOf a ++ pairOf b, vw := pairOf d }
/-- Scalar arithmetic. -/
def Uses.sss (d a b : Nat) : Uses := { sr := [a, b], sw := [d] }
/-- CVT (R149). -/
def Uses.cvt (o : ArgsCvt) : Uses :=
  { vr := if cvtWide o.src then pairOf o.a else [o.a], vw := if cvtWide o.dst then pairOf o.d else [o.d] }
/-- A load of `size` bytes (R186). -/
def Uses.load (o : ArgsM) (size : Nat) : Uses := { vr := [o.idx], vw := regsFor o.t size, sr := [o.base] }
/-- A store. -/
def Uses.store (o : ArgsM) (size : Nat) : Uses := { vr := o.idx :: regsFor o.t size, sr := [o.base] }
/-- An atomic: operand registers and result registers. -/
def Uses.atom (o : ArgsM) (operand result : Nat) : Uses :=
  { vr := o.idx :: regsFrom o.t operand, vw := regsFrom o.t result, sr := [o.base] }
/-- LDF. -/
def Uses.ldf (o : ArgsLdf) (size : Nat) : Uses := { vr := [o.idx], vw := regsFor o.t size, sr := [o.base] }
/-- A scalar base and a v index. -/
def Uses.mbi (o : ArgsMBI) : Uses := { vr := [o.idx], sr := [o.base] }

/-- The registers of each word (R49, R81). -/
def usesOf : Instr → Uses
  | .iadd o | .iadds o | .iaddus o | .isub o | .isubs o | .isubus o | .irsub o | .imul o | .imulhi o | .imulhu o
  | .and o | .or o | .xor o | .andn o | .shl o | .shr o | .sar o | .rol o | .imin o | .imax o | .iminu o | .imaxu o
  | .bfe o | .bfes o | .fmin o | .fmax o | .fminp o | .fmaxp o | .shflIdx o | .shflUp o | .shflDown o | .shflXor o => Uses.rs o
  | .imad o | .bfi o | .idp4Ss o | .idp4Nn o | .idp4Sn o => Uses.rsAcc o
  | .add64 o | .sub64 o | .mul64 o => Uses.rs64 o
  | .mulw o => Uses.rsWide o
  | .popc o | .clz o | .brev o | .ffs o | .frcp o | .frsq o | .fsqrt o | .fex2 o | .flg2 o | .fsnt o | .fcst o | .mov o | .vmatch o =>
    Uses.r2 o
  | .lea o => { vr := if o.s then [o.a] else [o.a, o.b], vw := [o.d], sr := if o.s then [o.b] else [] }
  | .sel o => Uses.vvv o.d o.a o.b
  | .iaddi o => { vr := [o.a], vw := [o.d] }
  | .mix o => { vr := [o.a], vw := [o.d], sr := [o.b] }
  | .sadd o | .ssub o | .smul o | .smulhn o | .sand o | .sor o | .sxor o | .sandn o | .sshl o | .sshr o | .ssar o
  | .smin o | .smax o | .sminu o | .smaxu o => Uses.sss o.d o.a o.b
  | .saddi o => { sr := [o.a], sw := [o.d] }
  | .slit o _ => { sw := [o.d] }
  | .slitW64 o _ _ => { sw := [o.d] }
  | .slea o => Uses.sss o.d o.a o.b
  | .fadd o | .fsub o => Uses.vvv o.d o.a o.b
  | .fmul o => { vr := if o.s then [o.a] else [o.a, o.b], vw := [o.d], sr := if o.s then [o.b] else [] }
  | .ffma o | .ffms o => Uses.vvvAcc o.d o.a o.b
  | .dadd o | .dsub o | .dmul o | .dmin o | .dmax o | .ddiv o => Uses.ddd o.d o.a o.b
  | .dfma o => Uses.dddAcc o.d o.a o.b
  | .dsqrt o => { vr := pairOf o.a, vw := pairOf o.d }
  | .hadd2 o | .hmul2 o | .hmax2 o => Uses.vvv o.d o.a o.b
  | .hfma2 o => Uses.vvvAcc o.d o.a o.b
  | .cvt o => Uses.cvt o
  | .pk8e4 o | .pk8e5 o | .pk4 o => Uses.vvvAcc o.d o.a o.b
  | .up8e4 o | .up8e5 o | .up4 o | .dq4 o => { vr := [o.a], vw := pairOf o.d, sr := [o.b] }
  | .qi8 o => { vr := [o.a, o.d], vw := [o.d], sr := [o.b] }
  | .icmp o | .ucmp o | .fcmp o => { vr := [o.a, o.b] }
  | .dcmp o => { vr := pairOf o.a ++ pairOf o.b }
  | .scmp o => { sr := [o.a, o.b] }
  | .movs o => { vw := [o.d], sr := [o.a] }
  | .rdln o => { vr := [o.a], sw := [o.d] }
  | .wrln o => { vw := [o.d], sr := [o.a], only := some o.lane }
  | .vlit o _ => { vw := [o.d] }
  | .rdsr o => { vw := if specialWidth o.n = some 64 then pairOf o.d else [o.d] }
  | .wrsr o => { sr := [o.d] }
  | .rdpc o => { vw := pairOf o.d }
  | .vall _ | .vany _ => {}
  | .ballot o => { vw := [o.d] }
  | .pand o | .por o | .pxor o => { vr := [o.b] }
  | .pset o => { vr := [o.b] }
  | .gredAdd o | .gredMin o | .gredMax o | .gredMinu o | .gredMaxu o | .gredFadd o | .gredFmin o | .gredFmax o
  | .scani o | .scanx o | .scanf o | .scanfx o | .scanmax o | .scanmin o | .segscan o => { vr := [o.a], vw := [o.d] }
  | .ldB o | .ldsB o | .ldSb o | .ldsSb o | .ldH o | .ldsH o | .ldSh o | .ldsSh o | .ldW o | .ldsW o => Uses.load o 4
  | .ldD o | .ldsD o => Uses.load o 8
  | .ldQ o | .ldsQ o => Uses.load o 16
  | .ldSc o => { sr := [o.base], sw := [o.t] }
  | .stB o | .stH o | .stW o | .stsB o | .stsH o | .stsW o => Uses.store o 4
  | .stD o | .stsD o => Uses.store o 8
  | .stQ o | .stsQ o | .stsf o => Uses.store o 16
  | .stSc o => { sr := [o.base, o.t] }
  | .sete o | .prefL2 o | .prefL1 o => Uses.mbi o
  | .ldfW o => Uses.ldf o 4
  | .ldfD o => Uses.ldf o 8
  | .ldfQ o => Uses.ldf o 16
  | .ldaW o => { Uses.load o 4 with vr := pairOf o.idx }
  | .ldaD o => { Uses.load o 8 with vr := pairOf o.idx }
  | .ldaQ o => { Uses.load o 16 with vr := pairOf o.idx }
  | .staW o => { vr := pairOf o.idx ++ regsFor o.t 4, sr := [o.base] }
  | .staD o => { vr := pairOf o.idx ++ regsFor o.t 8, sr := [o.base] }
  | .staQ o => { vr := pairOf o.idx ++ regsFor o.t 16, sr := [o.base] }
  | .atomAdd o | .atomSmin o | .atomSmax o | .atomUmin o | .atomUmax o | .atomAnd o | .atomOr o | .atomXor o
  | .atomxXchg32 o | .atomxFadd32 o | .atomxFmin32 o | .atomxFmax32 o | .atomxIncw o
  | .atomsAdd o | .atomsSmin o | .atomsSmax o | .atomsUmin o | .atomsUmax o | .atomsAnd o | .atomsOr o | .atomsXor o => Uses.atom o 1 1
  | .atomxXchg64 o | .atomxAdd64 o | .atomxFadd64 o => Uses.atom o 2 2
  | .cas32 o => Uses.atom o 2 1
  | .cas64 o => Uses.atom o 4 2
  | .badd o | .bmax o | .bmin o | .bmul o | .biadd o | .bimax o | .bset o => Uses.atom o 1 0
  | .bsmx o => Uses.atom o 2 0
  | .gang o | .obrel o => { sr := [o.base] }
  | .obres o => { sr := pairOf o.base, sw := pairOf o.t }
  | .tfetch o => { sr := [o.t, o.base, o.idx] }
  | .mma o | .mmaq o => { sr := [o.base], mx := true, names := [o.t] }
  | .accz o => { mx := true, names := regsFrom o.t 16 }
  | .acczD o => { mx := true, names := regsFrom o.t 32 }
  | .cpy o => { vr := [o.t, o.idx], sr := regsFrom o.base 4 }
  | .cpyt o => { sr := o.base :: pairOf o.t }
  | .cpyn o => { sr := o.base :: o.idx :: pairOf o.t }
  | .nmc o => { sr := [o.base], sw := pairOf o.t }
  | .acqr o | .revert o | .sndrop o => { sr := [o.base], sw := [o.t] }
  | .waitc o => { sr := [o.base, o.t], sw := pairOf o.t }
  | .snap o => { sr := [o.base], sw := pairOf o.t }
  | .bari o => { sr := [o.base] }
  | .bara o | .bars o | .barb o => { sr := [o.base], vw := [o.t] }
  | .barw o => { sr := [o.base], vr := [o.t], vw := [o.t] }
  | .regrpTeam o | .regrpCore o => { vr := [o.v] }
  | .rclaim o => { sw := [o.base] }
  | .brx o | .callx o => { vr := pairOf o.a }
  | _ => {}

/-- The v registers that a word names (R49). -/
def Uses.named (u : Uses) : List Nat := u.vr ++ u.vw ++ u.names

/-! ## What a word works on -/

/-- A word about to execute: the state, its group, its run, and the lanes of Issue in ascending order (R8). -/
structure Ctx where
  s : State
  g : Group
  r : Run
  issue : List Nat

/-- The lanes of the issuing split. -/
def Ctx.split (c : Ctx) : List Nat := (maskLanes c.r.lanes).filter fun l => !(c.g.lane l).exited
/-- The context number of the group. -/
def Ctx.ctx (c : Ctx) : Nat := c.s.ctxOfGroup c.g
/-- The translator of the group's core. -/
def Ctx.who (c : Ctx) : Translator := .core c.g.core

/-! ## Early reads (R78, R80, R126) -/

/-- A read comes at an issue distance below the latency (R76, R126). `byGroup` measures by the group's distance in any case. -/
def Ctx.isShort (c : Ctx) (lane : Nat) (byGroup : Bool) (f : Fresh) : Bool :=
  if f.own && !byGroup then decide ((c.g.lane lane).dist - f.lane0 < f.lat) else decide (c.g.dist - f.group0 < f.lat)

/-- The value read from a v register: each recent fixed-latency result, newest first, that is not yet due may still show the value before
it (R78). The choice is one for all registers that the same word wrote, since a pair is written whole (R127). -/
def Ctx.early (c : Ctx) (lane reg site : Nat) (byGroup : Bool) : Word → List Fresh → Word
  | v, [] => v
  | v, f :: fs =>
    if f.reg ≠ reg then c.early lane reg site byGroup v fs
    else if c.isShort lane byGroup f && Config.freeBit c.s.serial (lane * 64 + site) (2 ^ 20 + f.word) then
      c.early lane reg site byGroup f.old fs
    else v

/-- The number that a load or an atomic delivers from what was read (R187, R191). -/
def OpKind.result (k : OpKind) (x : Nat) : Nat :=
  match k with
  | .load size sext _ | .lds size sext _ => if sext then (sextWord (8 * size) x).toNat else x
  | _ => x

/-- What completion will write to register `reg` of a lane, where the operation has been performed for it (R80; log entry 66,
DEDUCED). -/
def Op.arrived (o : Op) (lane reg : Nat) : Option Word :=
  match o.kind with
  | .load _ _ t | .atomic _ _ t | .lds _ _ t | .atomS _ t =>
    match o.part? lane with
    | some p => match p.st with
      | .done x => some ((BitVec.ofNat 128 (o.kind.result x.toNat) >>> (32 * (reg - t))).setWidth 32)
      | _ => none
    | none => none
  | .mma _ _ _ _ =>
    match o.parts.find? fun p => p.lane == lane && p.addr == reg with
    | some p => match p.st with
      | .done x => some (x.setWidth 32)
      | _ => none
    | none => none
  | .accz t n => if t ≤ reg ∧ reg < t + n then some 0 else none
  | _ => none

/-- The same for an s register. -/
def Op.arrivedS (o : Op) (reg : Nat) : Option DWord :=
  match o.kind with
  | .loadScalar t => if reg = t then (o.parts.findSome? fun p => match p.st with | .done x => some (x.setWidth 64) | _ => none) else none
  | .obres _ _ | .nmc _ _ _ => (o.parts.find? fun p => p.addr == reg).bind fun p => match p.st with | .done x => some (x.setWidth 64) | _ => none
  | _ => none

/-- The register is pending on an operation that has not completed for the lane (R80). -/
def Ctx.inFlight (c : Ctx) (lane reg : Nat) : Bool :=
  (c.g.lane lane).pend.any fun p => p.reg == reg && !p.keep &&
    match c.s.op? p.op with
    | some o => inMask o.counted lane
    | none => false

/-- One of some values. -/
def oneOf {α : Type} (serial site k : Nat) (x : α) (xs : List α) : α :=
  if xs.isEmpty then x else (x :: xs).getD (Config.freeNat serial site k % (xs.length + 1)) x

/-- The new values of a register that is pending on operations in flight for the lane. -/
def Ctx.arrivals (c : Ctx) (lane reg : Nat) : List Word :=
  (c.g.lane lane).pend.filterMap fun p =>
    if p.reg == reg && !p.keep then
      (match c.s.op? p.op with
      | some o => if inMask o.counted lane then o.arrived lane reg else none
      | none => none)
    else none

/-- What lane L reads from v register `reg`; `site` tells the reads of one word apart (R78). A register that is pending on an operation in
flight gives the old value or the operation's (R80). -/
def Ctx.v (c : Ctx) (lane reg : Nat) (site : Nat := 0) (byGroup : Bool := false) : Word :=
  let l := c.g.lane lane
  oneOf c.s.serial (lane * 64 + reg) (site + 4096) (c.early lane reg site byGroup (l.getV reg) l.fresh) (c.arrivals lane reg)

/-- A pair of v registers (R125). -/
def Ctx.v64 (c : Ctx) (lane reg : Nat) (site : Nat := 0) : DWord := Word.pair (c.v lane reg site) (c.v lane (reg + 1) site)

/-- The same tests for an s register, for a lane (R126, R189). -/
def Ctx.isShortS (c : Ctx) (lane : Nat) (f : SFresh) : Bool :=
  if inMask f.issuers lane then decide ((c.g.lane lane).dist - f.lane0.getD lane 0 < f.lat) else decide (c.g.dist - f.group0 < f.lat)

/-- The value of an s register with what is not yet due, for some of the lanes. -/
def Ctx.earlyS (c : Ctx) (lanes : List Nat) (reg site : Nat) : DWord → List SFresh → DWord
  | v, [] => v
  | v, f :: fs =>
    if f.reg ≠ reg then c.earlyS lanes reg site v fs
    else if lanes.any (fun l => c.isShortS l f) && Config.freeBit c.s.serial (lanes.headD 0 * 64 + site) (2 ^ 21 + f.word * 64 + reg) then
      c.earlyS lanes reg site f.old fs
    else v

/-- The s register is pending on an LD.SC or an engine word that has not completed (R80, R189, R339, R376). -/
def Ctx.inFlightS (c : Ctx) (lanes : List Nat) (reg : Nat) : Bool :=
  c.g.spend.any fun p => p.reg == reg && !p.keep && lanes.any (inMask p.lanes) && (c.s.op? p.op).isSome

/-- The new values of an s register that is pending on operations in flight. -/
def Ctx.arrivalsS (c : Ctx) (lanes : List Nat) (reg : Nat) : List DWord :=
  c.g.spend.filterMap fun p =>
    if reg != 0 && p.reg == reg && !p.keep && lanes.any (inMask p.lanes) then (c.s.op? p.op).bind fun o => o.arrivedS reg else none

/-- What lanes read from an s register; a scalar word reads once for its split, a vector word once a lane. One that is pending on an
operation in flight gives the old value or the operation's (R80, R189, R339, R376). -/
def Ctx.sv (c : Ctx) (lanes : List Nat) (reg : Nat) (site : Nat := 0) : DWord :=
  oneOf c.s.serial (lanes.headD 0 * 64 + reg) (site + 131072) (c.earlyS lanes reg site (c.g.getS reg) c.g.sfresh) (c.arrivalsS lanes reg)
/-- An s register read by one lane. -/
def Ctx.sLane (c : Ctx) (lane reg : Nat) (site : Nat := 0) : DWord := c.sv [lane] reg site
/-- An s register read once for the split (R126). -/
def Ctx.s1 (c : Ctx) (reg : Nat) (site : Nat := 0) : DWord := c.sv c.split reg site

/-- The b operand of a 32-bit word (R66, R125). -/
def Ctx.b32 (c : Ctx) (lane b : Nat) (s : Bool) : Word := if s then Word.lo (c.sLane lane b 1) else c.v lane b 1
/-- The b operand of a 64-bit word. -/
def Ctx.b64 (c : Ctx) (lane b : Nat) (s : Bool) : DWord := if s then c.sLane lane b 1 else c.v64 lane b 1

/-! ## Checked mode (R81) -/

/-- The newest recent result of a register is not yet due; a result that a later word has overwritten does not count (R81; log entry 65,
DESIGN CHOICE). -/
def Ctx.newestShort (c : Ctx) (lane reg : Nat) : Bool :=
  match (c.g.lane lane).fresh.find? fun f => f.reg == reg with
  | some f => c.isShort lane false f
  | none => false
/-- The same for an s register. -/
def Ctx.newestShortS (c : Ctx) (lane reg : Nat) : Bool :=
  match c.g.sfresh.find? fun f => f.reg == reg with
  | some f => c.isShortS lane f
  | none => false

/-- The word breaks checked mode: it reads a fixed-latency destination too early, or reads or writes a pending register (R81, R356). -/
def Ctx.violates (c : Ctx) (u : Uses) : Bool :=
  c.issue.any fun l =>
    (u.vr.any fun r => c.newestShort l r)
    || ((u.vr ++ (if u.only.all (· == l) then u.vw else []) ++ (if u.mx then u.names else [])).any fun r => (c.g.lane l).pend.any fun p => p.reg == r && !(u.mx && p.mx))
    || (u.sr.any fun r => r != 0 && c.newestShortS l r)
    || ((u.sr ++ u.sw).any fun r => r != 0 && c.g.spend.any fun p => p.reg == r && inMask p.lanes l)

/-! ## Results -/

/-- What a word writes: v registers and predicates of lanes, s registers, flags. -/
structure Effect where
  v : List (Nat × Nat × Word) := []
  p : List (Nat × Nat × Bool) := []
  s : List (Nat × DWord) := []
  flags : Flags := 0
  deriving DecidableEq, Repr

/-- Recent results are kept while they can matter: no latency is above 6 (R77). -/
def Lane.prune (l : Lane) (groupDist : Nat) : Lane :=
  { l with fresh := l.fresh.filter fun f => decide ((f.own = true ∧ l.dist - f.lane0 < 6) ∨ groupDist - f.group0 < 6) }

/-- One write of a v register by a word: a fixed-latency result is kept as recent; any other supersedes what was. A register pending on an
operation in flight may keep this value when the operation completes (R80). `contrib` is the word's own contribution to the distances,
which counts for its lane and not for the group (R76, R126). -/
def Ctx.writeV (c : Ctx) (lane lat contrib : Nat) (own : Bool) (l : Lane) (reg : Nat) (x : Word) : Lane :=
  let fresh := if lat = 0 then l.fresh.filter fun f => f.reg != reg
    else { word := c.s.serial, reg := reg, old := l.getV reg, lat := lat, own := own, lane0 := l.dist, group0 := c.g.dist + contrib } :: l.fresh
  let stays := c.inFlight lane reg && Config.freeBit c.s.serial (lane * 64 + reg) 262144
  { l.putV reg x with
    fresh := fresh
    pend := l.pend.map fun p => if p.reg = reg && stays then { p with keep := true } else p }

/-- The writes of a word to one lane. -/
def Ctx.writeLane (c : Ctx) (e : Effect) (lat contrib : Nat) (own : Bool) (i : Nat) (l : Lane) : Lane :=
  let l := (e.v.filter fun w => w.1 == i).foldl (fun l w => c.writeV i lat contrib own l w.2.1 w.2.2) l
  (e.p.filter fun w => w.1 == i).foldl (fun (l : Lane) w => l.putP w.2.1 w.2.2) l

/-- A recent result of an s register can still matter: it is not yet due for the group or for a lane that issued it. -/
def Ctx.keepS (c : Ctx) (f : SFresh) : Bool :=
  decide (c.g.dist - f.group0 < f.lat)
    || (maskLanes f.issuers).any fun l => decide ((c.g.lane l).dist - f.lane0.getD l 0 < f.lat)

/-- One write of an s register. -/
def Ctx.writeS (c : Ctx) (lat : Nat) (g : Group) (reg : Nat) (x : DWord) (contrib : Nat := 1) : Group :=
  if reg = 0 then g
  else
    let f : SFresh := { word := c.s.serial, reg := reg, old := g.getS reg, lat := lat, issuers := c.r.lanes, lane0 := c.g.lanes.map (·.dist)
                        group0 := c.g.dist + contrib }
    let stays := c.inFlightS c.split reg && Config.freeBit c.s.serial reg 262145
    { g.putS reg x with
      sfresh := if lat = 0 then g.sfresh.filter fun f => f.reg != reg else f :: g.sfresh.filter c.keepS
      spend := g.spend.map fun p => if p.reg = reg && stays then { p with keep := true } else p }

/-- The group with the results of a word written. -/
def Ctx.writeAll (c : Ctx) (e : Effect) (lat contrib : Nat) (own : Bool) : Group :=
  let g : Group := { c.g with lanes := c.g.lanes.zipIdx.map fun x => c.writeLane e lat contrib own x.2 x.1 }
  (e.s.foldl (fun g w => c.writeS lat g w.1 w.2 contrib) g).raise e.flags

/-- The contribution of a word counts for the lanes of its split and for the group (R76, R126). -/
def Ctx.pace (c : Ctx) (g : Group) (contrib : Nat) : Group :=
  let lanes := c.split
  let dist := g.dist + contrib
  { g with
    dist := dist
    lanes := g.lanes.zipIdx.map fun x =>
      (if lanes.contains x.2 then { x.1 with dist := x.1.dist + contrib } else x.1).prune dist }

/-- The word is over for its run: the lanes' and the group's issue distances grow (R76, R126), the run stands at its next word, and a clause
whose words are over completes (R39). `n` counts the words taken, literals included. -/
def Ctx.advanceGroup (c : Ctx) (g : Group) (n contrib : Nat) : Group :=
  ((c.pace g contrib).setRun c.r (some { c.r with pos := c.r.pos + n, wait := .none })).settle c.s.tick

/-- The state after a word that only changes its group. -/
def Ctx.next (c : Ctx) (g : Group) (n contrib : Nat) : State := c.s.putGroup (c.advanceGroup g n contrib)

/-- Write the results and go on. -/
def Ctx.commit (c : Ctx) (e : Effect) (lat contrib : Nat) (n : Nat := 1) (own : Bool := true) : State :=
  c.next (c.writeAll e lat contrib own) n contrib

/-! ## Executing a word -/

/-- How a word executes where lanes of its clause's issue have parted: for each of the parts that come to it, once for all of them when the last has come, or
once, for the first that comes (R44, R65, R126; log entry 68). -/
inductive Share where
  | each | joined | first
  deriving DecidableEq, Repr

/-- The run waits at its word for the other lanes of its issue (log entry 68). -/
def Ctx.toJoin (c : Ctx) : State := c.s.putGroup ((c.g.rotate c.r { c.r with wait := .join }).settle c.s.tick)
/-- The word has executed for the issue: the run passes it. It counts for its lanes (R76). -/
def Ctx.skip (c : Ctx) (n contrib : Nat) : State :=
  let g := c.g.modLanes c.split fun l => { l with dist := l.dist + contrib }
  c.s.putGroup ((g.setRun c.r (some { c.r with pos := c.r.pos + n, wait := .none })).settle c.s.tick)
/-- The word has executed for the other lanes of its issue too. -/
def Group.noteRan (g : Group) (r : Run) : Group :=
  if !g.parted r then g
  else { g with runs := g.runs.map fun x => if x.issue = r.issue && x.lanes != r.lanes then { x with ran := r.pos :: x.ran } else x }

/-- A word executes for the run that goes on in the focus group: Issue is the lanes of the split whose guard is true, or every lane of it
where the word ignores its guard (R65). In checked mode an early or pending use ends the group with 0x04 instead (R81). A word that executes once for its
issue waits for the lanes that have parted (R44, R65). Where no group stands in the focus, or none of its runs goes on, no word executes and the state stays. -/
def State.wordOf (s : State) (share : Share) (guard : Option Nat) (u : Uses) (k : Ctx → State) : Host.Outcome State Fault Refusal :=
  match s.group? s.focus with
  | none => .next s
  | some g =>
    match s.current? g with
    | none => .next s
    | some r =>
      let lanes := (maskLanes r.lanes).filter fun l => !(g.lane l).exited
      let issue := match guard with
        | none => lanes
        | some p => lanes.filter fun l => (g.lane l).getP p
      let c : Ctx := { s := s, g := g, r := r, issue := issue }
      .next (if share = .joined && r.wait == .none && g.parted r then c.toJoin
        else if s.checkedOf g && c.violates u then s.killGroup g.gid 0x04
        else k c)

/-- A word that executes for each part of its issue as it comes. -/
abbrev State.word (s : State) (guard : Option Nat) (u : Uses) (k : Ctx → State) : Host.Outcome State Fault Refusal := s.wordOf .each guard u k
/-- A word that executes once for its issue (R44, R65). -/
abbrev State.joined (s : State) (guard : Option Nat) (u : Uses) (k : Ctx → State) : Host.Outcome State Fault Refusal := s.wordOf .joined guard u k

/-- A vector word of one result a lane with a fixed latency (0: interlocked). -/
def State.vector (s : State) (guard : Nat) (u : Uses) (lat stall d : Nat) (f : Ctx → Nat → Word) (share : Share := .each) :
    Host.Outcome State Fault Refusal :=
  s.wordOf share (some guard) u fun c => c.commit { v := c.issue.map fun l => (l, d, f c l) } lat (1 + stall)

/-- The same with a pair as result. -/
def State.vector64 (s : State) (guard : Nat) (u : Uses) (lat stall d : Nat) (f : Ctx → Nat → DWord) (share : Share := .each) :
    Host.Outcome State Fault Refusal :=
  s.wordOf share (some guard) u fun c =>
    c.commit { v := c.issue.flatMap fun l => let x := f c l; [(l, d, Word.lo x), (l, d + 1, Word.hi x)] } lat (1 + stall)

/-- A vector word whose result comes with flags (R113). -/
def State.vectorF (s : State) (guard : Nat) (u : Uses) (lat stall d : Nat) (f : Ctx → Nat → Nat × Flags) (share : Share := .each) :
    Host.Outcome State Fault Refusal :=
  s.wordOf share (some guard) u fun c =>
    let rs := c.issue.map fun l => (l, f c l)
    c.commit { v := rs.map fun r => (r.1, d, BitVec.ofNat 32 r.2.1), flags := rs.foldl (fun a r => a ||| r.2.2) 0 } lat (1 + stall)

/-- The same with a pair as result. -/
def State.vectorF64 (s : State) (guard : Nat) (u : Uses) (lat stall d : Nat) (f : Ctx → Nat → Nat × Flags) :
    Host.Outcome State Fault Refusal :=
  s.word (some guard) u fun c =>
    let rs := c.issue.map fun l => (l, f c l)
    c.commit { v := rs.flatMap fun r => [(r.1, d, BitVec.ofNat 32 r.2.1), (r.1, d + 1, BitVec.ofNat 32 (r.2.1 / 2 ^ 32))]
               flags := rs.foldl (fun a r => a ||| r.2.2) 0 } lat (1 + stall)

/-- A scalar word of n words, literals included: once for the issue of its clause (R65, R126); lanes that have parted pass it when another of them has executed
it (log entry 68). -/
def State.scalar (s : State) (u : Uses) (stall d : Nat) (f : Ctx → DWord) (n : Nat := 1) : Host.Outcome State Fault Refusal :=
  s.wordOf .first none u fun c =>
    if c.r.ran.contains c.r.pos then c.skip n (1 + stall)
    else { c with g := c.g.noteRan c.r }.commit { s := [(d, f c)] } 2 (1 + stall) n

end Sys2Proof.Machine
end

