-- ==== Sys2Proof/Machine/Access.lean ====
section
/-!
DEFINITION. Counted operations: issue, the order among accesses, completion (04_encoding R79, R80; 10_memory R173, R174, R180, R181, R183,
R185, R186; 20_banks R332).
-/
namespace Sys2Proof.Machine

/-! ## What kind of access an operation is -/

/-- The access code of an event record (R284). -/
def OpKind.acc : OpKind → Nat
  | .load _ _ _ | .loadScalar _ | .prefetch _ => 0
  | .store _ | .storeScalar => 1
  | .atomic _ _ _ => 2
  | .copy _ _ _ | .send _ _ _ _ _ | .copyCommand _ _ _ => 4
  | .tfetch _ | .mma _ _ _ _ => 5
  | .nmc _ _ _ => 6
  | .lds _ _ _ | .sts _ | .stsf | .sete | .ldf _ _ _ | .atomS _ _ | .bank _ _ => 9
  | _ => 0xFF

/-- The access path of R233. -/
def OpKind.path : OpKind → Nat
  | .bank _ _ => 1
  | .tfetch _ | .mma _ _ _ _ => 2
  | .copy _ _ _ | .copyCommand _ _ _ => 3
  | .nmc _ _ _ => 4
  | .send _ _ _ _ _ => 5
  | .gang _ | .obres _ _ | .obrel _ | .accz _ _ | .rfence _ => 6
  | _ => 0

/-- Where an operation acts: 1 memory through translation on the LS path, 2 scratchpad, 3 banks, 0 elsewhere. -/
def OpKind.space : OpKind → Nat
  | .load _ _ _ | .loadScalar _ | .prefetch _ | .store _ | .storeScalar | .atomic _ _ _ => 1
  | .lds _ _ _ | .sts _ | .stsf | .sete | .ldf _ _ _ | .atomS _ _ => 2
  | .bank _ _ => 3
  | _ => 0

/-- It stores to memory on the LS path. -/
def OpKind.isStore : OpKind → Bool
  | .store _ => true
  | .storeScalar => true
  | _ => false
/-- A scalar access: one part for the split. -/
def OpKind.isScalar : OpKind → Bool
  | .loadScalar _ => true
  | .storeScalar => true
  | _ => false
/-- A scratchpad access ordered after an earlier bank command of its group (R332). -/
def OpKind.afterBank : OpKind → Bool
  | .lds _ _ _ | .sts _ | .ldf _ _ _ => true
  | _ => false
/-- Accesses of lanes of one word to one byte or granule go in ascending lane order (R181, R192, R193, R327). -/
def OpKind.laneOrdered : OpKind → Bool
  | .store _ | .sts _ | .stsf | .ldf _ _ _ | .bank _ _ => true
  | _ => false

/-! ## Issue -/

/-- What a counted word asks for: kind, counter, lanes that count, parts, the v registers of lanes and the s registers that receive
results. -/
structure Request where
  kind : OpKind
  ctr : Nat
  lanes : List Nat
  parts : List Part
  dests : List (Nat × Nat) := []
  sdests : List Nat := []
  mx : Bool := false
  /-- The team whose operation it is, where it is not that of the first lane. -/
  team : Option Nat := none

/-- The word is held: its run tries it again (R79). -/
def Ctx.hold (c : Ctx) : State := c.s.putGroup (c.g.rotate c.r { c.r with wait := .retry })

/-- Hold a counted word while the counter stands at 63 for one of its lanes (R79). -/
def Ctx.counted (c : Ctx) (ctr : Nat) (lanes : List Nat) (k : State) : State :=
  if lanes.any fun l => (c.g.lane l).counter ctr = 63 then c.hold else k

/-- The team whose operation it is: that of the first lane (R226), also for LD.SC and ST.SC, which are one access for a split whose lanes may carry
several tags (log entry 81, DESIGN CHOICE). -/
def Ctx.teamOf (c : Ctx) (lanes : List Nat) : Nat :=
  match lanes with
  | l :: _ => (c.g.lane l).team
  | [] => c.g.owner

/-- Lanes leave the run that executes a word for one that waits, the word taken; the others go on (R192, R220), in a part of the same issue (log entry 68,
DESIGN CHOICE). A word that is tried again has counted already (R76). -/
def Ctx.forkGroup (c : Ctx) (g : Group) (lanes : List Nat) (w : Wait) : Group :=
  let rest := maskMinus c.r.lanes (maskOf lanes)
  let g := c.pace g (if c.r.waited then 0 else 1)
  let on : Run := { c.r with pos := c.r.pos + 1, wait := .none, lanes := rest }
  let g := g.setRun c.r (if rest = 0 then none else some on)
  { g with runs := { c.r with pos := c.r.pos + 1, lanes := maskOf lanes, wait := w } :: g.runs }.settle c.s.tick

/-- The counted word issues: the counters of its lanes rise by one, its destinations are pending, and the operation is outstanding (R79,
R80); `adv` moves the group past the word. With no lane in Issue nothing is asked for. -/
def Ctx.startWith (c : Ctx) (q : Request) (adv : Nat → Group → Group) : State :=
  if q.lanes = [] then c.next c.g 1 1
  else
    let id := c.s.fresh
    let pendFor : Nat → List Pend := fun l =>
      (q.dests.filter fun d => d.1 == l).map fun d => { reg := d.2, ctr := q.ctr, op := id, mx := q.mx, keep := false }
    let g : Group := c.g.modLanes q.lanes fun x => x.putCounter q.ctr (x.counter q.ctr + 1)
    let g : Group := { g with
      lanes := g.lanes.zipIdx.map fun (x, i) => { x with pend := x.pend ++ pendFor i }
      spend := g.spend ++ (q.sdests.filter (· != 0)).map fun r => { reg := r, ctr := q.ctr, op := id, lanes := 0xFFFFFFFF, keep := false } }
    let o : Op := { id := id, gid := g.gid, team := q.team.getD (c.teamOf q.lanes), ctx := c.ctx, ctr := q.ctr, kind := q.kind, parts := q.parts,
                    counted := maskOf q.lanes, point := c.s.pubs, aux := 0 }
    { c.s.putGroup (adv id g) with ops := c.s.ops ++ [o], fresh := id + 1 }

/-- A counted word issues and its run goes on. -/
def Ctx.start (c : Ctx) (q : Request) : State := c.startWith q fun _ g => c.advanceGroup g 1 1

/-- A part that has just issued. -/
def Part.new (lane addr len : Nat) (data : BitVec 128 := 0) (data2 : BitVec 128 := 0) : Part :=
  { lane := lane, addr := addr, addr2 := 0, len := len, data := data, data2 := data2, dst := none, replayed := false, st := .issued }

/-- The checks on the address of an access through translation that are made at issue (R173, checks 1 and 2). -/
def globalFault (a size : Nat) : Option Nat := if 2 ^ 56 ≤ a then some 0x08 else if a % size ≠ 0 then some 0x06 else none
/-- The checks on a scratchpad access of a window of w bytes (R183). -/
def spadFault (w o size : Nat) : Option Nat := if o % size ≠ 0 then some 0x06 else if w < o + size then some 0x07 else none

/-- Go on where no lane fails its checks; else the code of the lowest-numbered failing lane ends the group, the record naming every
failing lane (R173, R183, R284). Each entry is a lane, its address for the record, and its fault. -/
def Ctx.checkLanes (c : Ctx) (acc : Nat) (l : List (Nat × Nat × Option Nat)) (k : State) : State :=
  let bad := l.filterMap fun (i, a, f) => f.map fun x => (i, a, x)
  match bad with
  | [] => k
  | (_, a, code) :: _ => c.s.killGroup c.g.gid code { mask := some (maskOf (bad.map (·.1))), vaddr := a, acc := acc }

/-- Checks in their order, each over every lane: the first that a lane fails decides (R368). -/
def Ctx.checkInTurn (c : Ctx) (acc : Nat) : List (List (Nat × Nat × Option Nat)) → State → State
  | [], k => k
  | l :: rest, k => c.checkLanes acc l (c.checkInTurn acc rest k)

/-- n registers of a lane from register t on, as one number (store data, operands); of what one word wrote to them all is read, or none (R127). -/
def Ctx.regs (c : Ctx) (lane t n : Nat) : BitVec 128 :=
  (List.range n).foldl (fun (x : BitVec 128) i => x ||| ((c.v lane (t + i) 16).setWidth 128 <<< (32 * i))) 0

/-- The address of a global access (R186). -/
def Ctx.address (c : Ctx) (lane base idx : Nat) : Nat := (c.sLane lane base + (c.v lane idx).setWidth 64).toNat
/-- The address of LDA and STA (R190). -/
def Ctx.addressWide (c : Ctx) (lane base idx : Nat) : Nat := (c.sLane lane base + c.v64 lane idx).toNat
/-- The window offset of a scratchpad access (R183). -/
def Ctx.offset (c : Ctx) (lane base idx : Nat) : Nat := (Word.lo (c.sLane lane base) + c.v lane idx).toNat
/-- The window of the team whose tag a lane carries (R226). -/
def Ctx.window (c : Ctx) (lane : Nat) : Nat := ((c.s.team? (c.g.lane lane).team).map (·.window)).getD 0

/-! ## Order among accesses -/


/-- The operation can go on: its group is not saved (R277), or it is a command's. -/
def State.opLive (s : State) (o : Op) : Bool :=
  match s.group? o.gid with
  | some g => g.place != .saved
  | none => true

/-- The parts belong to one lane; a scalar access belongs to every lane of its split. -/
def sameLane (o e : Op) (p q : Part) : Bool :=
  if o.kind.isScalar || e.kind.isScalar then o.counted &&& e.counted != 0 else p.lane == q.lane

/-- An earlier operation's part that a part of a later one of the same group must follow (R180, R185, R234, R332); of accesses of a lane that
were held and are translated again, every earlier one (R174). -/
def State.follows (s : State) (core : Nat) (o e : Op) (p q : Part) : Bool :=
  if o.kind.space = 1 && e.kind.space = 1 then sameLane o e p q && (rangesMeet p.addr p.len q.addr q.len || (p.replayed && q.replayed))
  else if o.kind.space = 2 && e.kind.space = 2 then
    p.lane == q.lane && granuleOf p.addr == granuleOf q.addr
  else if o.kind.afterBank && e.kind.space = 3 then granuleOf p.addr == granuleOf q.addr
  else if o.kind.space = 3 && e.kind.space = 3 then s.bankOf core p.addr == s.bankOf core q.addr
  else false

/-- Words whose lanes wait one after another, in ascending lane order, whatever their granules (R192, R193). -/
def OpKind.lanesInTurn : OpKind → Bool
  | .stsf | .ldf _ _ _ => true
  | _ => false

/-- Within one word: lower lanes go first where the kind says so, of a bank command those in one window (R181, R192, R193, R327). -/
def State.followsLane (s : State) (core : Nat) (o : Op) (p q : Part) : Bool :=
  o.kind.laneOrdered && decide (q.lane < p.lane) &&
    (match o.kind.space with
     | 1 => rangesMeet p.addr p.len q.addr q.len
     | 2 => o.kind.lanesInTurn || granuleOf p.addr == granuleOf q.addr
     | _ => s.bankOf core p.addr == s.bankOf core q.addr && s.partTeam o p.lane == s.partTeam o q.lane)

/-- Stores of one team to overlapping bytes go in the order of issue, whichever group issued them (R180). -/
def State.followsStore (s : State) (o e : Op) (p q : Part) : Bool :=
  o.kind.isStore && e.kind.isStore && s.partTeam o p.lane == s.partTeam e q.lane && rangesMeet p.addr p.len q.addr q.len

/-- A bank applies the whole part of one command before any other's; the parts of a command are those in one team's window (R327, R226). -/
def State.bankBusy (s : State) (core : Nat) (o e : Op) (p : Part) : Bool :=
  let near : Part → Bool := fun q => s.partTeam e q.lane == s.partTeam o p.lane && s.bankOf core q.addr == s.bankOf core p.addr
  o.kind.space = 3 && e.kind.space = 3 && o.id != e.id && e.parts.any (fun q => q.isDone && near q) && e.parts.any (fun q => !q.isDone && near q)

/-- The part must wait for another that is not yet performed. -/
def State.blocked (s : State) (o : Op) (p : Part) : Bool :=
  let core := ((s.group? o.gid).map (·.core)).getD 0
  (s.ops.any fun e =>
    (decide (e.id < o.id) && e.parts.any fun q =>
      !q.isDone && ((e.gid == o.gid && s.follows core o e p q) || s.followsStore o e p q))
    || s.bankBusy core o e p)
  || o.parts.any fun q => !q.isDone && s.followsLane core o p q

/-! ## Completion (R79, R80, R186) -/

/-- Write a counted result to a lane, unless a later write of the register stays (R80). Results for an exited lane are discarded (R53). -/
def Group.deliver (g : Group) (op lane reg : Nat) (x : Word) : Group :=
  g.modLane lane fun l =>
    if l.exited || l.pend.any (fun p => p.op == op && p.reg == reg && p.keep) then l
    else l.landV reg x

/-- Write n registers from register t on. -/
def Group.deliverRegs (g : Group) (op lane t n : Nat) (x : BitVec 128) : Group :=
  (List.range n).foldl (fun g i => g.deliver op lane (t + i) ((x >>> (32 * i)).setWidth 32)) g

/-- Write a counted result to an s register, unless a later write of it stays. -/
def Group.deliverS (g : Group) (op reg : Nat) (x : DWord) : Group :=
  if g.spend.any (fun p => p.op == op && p.reg == reg && p.keep) then g
  else g.landS reg x

/-- The counters of lanes fall by one for an operation that counts there; a counter never falls below 0 (R79). -/
def Group.uncount (g : Group) (ctr : Nat) (lanes : List Nat) : Group :=
  g.modLanes lanes fun l => l.putCounter ctr (l.counter ctr - 1)

/-- The operation completes for lanes that still count: it counts for them no more, and an operation that counts for no lane and has no
part left is over. -/
def State.finish (s : State) (id : Nat) (lanes : List Nat) : State :=
  match s.op? id with
  | none => s
  | some o =>
    let mine := lanes.filter (inMask o.counted)
    let left := maskMinus o.counted (maskOf mine)
    let s : State := s.modGroup o.gid fun g => g.uncount o.ctr mine
    let parts := o.parts.map fun p => if mine.contains p.lane then { p with st := .completed } else p
    if left = 0 then s.dropOp id else s.modOp id fun o => { o with counted := left, parts := parts }

/-- The operation completes for every lane it counts for. -/
def State.finishAll (s : State) (id : Nat) : State :=
  match s.op? id with
  | none => s
  | some o => s.finish id (maskLanes o.counted)

/-- A word that writes a pair of s registers has been performed: what its completion delivers to s register t and the next (R80, R342, R376). -/
def State.outcome (s : State) (id t : Nat) (x y : DWord) : State :=
  s.modOp id fun o => { o with
    parts := [{ Part.new 0 t 8 with st := .done (x.setWidth 128) }, { Part.new 1 (t + 1) 8 with st := .done (y.setWidth 128) }] }
/-- It completes: the pair is written, and it counts for no lane any more. -/
def State.deliverOutcome (s : State) (o : Op) : State :=
  (s.modGroup o.gid fun g => o.parts.foldl (fun (g : Group) p =>
    match p.st with
    | .done x => g.deliverS o.id p.addr (x.setWidth 64)
    | _ => g) g).finishAll o.id

/-- Mark a part performed, with the value that completion delivers. -/
def State.setDone (s : State) (id lane : Nat) (x : BitVec 128) : State := s.modOp id fun o => o.modPart lane fun p => { p with st := .done x }

/-! ## Replayable faults (R174) -/

/-- A replayable fault of a group: its record, whose number the hold keeps (R174, R284). -/
def State.holdGroup (s : State) (gid acc : Nat) (lanes : Mask) (vaddr : Nat) : State :=
  match s.group? gid with
  | none => s
  | some g =>
    let ctx := s.ctxOfGroup g
    let n := ((s.ctx? ctx).map (·.seq)).getD 0
    let s : State := s.event ctx (s.groupEvent g 2 0 acc lanes vaddr)
    s.modGroup gid fun g => { g with holds := g.holds ++ [{ seq := n, lanes := lanes, vaddr := vaddr, acc := acc }] }

end Sys2Proof.Machine
end

