-- ==== Sys2Proof/Machine/Caches.lean ====
section
/-!
DEFINITION. What the caches hold (01_organisation R16, R19; 10_memory R177; 18_log R305; 22_matrix R346): lines that leave L2 and L1, pins, and the checks of a
copy that is read from the log, its repair from a replica, and its loss (18_log R315 to R317).
-/
namespace Sys2Proof.Machine

/-! ## Leaving the caches (R16, R19, R305, R346) -/

/-- A tile fetch has pinned the line (R346). -/
def State.pinned (s : State) (line : Nat) : Bool := s.pins.any fun p => p.line == line
/-- The dirty line that a line of L2 is, if it is one. -/
def State.dirtyLine (s : State) (x : L2Line) : Option Dirty := s.dirty.find? fun d => d.line == x.line && d.version == x.held
/-- A line may leave its slice: no pin holds it, and where it is dirty there is a segment for it (R315, R346). -/
def State.evictable (s : State) (x : L2Line) : Bool := !s.pinned x.line && ((s.dirtyLine x).map fun d => !s.appendBlocked d).getD true
/-- A line leaves its slice; a dirty one of an extent with an armature is appended (R305), one of a fixed extent is written in place, or held in log slack while
it is pending, which nobody sees (R307). -/
def State.evict (s : State) (x : L2Line) : State :=
  let t : State := { s with l2 := s.l2.filter fun y => y != x }
  match s.dirtyLine x with
  | some d => (t.appendLine d).settleSegments
  | none => t

/-- The lines of the slice of a line. -/
def State.sliceOf (s : State) (x : L2Line) : List L2Line := s.l2.filter fun y => y.die == x.die && y.slice == x.slice
/-- Slices that hold more than 2 MiB give lines up, which ones being free (R19; log entry 7, DESIGN CHOICE); while none may leave, they keep them (log entry 86,
DESIGN CHOICE). -/
def State.trimL2 : Nat → State → State
  | 0, s => s
  | n + 1, s =>
    let l := s.l2.dropLast.filter fun x => decide (Config.l2Lines < (s.sliceOf x).length) && s.evictable x
    match l[Config.freeNat s.serial n 48 % l.length]? with
    | none => s
    | some x => State.trimL2 n (s.evict x)

/-- Lines of the L1 part of a core, which is what the scratchpad leaves of its 32 banks of 32 KiB (R16, R177). -/
def State.l1Lines (s : State) (core : Nat) : Nat := (32 - ((s.core? core).map (·.banks)).getD 30) * 256
/-- L1 parts that hold more give lines up, which ones being free (log entry 7, DESIGN CHOICE). -/
def State.trimL1 : Nat → State → State
  | 0, s => s
  | n + 1, s =>
    let l := s.l1.filter fun x => decide (s.l1Lines x.core < (s.l1.filter fun y => y.core == x.core).length)
    match l[Config.freeNat s.serial n 58 % l.length]? with
    | none => s
    | some x => State.trimL1 n { s with l1 := s.l1.filter fun y => y != x }

/-- Every slice and every L1 part keeps to its size. -/
def State.trim (s : State) : State :=
  let s : State := if s.l2.length ≤ Config.l2Lines then s else s.trimL2 s.l2.length
  if s.l1.length ≤ 512 then s else s.trimL1 s.l1.length

/-- A tile fetch can pin a line: other lines of its slice are left that are not pinned (R346). -/
def State.pinRoom (s : State) (line : Nat) : Bool :=
  let same := s.pins.foldl (fun l p => if s.homeDie p.line = s.homeDie line && s.homeSlice p.line == s.homeSlice line then addNew l p.line else l) []
  same.contains line || decide (same.length + 1 < Config.l2Lines)

/-! ## Uncorrectable copies (R316, R317) -/

/-- The copy in the log of a version of a line fails the check of its CRC. -/
def State.fails (s : State) (line : Nat) (v : Version) : Bool :=
  let x := match v with
    | none => some (s.published (line / 2 ^ 19) (line % 2 ^ 19))
    | some (w, t) => s.pendingEntry w t (line / 2 ^ 19) (line % 2 ^ 19)
  x.any fun y => s.copyIs y fun r => !r.intact

/-- A replica peer that can be reached holds that writer slot and mark for a sector, and the bytes of the copy (R317; log entry 87, DESIGN CHOICE). -/
def State.replicaHolds (s : State) (line : Nat) (tag : Nat × BitVec 32) (data : List Byte) : Bool :=
  match s.extent? (line / 2 ^ 19) with
  | none => false
  | some e =>
    s.peers.any fun p => e.shipsTo p && !((s.flow p.dev).unreachable) && p.tags.contains (line, tag.1, tag.2) && p.image.bytes (line * 128) 128 == data
/-- A repair from a replica succeeds: one holds the copy, and the repair's read of it passes its checks (R316, R317; log entry 7, DESIGN CHOICE). -/
def State.repairsFrom (s : State) (line : Nat) (tag : Nat × BitVec 32) (data : List Byte) : Bool :=
  s.replicaHolds line tag data && !Config.freeBit s.serial line 45

/-- What a copy of a sector holds: the bytes of the image that references it, the current one or a cast's. -/
def State.copyBytes (s : State) (ext idx stack sector : Nat) : List Byte :=
  let m := if (s.published ext idx).pointsTo stack sector then s.image
    else ((((s.castsWith ext idx stack sector).head?.bind fun i => (s.extent? ext).bind fun e => e.cast? i)).map (·.image)).getD []
  m.bytes ((ext * 2 ^ 19 + idx) * 128) 128

/-- A record is dead. -/
def State.killRecord (s : State) (stack sector : Nat) : State :=
  { s with segments := s.segments.map fun (g : Segment) =>
      if g.stack = stack && decide (g.base ≤ sector) then { g with recs := modAt g.recs (sector - g.base) fun (r : SumRec) => { r with live := false } } else g }

/-- A copy is lost: every entry that points to it is, and the sector in the current image and in each cast whose root references it (R317). -/
def State.loseCopy (s : State) (ext idx stack sector : Nat) : State :=
  let casts := s.castsWith ext idx stack sector
  let line := ext * 2 ^ 19 + idx
  let lost := if (s.published ext idx).pointsTo stack sector then addNew s.lost line else s.lost
  let s : State := (s.mapCopy stack sector fun x => LeafEntry.lost x.idx).killRecord stack sector
  { s.modExtent ext fun e => { e with casts := e.casts.map fun (c : Cast) => if casts.contains c.idx then { c with lost := addNew c.lost line } else c } with
    lost := lost }

/-- A copy is repaired: what the replica holds is appended anew with the same tags, and every entry that pointed to the copy points to the new one (R317); while
no segment is free for it, it waits (R315). -/
def State.repairCopy (s : State) (e : Extent) (stack sector : Nat) (r : SumRec) (data : List Byte) : State :=
  if s.noSegment e r.wslot then s
  else
    let a := (s.killRecord stack sector).appendRec e r.wslot false { r with data := data, crc := crc32c data }
    a.1.mapCopy stack sector fun x => { x with stack := e.home, sector := a.2 }

/-- The record of an event that no reading group bears: a copy is lost (R317; log entry 87, DESIGN CHOICE). -/
def lossRecord : EventInfo where
  kind := 1
  code := 0x0F
  acc := 0xFF
  core := 0
  grp := 0
  kslot := 0
  launchid := 0
  teamidx := 0
  mask := 0
  vaddr := 0
/-- The context of an extent is told of a loss there. -/
def State.reportLoss (s : State) (ext : Nat) : State :=
  match s.extent? ext with
  | none => s
  | some e => (s.note e.ctx 0x0F 0).event e.ctx lossRecord

/-- An uncorrectable published copy in the log is repaired where a replica holds it, or lost (R317); whether it is lost. -/
def State.badCopy (s : State) (ext idx stack sector : Nat) : State × Bool :=
  match s.extent? ext, s.recAt stack sector with
  | some e, some (_, r) =>
    let data := s.copyBytes ext idx stack sector
    if s.repairsFrom (ext * 2 ^ 19 + idx) (r.wslot, r.mark) data then (s.repairCopy e stack sector r data, false)
    else (s.loseCopy ext idx stack sector, true)
  | _, _ => (s, false)
/-- The same where no group reads it (R317, R322). -/
def State.badCopyAlone (s : State) (ext idx stack sector : Nat) : State :=
  let r := s.badCopy ext idx stack sector
  if r.2 then r.1.reportLoss ext else r.1

/-! ## Fills (R19, R302, R316) -/

/-- The published line can be read: L2 holds it, or nothing is to be read. -/
def State.publishedReady (s : State) (line : Nat) : Bool := s.inL2 line none || s.lost.contains line || (s.extent? (line / 2 ^ 19)).isNone
/-- L2 holds what a slot holds pending of the line. -/
def State.pendingReady (s : State) (line slot : Nat) : Bool := !s.stands slot none line || s.inL2 line (some (slot, none))
/-- A line can be read for a slot. -/
def State.lineReady (s : State) (line slot : Nat) : Bool := s.publishedReady line && s.pendingReady line slot

/-- A published line comes into L2, its index entry into the lookaside cache; a copy that fails its check is repaired or lost (R316, R317). -/
def State.fillPublished (s : State) (line : Nat) : State :=
  if s.publishedReady line then s
  else if s.fails line none then
    let x := s.published (line / 2 ^ 19) (line % 2 ^ 19)
    (s.badCopy (line / 2 ^ 19) (line % 2 ^ 19) x.stack x.sector).1
  else (s.holdLine line none).fillIlc line

/-- One of the copies that a reader under a slot lacks comes into L2: the published one, or the pending one, whose team ends if it fails its check (R317). -/
def State.fill (s : State) (line slot : Nat) : State :=
  if !s.publishedReady line then s.fillPublished line
  else if s.pendingReady line slot then s
  else
    match s.teamOfSlot slot with
    | some t => if s.fails line (some (slot, none)) then s.killTeam t.tid 0x0F else s.holdLine line (some (slot, none))
    | none => s.holdLine line (some (slot, none))

/-- The same where no group reads it: a loss is reported (R317). -/
def State.fillAlone (s : State) (line : Nat) : State :=
  let t := s.fillPublished line
  if t.lost.contains line && !s.lost.contains line then t.reportLoss (line / 2 ^ 19) else t

end Sys2Proof.Machine
end

