-- ==== Sys2Proof/Machine/Perform.lean ====
section
/-!
DEFINITION. How the accesses of the MEM class are performed: the write-combining buffer, L1, the home slices, host and peer memory, the
scratchpad with its full bits, atomic operations (10_memory R177 to R202; 14_ordering R235 to R240).
-/
namespace Sys2Proof.Machine

/-! ## The write-combining buffer (R178, R179, R180) -/

/-- A line stands in its slice as pending under a slot and tag, dirty where its extent is logged (R179, R305, R389). -/
def State.soil (s : State) (slot : Nat) (tag : Option (Nat × Nat)) (line : Nat) : State :=
  let s : State := s.holdLine line (some (slot, tag))
  let d : Dirty := { line := line, slot := slot, mark := s.mark slot + 1, pending := true, tag := tag }
  if (s.loggedExtent line).isSome && !s.dirty.contains d then { s with dirty := s.dirty ++ [d] } else s

/-- Bytes stand pending at their home slices under a slot; each of their lines in a logged extent becomes dirty (R179, R305). Bytes of an
extent that has been destroyed, or that is a replica, are discarded (R293, R298). -/
def State.landBytes (s : State) (slot : Nat) (bytes : Overlay) : State :=
  let b := s.storableBytes bytes
  (sectorsOf b).foldl (fun s line => s.soil slot none line) (s.setPending slot (Overlay.overlay (s.pendingOf slot) b))

/-- The bytes of an entry land under its slot (R179). -/
def State.landEntry (s : State) (e : WcbEntry) : State :=
  let s : State := { s with wcb := s.wcb.filter fun x => x.id != e.id }
  s.landBytes e.slot e.bytes

/-- Land the entries that a test picks, oldest first. -/
def State.landWhere (s : State) (p : WcbEntry → Bool) : State := (sortBy (fun e => e.id) (s.wcb.filter p)).foldl State.landEntry s

/-- Entries of a core that have not drained. -/
def State.wcbHeld (s : State) (core : Nat) : List WcbEntry := s.wcb.filter fun e => e.core == core && !e.drained

/-- The least recently merged of some entries drains. -/
def State.drainOldest (s : State) (es : List WcbEntry) : State :=
  match sortBy (fun e => e.merged) es with
  | [] => s
  | e :: _ => { s with wcb := s.wcb.map fun x => if x.id = e.id then { x with drained := true } else x }

/-- A store enters the buffer: it merges into the entry of its line and slot, or takes a free entry, one draining where none is free; an
entry whose mask is full drains. The core's L1 copy of the line is invalidated (R177 to R179). -/
def State.acceptStore (s : State) (core slot ctx vaddr addr n x : Nat) : State :=
  let line := lineOf addr
  let s : State := { s with l1 := s.l1.filter fun l => !(l.core == core && l.line == line) }
  let mine : WcbEntry → Bool := fun e => e.core == core && e.line == line && e.slot == slot && !e.drained
  let s : State := if s.wcb.any mine then s
    else
      let s : State := if (s.wcbHeld core).length < 4 then s else s.drainOldest (s.wcbHeld core)
      let e : WcbEntry := { id := s.fresh, core := core, line := line, slot := slot, bytes := [], merged := s.tick, drained := false,
                            ctx := ctx, vaddrs := [] }
      { s with fresh := s.fresh + 1, wcb := s.wcb ++ [e] }
  { s with
    wcb := s.wcb.map fun e =>
      if mine e then
        let b := Overlay.overlay e.bytes (cellsOf addr n x)
        { e with bytes := b, merged := s.tick, drained := decide (128 ≤ b.length), vaddrs := addNew e.vaddrs vaddr }
      else e }

/-! ## Reading (R177, R180, R235, R240) -/

/-- The bytes that a path other than LS reads for a team: pending at the home slices over the published image (R233). -/
def State.teamView (s : State) (slot a n : Nat) : Nat := (s.image.overlay (cellsIf (within a n) (s.pendingOf slot))).nat a n

/-- The L1 copy of a line that a load of a team may take: one that the team's own publications have not made stale, nor any publication
more than 4,096 cycles ago (R240; log entry 17, DEDUCED). -/
def State.l1Hit (s : State) (core slot line : Nat) : Option L1Line :=
  s.l1.find? fun l => l.core == core && l.line == line && !l.writers.contains slot &&
    match l.stale with
    | none => true
    | some (_, t) => decide (s.tick ≤ t + 4096)

/-- The L1 copy that a load takes, if it takes one: a copy may have been evicted before (log entry 7, DESIGN CHOICE). -/
def State.l1Served (s : State) (core slot : Nat) (nl1 : Bool) (line site : Nat) : Option L1Line :=
  if nl1 || Config.freeBit s.serial site 9 then none else s.l1Hit core slot line
/-- A load of local memory needs a line that L2 does not hold yet (R240, R316). -/
def State.mustFill (s : State) (core slot : Nat) (nl1 : Bool) (line site : Nat) : Bool :=
  (s.l1Served core slot nl1 line site).isNone && !s.lineReady line slot

/-- What a load of local memory returns, none where a lost sector is read (R300, R317), and the state after it. -/
def State.loadLocal (s : State) (core slot : Nat) (nl1 : Bool) (a n : Nat) (site : Nat) : Option Nat × State :=
  let line := lineOf a
  let s : State := s.landWhere fun e => e.line == line && e.slot == slot
  let own := cellsIf (within a n) (s.pendingOf slot)
  match s.l1Served core slot nl1 line site with
  | some l => (some ((l.bytes.overlay own).nat a n), s)
  | none =>
    if s.lost.contains line && decide (own.length < n) then (none, s)
    else
      let x := (s.image.overlay own).nat a n
      let rest := s.l1.filter fun l => !(l.core == core && l.line == line)
      if nl1 || own != [] then (some x, { s with l1 := rest })
      else
        let l : L1Line := { core := core, line := line, bytes := cellsIf (fun b => lineOf b == line) s.image, stale := none, writers := [] }
        (some x, { s with l1 := rest ++ [l] })

/-! ## Atomic operations (R145, R196, R197) -/

/-- S32 of an element. -/
def signed32 (x : Nat) : Int := (BitVec.ofNat 32 x).toInt

/-- New(m, v) of R196 for one lane; `n` is the new value of CAS, whose comparand is v. -/
def atomNew (op : AtomOp) (size m v n : Nat) : Nat :=
  let w := 2 ^ (8 * size)
  match op with
  | .add => (m + v) % w
  | .smin => if signed32 v < signed32 m then v else m
  | .smax => if signed32 m < signed32 v then v else m
  | .umin => if v < m then v else m
  | .umax => if m < v then v else m
  | .and => Nat.land m v
  | .or => Nat.lor m v
  | .xor => Nat.xor m v
  | .xchg => v
  | .fadd => ((if size = 4 then F32 else F64).add m v 0).1
  | .fmin => (F32.select false false m v).1
  | .fmax => (F32.select true false m v).1
  | .incw => if v ≤ m then 0 else (m + 1) % w
  | .cas => if m = v then n else m

/-- Old values of the lanes and the new element for operations other than FADD: one lane after another. -/
def atomSeq (op : AtomOp) (size : Nat) : Nat → List (Nat × Nat) → List Nat × Nat
  | m, [] => ([], m)
  | m, (v, n) :: rest =>
    let r := atomSeq op size (atomNew op size m v n) rest
    (m :: r.1, r.2)

/-- The old values and the new element of one aggregated operation on m (R197): operands and new values in ascending lane order. -/
def atomAll (op : AtomOp) (size m : Nat) (l : List (Nat × Nat)) : List Nat × Nat :=
  if op = .fadd then
    let t := if size = 4 then F32 else F64
    let vs := l.map (·.1)
    let olds := (List.range vs.length).map fun i => if i = 0 then m else (t.add m (t.fold (vs.take i)).1 0).1
    (olds, (t.add m (t.fold vs).1 0).1)
  else atomSeq op size m l

/-- The one operand that stands for several lanes where the operation allows it (R199; log entry 15, PRESUMED): lanes of INCW and CAS, which no
single operand can stand for, keep an operand each. -/
def atomOperands (op : AtomOp) (size : Nat) (l : List (Nat × Nat)) : List (Nat × Nat) :=
  match op, l with
  | _, [] => []
  | .incw, l => l
  | .cas, l => l
  | .xchg, l => [(l.getLastD (0, 0))]
  | .fadd, l => [(((if size = 4 then F32 else F64).fold (l.map (·.1))).1, 0)]
  | .fmin, (v, _) :: rest => [(rest.foldl (fun a x => (F32.select false false a x.1).1) v, 0)]
  | .fmax, (v, _) :: rest => [(rest.foldl (fun a x => (F32.select true false a x.1).1) v, 0)]
  | op, (v, _) :: rest => [(rest.foldl (fun a x => atomNew op size a x.1 0) v, 0)]

/-- OP of an ATOMIC packet (R387). -/
def atomCode (op : AtomOp) (size : Nat) : Nat :=
  match op with
  | .add => if size = 4 then 0x00 else 0x0A
  | .smin => 0x01
  | .smax => 0x02
  | .umin => 0x03
  | .umax => 0x04
  | .and => 0x05
  | .or => 0x06
  | .xor => 0x07
  | .xchg => if size = 4 then 0x08 else 0x09
  | .fadd => if size = 4 then 0x0B else 0x0E
  | .fmin => 0x0C
  | .fmax => 0x0D
  | .incw => 0x0F
  | .cas => if size = 4 then 0x10 else 0x11

/-- The operation and element size of an OP code. -/
def atomOfCode (c : Nat) : AtomOp × Nat :=
  match c with
  | 0x00 => (.add, 4) | 0x01 => (.smin, 4) | 0x02 => (.smax, 4) | 0x03 => (.umin, 4) | 0x04 => (.umax, 4) | 0x05 => (.and, 4)
  | 0x06 => (.or, 4) | 0x07 => (.xor, 4) | 0x08 => (.xchg, 4) | 0x09 => (.xchg, 8) | 0x0A => (.add, 8) | 0x0B => (.fadd, 4)
  | 0x0C => (.fmin, 4) | 0x0D => (.fmax, 4) | 0x0E => (.fadd, 8) | 0x0F => (.incw, 4) | 0x10 => (.cas, 4) | _ => (.cas, 8)

/-- An atomic on an element of local memory for a slot: the team's stores to the line land first, the operation sees the team's view, and the
element is published with every byte that the slot holds pending in its sector; L1 copies of the issuing core go (R177, R198). -/
def State.atomLocal (s : State) (slot a size : Nat) (f : Nat → Nat) : State :=
  let line := lineOf a
  let s : State := s.landWhere fun e => e.line == line && e.slot == slot
  let m := s.teamView slot a size
  s.publishPart slot (fun b => lineOf b == line) (cellsOf a size (f m))

/-! ## The scratchpad (R185, R192, R193) -/

/-- Read a team's window. -/
def Team.read (t : Team) (o n : Nat) : Nat := t.spad.nat o n
/-- Write a team's window. -/
def Team.write (t : Team) (o n x : Nat) : Team := { t with spad := t.spad.putNat o n x }
/-- The granule's full bit. -/
def Team.isFull (t : Team) (g : Nat) : Bool := t.full.contains g
/-- Set or clear it. -/
def Team.setFull (t : Team) (g : Nat) (b : Bool) : Team :=
  { t with full := if b then insertNat g t.full else t.full.filter fun x => x != g }

/-- A lane's LDF or STSF can be performed: its granule is as it needs it, and nothing it follows is outstanding. -/
def State.fullReady (s : State) (o : Op) (p : Part) : Bool :=
  !p.isDone && !s.blocked o p &&
    match s.team? (s.partTeam o p.lane) with
    | none => false
    | some t =>
      match o.kind with
      | .ldf _ _ _ => t.isFull (granuleOf p.addr)
      | .stsf => !t.isFull (granuleOf p.addr)
      | _ => false

/-- Perform a lane's LDF: the read, the clearing, and the lane goes on, in one step (R192). -/
def State.performLdf (s : State) (o : Op) (p : Part) (size : Nat) (clr : Bool) (t : Nat) : State :=
  let tid := s.partTeam o p.lane
  match s.team? tid with
  | none => s
  | some tm =>
    let x := tm.read p.addr size
    let s : State := if clr then s.modTeam tid fun t => t.setFull (granuleOf p.addr) false else s
    let s : State := s.modGroup o.gid fun g => g.deliverRegs o.id p.lane t ((size + 3) / 4) (BitVec.ofNat 128 x)
    let s : State := s.finish o.id [p.lane]
    s.modGroup o.gid fun g => (g.release (fun r => r.wait == .ldf o.id) fun _ => [p.lane]).settle s.tick

/-- Perform a lane's STSF: the quad and the full bit in one step (R193). -/
def State.performStsf (s : State) (o : Op) (p : Part) : State :=
  (s.modTeam (s.partTeam o p.lane) fun t => (t.write p.addr 16 p.data.toNat).setFull (granuleOf p.addr) true).finish o.id [p.lane]

/-- Perform an LDF or STSF. -/
def State.performFull (s : State) (o : Op) (p : Part) : State :=
  match o.kind with
  | .ldf size clr t => s.performLdf o p size clr t
  | .stsf => s.performStsf o p
  | _ => s

/-- The lanes' LDF and STSF that can be performed now. -/
def State.fullWaiters (s : State) : List (Op × Part) :=
  s.ops.flatMap fun o => (o.parts.filter fun p => s.fullReady o p).map fun p => (o, p)

/-- Waiters on full bits that a change lets proceed are performed in its step, in an order that is not specified between groups (R192,
R193, R330, R337). -/
def State.settleFull : Nat → State → State
  | 0, s => s
  | n + 1, s =>
    let ws := s.fullWaiters
    match ws[Config.freeNat s.serial n 10 % ws.length]? with
    | none => s
    | some (o, p) => State.settleFull n (s.performFull o p)

/-- Room for every waiter of the machine. -/
def State.settleSpad (s : State) : State := State.settleFull ((s.ops.map fun o => o.parts.length).sum) s

/-- The parts that an ATOMS takes with that of a lane: those of the word in the same team's window on its element (R200, R197). -/
def State.aggregateS (s : State) (o : Op) (p : Part) : List Part :=
  o.parts.filter fun q => q.addr == p.addr && !q.isDone && s.partTeam o q.lane == s.partTeam o p.lane

/-- An aggregated ATOMS on the element of a lane, once every lane on it may go (R200, R197, R185): the lanes with their old values, and the state with
the element written. -/
def State.updateAtomS (s : State) (o : Op) (p : Part) (op : AtomOp) : Option (List (Nat × Nat) × State) :=
  let ps := s.aggregateS o p
  if ps.any (s.blocked o) then none
  else
    (s.team? (s.partTeam o p.lane)).map fun tm =>
      let r := atomAll op 4 (tm.read p.addr 4) (ps.map fun q => (q.data.toNat, q.data2.toNat))
      ((ps.map (·.lane)).zip r.1, s.modTeam tm.tid fun t => t.write p.addr 4 r.2)

/-- It is performed and completes. -/
def State.performAtomS (s : State) (o : Op) (p : Part) (op : AtomOp) (t : Nat) : State :=
  match s.updateAtomS o p op with
  | none => s
  | some (olds, s) =>
    let s : State := s.modGroup o.gid fun g => olds.foldl (fun g (l, x) => g.deliver o.id l t (BitVec.ofNat 32 x)) g
    s.finish o.id (olds.map (·.1))

/-- A lane's scratchpad access is performed and completes: what the earlier accesses that it follows allow (R185, R191 to R194, R200). One that
was performed before completes with what it read (R80). -/
def State.performSpad (s : State) (o : Op) (p : Part) : State :=
  if p.isDone then
    match p.st, o.kind with
    | .done x, .lds size _ t =>
      (s.modGroup o.gid fun g => g.deliverRegs o.id p.lane t ((size + 3) / 4) (BitVec.ofNat 128 (o.kind.result x.toNat))).finish o.id [p.lane]
    | .done x, .atomS _ t => (s.modGroup o.gid fun g => g.deliver o.id p.lane t (x.setWidth 32)).finish o.id [p.lane]
    | _, _ => s
  else if s.blocked o p then s
  else
    let tid := s.partTeam o p.lane
    match s.team? tid, o.kind with
    | some tm, .lds size _ t =>
      let v := o.kind.result (tm.read p.addr size)
      ((s.modGroup o.gid fun g => g.deliverRegs o.id p.lane t ((size + 3) / 4) (BitVec.ofNat 128 v)).finish o.id [p.lane]).settleSpad
    | some _, .sts size => ((s.modTeam tid fun t => t.write p.addr size (p.data.toNat % 2 ^ (8 * size))).finish o.id [p.lane]).settleSpad
    | some _, .sete => ((s.modTeam tid fun t => t.setFull (granuleOf p.addr) false).finish o.id [p.lane]).settleSpad
    | some _, .atomS op t => (s.performAtomS o p op t).settleSpad
    | some _, .stsf => if s.fullReady o p then (s.performStsf o p).settleSpad else s
    | some _, .ldf size clr t => if s.fullReady o p then (s.performLdf o p size clr t).settleSpad else s
    | _, _ => s

/-! ## Loads, stores and prefetches through translation -/

/-- Parts of a lane to a peer go out in program order: an earlier part of the lane that is not yet translated, or that goes to the same
device and has not gone, holds it (R392). -/
def State.peerBlocked (s : State) (o : Op) (p : Part) (dev : Nat) : Bool :=
  s.ops.any fun e => decide (e.id < o.id) && e.gid == o.gid && e.kind.space == 1 && e.parts.any fun q =>
    sameLane o e p q &&
      match q.st with
      | .issued => true
      | .held _ => true
      | .ready f => f.tgt == 2 && f.dev == dev
      | _ => false

/-- The result of a load is written and the access completes (R187, R189). -/
def State.deliverLoad (s : State) (o : Op) (p : Part) (x : Nat) : State :=
  match o.kind with
  | .load size _ t =>
    (s.modGroup o.gid fun g => g.deliverRegs o.id p.lane t ((size + 3) / 4) (BitVec.ofNat 128 (o.kind.result x))).finish o.id [p.lane]
  | .loadScalar t => (s.modGroup o.gid fun g => g.deliverS o.id t (BitVec.ofNat 64 x)).finishAll o.id
  | _ => s

/-- A load from where its translation points (R177, R182, R187), once L2 holds the line (R316). A peer load sends its requests and waits. -/
def State.performLoad (s : State) (o : Op) (p : Part) (f : Phys) : State :=
  match s.group? o.gid with
  | none => s
  | some g =>
    let slot := ((s.team? (s.partTeam o p.lane)).map Team.slot).getD Config.writerSlots
    if f.tgt = 0 && s.mustFill g.core slot f.nl1 (lineOf f.addr) (o.id * 64 + p.lane) then s.fill (lineOf f.addr) slot
    else if f.tgt = 0 then
      let (x, s) := s.loadLocal g.core slot f.nl1 f.addr p.len (o.id * 64 + p.lane)
      match x with
      | some x => s.deliverLoad o p x
      | none => s.killGroup o.gid 0x0F { vaddr := p.addr, acc := 0 }
    else if f.tgt = 1 then s.deliverLoad o p (s.hostMem.nat f.addr p.len)
    else if s.peerBlocked o p f.dev then s
    else
      let s : State := (pieces f.addr p.len).foldl (fun (s : State) (k, _) =>
        s.request (s.packet f.dev kLdreq slot 0 (f.addr + k) []) kLdrsp o.id p.lane k) s
      s.modOp o.id fun o => o.modPart p.lane fun p => { p with st := .remote f ((pieces f.addr p.len).map (·.1)) 0 }

/-- A store to where its translation points (R178, R182, R251). -/
def State.performStore (s : State) (o : Op) (p : Part) (f : Phys) : State :=
  match s.group? o.gid with
  | none => s
  | some g =>
    let tid := s.partTeam o p.lane
    let slot := ((s.team? tid).map Team.slot).getD Config.writerSlots
    let x := p.data.toNat % 2 ^ (8 * p.len)
    let done : State → State := fun s => if o.kind.isScalar then s.finishAll o.id else s.finish o.id [p.lane]
    if f.tgt = 0 then done (s.acceptStore g.core slot o.ctx p.addr f.addr p.len x)
    else if f.tgt = 1 then done { s with hostMem := s.hostMem.putNat f.addr p.len x }
    else if s.peerBlocked o p f.dev then s
    else
      done ((pieces f.addr p.len).foldl (fun (s : State) (k, n) =>
        let s : State := s.post (s.packet f.dev kStore slot 0 (f.addr + k) (storeBeats (f.addr + k) n (x / 2 ^ (8 * k))))
        { s with awaiting := s.awaiting ++ [{ gid := o.gid, op := o.id, team := tid, dev := f.dev, addr := f.addr + k, kind := .sent }] }) s)

/-- A prefetch of a translated line: it is brought into L2, and PREF.L1 allocates the published image in L1 (R201, R177). Where the copy fails its check it is
dropped, since a prefetch never faults and never reports (log entry 87, DESIGN CHOICE). -/
def State.performPrefetch (s : State) (o : Op) (p : Part) (f : Phys) (l1 : Bool) : State :=
  let core := ((s.group? o.gid).map (·.core)).getD 0
  let line := lineOf f.addr
  let have_ := s.l1.any fun l => l.core == core && l.line == line
  let placed := f.tgt = 0 && !s.lost.contains line && (s.publishedReady line || !s.fails line none)
  let s : State := if placed then (s.holdLine line none).fillIlc line else s
  let s : State := if placed && l1 && !f.nl1 && !have_ then
      { s with l1 := s.l1 ++ [{ core := core, line := line, bytes := cellsIf (fun b => lineOf b == line) s.image, stale := none, writers := [] }] }
    else s
  s.finish o.id [p.lane]

/-- A store is complete: for its lane, or for the split (R178, R182, R189). -/
def State.storeOver (s : State) (o : Op) (p : Part) : State := if o.kind.isScalar then s.finishAll o.id else s.finish o.id [p.lane]

/-- The pieces of an access to host memory that are left, read into what the others brought (R182). -/
def State.hostRead (s : State) (f : Phys) (len : Nat) (left : List Nat) (got : BitVec 128) : BitVec 128 :=
  ((pieces f.addr len).filter fun x => left.contains x.1).foldl (fun (y : BitVec 128) x =>
    y ||| BitVec.ofNat 128 (s.hostMem.nat (f.addr + x.1) x.2 * 256 ^ x.1)) got

/-- The pieces of a store to host memory that are left are written (R182). -/
def State.hostPut (s : State) (f : Phys) (len x : Nat) (left : List Nat) : State :=
  ((pieces f.addr len).filter fun y => left.contains y.1).foldl (fun (s : State) y =>
    { s with hostMem := s.hostMem.putNat (f.addr + y.1) y.2 (x / 256 ^ y.1 % 256 ^ y.2) }) s

/-- The part of an operation on the LS path is performed once it is translated and what it follows is performed. One to host memory of which
pieces have been performed before goes on with the others (R182, R254). -/
def State.performLs (s : State) (o : Op) (p : Part) : State :=
  match p.st with
  | .remote f left got =>
    if f.tgt ≠ 1 then s
    else
      match o.kind with
      | .load _ _ _ | .loadScalar _ => s.deliverLoad o p (s.hostRead f p.len left got).toNat
      | .store _ | .storeScalar => (s.hostPut f p.len p.data.toNat left).storeOver o p
      | _ => s
  | .ready f =>
    if s.blocked o p then s
    else
      match o.kind with
      | .load _ _ _ | .loadScalar _ => s.performLoad o p f
      | .store _ | .storeScalar => s.performStore o p f
      | .prefetch l1 => s.performPrefetch o p f l1
      | _ => s
  | .done x =>
    match o.kind with
    | .load _ _ _ | .loadScalar _ => s.deliverLoad o p x.toNat
    | .atomic _ size t =>
      (s.modGroup o.gid fun g => g.deliverRegs o.id p.lane t ((size + 3) / 4) x).finish o.id [p.lane]
    | .prefetch _ => s.finish o.id [p.lane]
    | _ => s
  | _ => s

end Sys2Proof.Machine
end

