-- ==== Sys2Proof/Machine/Banks.lean ====
section
/-!
DEFINITION. Bank commands (20_banks R324 to R337): issue, application to an element, full bits, completion.
-/
namespace Sys2Proof.Machine

/-- e(x) of R329: 1 where x is N, else 2^(x − N). -/
def bsmxScale (x n : Nat) : Nat :=
  if (F32.value x).eqv (F32.value n) then 0x3F800000 else (F32.exp2 (F32.sub x n 0).1).1

/-- The merge of R329: the element pair (M, S) and the operand pair (m, s), each with its first half low. -/
def bsmxNew (e v : Nat) : Nat :=
  let bigM := e % 2 ^ 32
  let bigS := e / 2 ^ 32 % 2 ^ 32
  let m := v % 2 ^ 32
  let w := v / 2 ^ 32 % 2 ^ 32
  if [bigM, bigS, m, w].any fun x => (F32.value x).isNan then 0x7FC00000 + 0x7FC00000 * 2 ^ 32
  else
    let n := (F32.select true false bigM m).1
    let sum := if (F32.value bigM).eqv (F32.value n) then (F32.fma w (bsmxScale m n) bigS false 0).1
      else (F32.fma bigS (bsmxScale bigM n) w false 0).1
    n + sum * 2 ^ 32

/-- New(E, v) of R328 and R329. -/
def bankNew (op : BankOp) (e v : Nat) : Nat :=
  match op with
  | .add => (F32.add e v 0).1
  | .mul => (F32.mul e v 0).1
  | .max => (F32.select true false e v).1
  | .min => (F32.select false false e v).1
  | .iadd => (e + v) % 2 ^ 32
  | .imax => if signed32 e < signed32 v then v else e
  | .set => v
  | .smx => bsmxNew e v

/-- Bytes of an element (R326). -/
def BankOp.size : BankOp → Nat
  | .smx => 8
  | _ => 4

/-- A bank command: FB = 3 is refused with 0x01, then each lane's address is checked (R326). -/
def State.bankWord (s : State) (o : ArgsM) (op : BankOp) : Host.Outcome State Fault Refusal :=
  s.word (some o.g) (Uses.atom o (op.size / 4) 0) fun c =>
    c.counted o.ctr c.issue <|
    let fb := field (c.sv c.issue o.base).toNat 32 2
    let as := c.issue.map fun l => (l, c.offset l o.base o.idx)
    if c.issue != [] && fb == 3 then s.killGroup c.g.gid 0x01
    else
      c.checkLanes 9 (as.map fun (l, a) => (l, 0, spadFault (c.window l) a op.size)) <|
      c.start { kind := .bank op fb, ctr := o.ctr, lanes := c.issue,
                parts := as.map fun (l, a) => Part.new l a op.size (c.regs l o.t (op.size / 4)) }

/-- A lane's application: one read-modify-write; with the last one to its granule the full bit takes the value of FB; with the last one
of all the command completes for every lane; where the parts that were left go with a killed team, it completes without them (R327, R330, R331). -/
def State.performBank (s : State) (o : Op) (p : Part) (op : BankOp) (fb : Nat) : State :=
  if p.isDone then (if o.parts.all Part.isDone then s.finishAll o.id else s)
  else if s.blocked o p then s
  else
    let tid := s.partTeam o p.lane
    let s : State := s.modTeam tid fun t => t.write p.addr op.size (bankNew op (t.read p.addr op.size) p.data.toNat)
    let s : State := s.setDone o.id p.lane 0
    let more := o.parts.any fun q =>
      q.lane != p.lane && !q.isDone && granuleOf q.addr == granuleOf p.addr && s.partTeam o q.lane == tid
    let s : State := if fb = 0 || more then s else (s.modTeam tid fun t => t.setFull (granuleOf p.addr) (fb == 1)).settleSpad
    if o.parts.all fun q => q.lane == p.lane || q.isDone then s.finishAll o.id else s

/-- BADD (R328). -/
def execBadd (o : ArgsM) (s : State) : Host.Outcome State Fault Refusal := s.bankWord o .add

/-- BMAX (R328). -/
def execBmax (o : ArgsM) (s : State) : Host.Outcome State Fault Refusal := s.bankWord o .max

/-- BMIN (R328). -/
def execBmin (o : ArgsM) (s : State) : Host.Outcome State Fault Refusal := s.bankWord o .min

/-- BMUL (R328). -/
def execBmul (o : ArgsM) (s : State) : Host.Outcome State Fault Refusal := s.bankWord o .mul

/-- BSMX (R329). -/
def execBsmx (o : ArgsM) (s : State) : Host.Outcome State Fault Refusal := s.bankWord o .smx

/-- BIADD (R328). -/
def execBiadd (o : ArgsM) (s : State) : Host.Outcome State Fault Refusal := s.bankWord o .iadd

/-- BIMAX (R328). -/
def execBimax (o : ArgsM) (s : State) : Host.Outcome State Fault Refusal := s.bankWord o .imax

/-- BSET (R328). -/
def execBset (o : ArgsM) (s : State) : Host.Outcome State Fault Refusal := s.bankWord o .set

end Sys2Proof.Machine
end

