-- ==== Sys2Proof/Machine/Matrix.lean ====
section
/-!
DEFINITION. The matrix engine (22_matrix R338 to R363; 06_numbers R118, R119): reservations, tile fetch, gangs, the rendezvous latch,
MMA and MMAQ.
-/
namespace Sys2Proof.Machine

/-! ## Reservation records (R341) -/

/-- FMT. -/
def recFmt (r : BitVec 128) : Nat := field r.toNat 0 4
/-- ROLE. -/
def recRole (r : BitVec 128) : Nat := field r.toNat 6 1
/-- LEN in bytes. -/
def recLen (r : BitVec 128) : Nat := 256 * field r.toNat 32 11
/-- BLK in elements. -/
def recBlk (r : BitVec 128) : Nat := 32 * 2 ^ field r.toNat 4 2
/-- NBLK. -/
def recNblk (r : BitVec 128) : Nat := field r.toNat 100 12
/-- SCOFF. -/
def recScoff (r : BitVec 128) : Nat := field r.toNat 64 18
/-- ZPOFF. -/
def recZpoff (r : BitVec 128) : Nat := field r.toNat 82 18
/-- XV. -/
def recXv (r : BitVec 128) : BitVec 16 := BitVec.ofNat 16 (field r.toNat 16 16)
/-- Quantized formats. -/
def fmtQuant (f : Nat) : Bool := f == 9 || f == 10

/-- The record keeps R341, and names no Q format as an A operand (R342). -/
def recordOk (r : BitVec 128) : Bool :=
  let x := r.toNat
  let q := fmtQuant (recFmt r)
  field x 112 16 == 0 && field x 43 21 == 0 && field x 7 9 == 0 && decide (recFmt r ≤ 10)
    && decide (1 ≤ field x 32 11) && decide (field x 32 11 ≤ 1024)
    && (if q then decide (1 ≤ recNblk r) && recScoff r % 2 == 0 && decide (field x 4 2 ≤ 2)
        else recNblk r == 0 && recScoff r == 0 && recZpoff r == 0 && field x 4 2 == 0)
    && (recFmt r == 6 || field x 16 16 == 0) && !(recRole r == 0 && q)

/-- Bits of an element. -/
def fmtBits (f : Nat) : Nat := if f = 0 then 64 else if f = 1 then 32 else if f ≤ 3 then 16 else if f = 6 || f = 8 || f = 10 then 4 else 8
/-- Depth of a word for a B format (R341). -/
def fmtDepth (f : Nat) : Nat := if f = 0 then 4 else if f = 1 then 8 else if f ≤ 3 then 16 else if f = 6 || f = 8 || f = 10 then 64 else 32
/-- The unit bit of R27 that a format needs. -/
def fmtUnit (f : Nat) : Nat := if f ≤ 1 then 2 else 3
/-- Accumulator registers of a word (R352). -/
def accRegs (f : Nat) : Nat := if f = 0 then 32 else 16

/-- A team's reservation. -/
def Team.reservation? (t : Team) (n : Nat) : Option Reservation := t.reservations.find? fun r => r.num == n
/-- The reservations of a core: those of its resident teams. -/
def State.reservationsOn (s : State) (core : Nat) : List Reservation :=
  (s.teams.filter fun t => t.core == core && t.state == .resident).flatMap (·.reservations)
/-- Bases at which a run of n bytes is free (R342). -/
def State.freeRuns (s : State) (core n : Nat) : List Nat :=
  let used := s.reservationsOn core
  ((List.range (Config.operandBuffer / 256)).map (256 * ·)).filter fun b =>
    decide (b + n ≤ Config.operandBuffer) && used.all fun r => decide (b + n ≤ r.base) || decide (r.base + r.len ≤ b)

/-! ## Issue -/

/-- The core has a matrix unit (R338). -/
def State.hasMatrix (s : State) (core : Nat) : Bool := s.hasUnit core 2 || s.hasUnit core 3

/-- An MMX word: it counts for every non-exited lane and acts for the owner of the group's slot (R338, R228). -/
def Ctx.startMx (c : Ctx) (kind : OpKind) (ctr : Nat) (parts : List Part) (regs sregs : List Nat) (f : Group → Group := id) : State :=
  let lanes := c.g.alive
  c.startWith { kind := kind, ctr := ctr, lanes := lanes, parts := parts, mx := true, team := some c.g.owner,
                dests := lanes.flatMap fun l => regs.map fun r => (l, r), sdests := sregs }
    fun _ g => c.advanceGroup (f g) 1 1

/-- It is a GANG. -/
def Op.isGang (o : Op) : Bool :=
  match o.kind with
  | .gang _ => true
  | _ => false

/-- SIZE and MEMBERS that a GANG of that value gives %gang (R348). -/
def gangValue (v : DWord) : DWord :=
  let n := field v.toNat 36 3
  if n = 0 then 0 else BitVec.ofNat 64 (n * 2 ^ 36 + v.toNat % 2 ^ (6 * n))

/-- The gang that the latest GANG of a group in program order names, which need not have completed (R349). -/
def State.namedGang (s : State) (g : Group) : DWord :=
  match (s.ops.filter fun o => o.gid == g.gid && o.isGang).getLast? with
  | some o => (match o.kind with | .gang v => gangValue v | _ => g.gang)
  | none => g.gang

/-- GANG: the words that follow it count anew; the gang it leaves is remembered (R348 to R350). -/
def execGang (o : ArgsMB) (s : State) : Host.Outcome State Fault Refusal :=
  s.joined none { sr := [o.base] } fun c =>
    c.counted o.ctr c.g.alive <|
    let old := s.namedGang c.g
    c.startMx (.gang (c.s1 o.base)) o.ctr [] [] [] fun g =>
      { g with mmaCount := 0, former := if field old.toNat 36 3 = 0 then g.former else (old, g.mmaCount) :: g.former }

/-- OBRES (R342). -/
def execObres (o : ArgsMTB) (s : State) : Host.Outcome State Fault Refusal :=
  s.joined none { sr := pairOf o.base, sw := pairOf o.t } fun c =>
    c.counted o.ctr c.g.alive <|
    c.startMx (.obres (c.s1 (o.base + 1) 1 ++ c.s1 o.base) o.t) o.ctr [] [] (pairOf o.t)

/-- OBREL: a reservation that the team does not hold ends the group (R343). -/
def execObrel (o : ArgsMB) (s : State) : Host.Outcome State Fault Refusal :=
  s.joined none { sr := [o.base] } fun c =>
    c.counted o.ctr c.g.alive <|
    let n := field (c.s1 o.base).toNat 0 4
    if ((s.team? c.g.owner).bind fun t => t.reservation? n).isNone then s.killGroup c.g.gid 0x0E
    else c.startMx (.obrel n) o.ctr [] [] []

/-- The pieces of a tile fetch, one for each granule: source and place in the range (R345). -/
def tileParts (va st rows rb doff : Nat) : List Part :=
  let l := (List.range rows).flatMap fun i =>
    (List.range (rb / 16)).map fun k => ((va + i * st + 16 * k) % 2 ^ 64, doff + i * rb + 16 * k)
  l.zipIdx.map fun ((a, d), i) => { Part.new i a 16 with addr2 := d }

/-- TFETCH (R344, R345). -/
def execTfetch (o : ArgsM) (s : State) : Host.Outcome State Fault Refusal :=
  s.joined none { sr := [o.t, o.base, o.idx] } fun c =>
    c.counted o.ctr c.g.alive <|
    let va := (c.s1 o.t).toNat
    let k := (c.s1 o.base 1).toNat
    let st := (c.s1 o.idx 2).toNat
    let rb := 32 * field k 36 8
    let rows := field k 24 12
    let doff := field k 6 18
    let res := field k 0 4
    if va % 32 ≠ 0 || st % 32 ≠ 0 then s.killGroup c.g.gid 0x06 { vaddr := va, acc := 5 }
    else
      match (s.team? c.g.owner).bind fun t => t.reservation? res with
      | none => s.killGroup c.g.gid 0x0E
      | some r =>
        if rb = 0 || doff % 32 ≠ 0 || r.len < doff + rows * rb then s.killGroup c.g.gid 0x0E
        else c.startMx (.tfetch res) o.ctr (tileParts va st rows rb doff) [] []

/-- The format of the B range that a control word names, as it stands; where none is held, one of 16 registers or one of 32, which is a free choice (R356;
log entry 77, DESIGN CHOICE). -/
def State.bFormat (s : State) (tid control : Nat) : Nat :=
  (((s.team? tid).bind fun t => t.reservation? (field control 4 4)).map fun r => recFmt r.record).getD
    (if Config.freeBit s.serial tid 44 then 0 else 1)

/-- The matrix word whose result a lane's accumulator register is to hold, where the register is pending on one (R356). -/
def State.producer (s : State) (l : Lane) (r : Nat) : Option Nat :=
  (l.pend.filter fun p => p.reg == r && p.mx && (s.op? p.op).isSome).getLast?.map (·.op)

/-- The accumulator registers of a matrix word that become pending on it, and those that it reads at issue (R352, R356): 16 for a quantized word; as the B range's
format has it for another; and where no such range is held at issue, all 32 are read, since the range may hold F64 when the word is released. -/
def State.accumulators (s : State) (tid : Nat) (quant : Bool) (t control : Nat) : List Nat × List Nat :=
  if quant then (regsFrom t 16, regsFrom t 16)
  else
    let n := accRegs (s.bFormat tid control)
    (regsFrom t n, regsFrom t (if ((s.team? tid).bind fun tm => tm.reservation? (field control 4 4)).isSome then n else 32))

/-- A matrix multiply issues: it reads its accumulators, but for those that wait for an earlier matrix word (R356), and goes to the latch
(R349). -/
def State.mmaWord (s : State) (o : ArgsMTB) (quant : Bool) : Host.Outcome State Fault Refusal :=
  s.joined none { sr := [o.base] } fun c =>
    c.counted o.ctr c.g.alive <|
    let control := c.s1 o.base
    let (dests, reads) := s.accumulators c.g.owner quant o.t control.toNat
    let regs := dests.filter (· < c.g.alloc)
    if s.checkedOf c.g && c.violates { vr := regs, mx := true } then s.killGroup c.g.gid 0x04
    else
      let parts := c.g.alive.flatMap fun l => (reads.filter (· < c.g.alloc)).map fun r =>
        let from_ := s.producer (c.g.lane l) r
        { Part.new l r (if from_.isSome then 1 else 0) ((c.v l r 3).setWidth 128) (BitVec.ofNat 128 (from_.getD 0)) with addr2 := o.t }
      c.startMx (.mma quant o.t control (c.g.mmaCount + 1)) o.ctr parts regs [] fun g => { g with mmaCount := g.mmaCount + 1 }

/-- MMA (R353). -/
def execMma (o : ArgsMTB) (s : State) : Host.Outcome State Fault Refusal := s.mmaWord o false

/-- MMAQ (R354). -/
def execMmaq (o : ArgsMTB) (s : State) : Host.Outcome State Fault Refusal := s.mmaWord o true

/-- A clear of n accumulator registers (R357). -/
def State.acczWord (s : State) (o : ArgsMT) (n : Nat) : Host.Outcome State Fault Refusal :=
  s.joined none {} fun c =>
    c.counted o.ctr c.g.alive <|
    let regs := regsFrom o.t n
    if s.checkedOf c.g && c.violates { vr := regs, vw := regs, mx := true } then s.killGroup c.g.gid 0x04
    else c.startMx (.accz o.t n) o.ctr [] regs []

/-- ACCZ (R357). -/
def execAccz (o : ArgsMT) (s : State) : Host.Outcome State Fault Refusal := s.acczWord o 16

/-- ACCZ.D (R357). -/
def execAcczD (o : ArgsMT) (s : State) : Host.Outcome State Fault Refusal := s.acczWord o 32

/-! ## Completion of GANG, OBRES, OBREL, ACCZ -/

/-- The operation is a matrix word of the kinds that write accumulators. -/
def Op.isAcc (o : Op) : Bool :=
  match o.kind with
  | .mma _ _ _ _ => true
  | .accz _ _ => true
  | _ => false
/-- It is an MMA or MMAQ. -/
def Op.isMma (o : Op) : Bool :=
  match o.kind with
  | .mma _ _ _ _ => true
  | _ => false
/-- It is a TFETCH. -/
def Op.isTileFetch (o : Op) : Bool :=
  match o.kind with
  | .tfetch _ => true
  | _ => false
/-- Earlier operations of the same group. -/
def State.earlier (s : State) (o : Op) : List Op := s.ops.filter fun e => e.gid == o.gid && decide (e.id < o.id)
/-- Operations of a word naming a reservation of a team (R343). -/
def Op.names (o : Op) (n : Nat) : Bool :=
  match o.kind with
  | .tfetch r => r == n
  | .mma _ _ k _ => field k.toNat 0 4 == n || field k.toNat 4 4 == n
  | _ => false

/-- The member slots of a gang value. -/
def gangSlots (x : Nat) : List Nat := (List.range (field x 36 3)).map fun i => field x (6 * i) 6
/-- The matrix words of a group that chain on a register of a lane take the result of the word that they wait for (R356). -/
def State.forward (s : State) (gid id lane reg x : Nat) : State :=
  { s with ops := s.ops.map fun (o : Op) =>
      if o.gid = gid && o.isMma then
        { o with parts := o.parts.map fun (p : Part) =>
            if p.lane = lane && p.addr == reg && p.len == 1 && p.data2.toNat == id then { p with len := 0, data := BitVec.ofNat 128 x } else p }
      else o }

/-- The group of a team that a member field names: the one that stands in that slot, or stood there when it was spilled or saved. -/
def State.memberIn (s : State) (owner slot : Nat) : Option Group :=
  s.groups.find? fun g => g.owner == owner && g.lastSlot == slot && !g.ended
/-- A list of numbers without repeats. -/
def distinct : List Nat → Bool
  | [] => true
  | x :: xs => !xs.contains x && distinct xs

/-- GANG takes effect once every earlier MMA and MMAQ of its group has completed (R348). -/
def State.performGang (s : State) (o : Op) (v : DWord) : State :=
  if (s.earlier o).any fun e => e.isMma || e.isGang then s
  else
    match s.group? o.gid with
    | none => s
    | some g =>
      let x := v.toNat
      let n := field x 36 3
      let slots := gangSlots x
      if n = 0 then (s.putGroup { g with gang := 0 }).finishAll o.id
      else if n = 1 || n = 7 || !distinct slots || !slots.contains g.slot
          || !(slots.all fun k => ((s.memberIn g.owner k).map fun h => h.isResident).getD false) then
        s.killGroup o.gid 0x09
      else
        let pos := slots.findIdx (· == g.slot)
        (s.putGroup { g with gang := BitVec.ofNat 64 (pos * 2 ^ 39 + n * 2 ^ 36 + x % 2 ^ (6 * n)) }).finishAll o.id

/-- OBRES takes effect (R342); where more than one run is free, which one is taken is a free choice (log entry 7, DESIGN CHOICE). -/
def State.performObres (s : State) (o : Op) (rec_ : BitVec 128) (t : Nat) : State :=
  match s.team? o.team with
  | none => s
  | some tm =>
    let runs := s.freeRuns tm.core (recLen rec_)
    let (n, status, s) : Nat × Nat × State :=
      if !recordOk rec_ then (0, 3, s)
      else if 16 ≤ tm.reservations.length || 64 ≤ (s.reservationsOn tm.core).length then (0, 2, s)
      else if runs = [] then (0, 1, s)
      else
        let n := ((List.range 16).find? fun i => (tm.reservation? i).isNone).getD 0
        let r : Reservation := { num := n, record := rec_, base := runs.getD (Config.freeNat s.serial o.id 11 % runs.length) 0,
                                 len := recLen rec_, data := [] }
        (n, 0, s.modTeam o.team fun t => { t with reservations := t.reservations ++ [r] })
    s.outcome o.id t (BitVec.ofNat 64 n) (BitVec.ofNat 64 status)

/-- OBREL takes effect once every word of the team that names the range has completed (R343). -/
def State.performObrel (s : State) (o : Op) (n : Nat) : State :=
  if s.ops.any fun e => e.team == o.team && e.names n then s
  else if ((s.team? o.team).bind fun t => t.reservation? n).isNone then s.killGroup o.gid 0x0E
  else
    let s : State := s.modTeam o.team fun t => { t with reservations := t.reservations.filter fun r => r.num != n }
    ((s.unpin fun p => p.team == o.team && p.res == n).finishAll o.id).opportunity o.ctx

/-- ACCZ takes effect after the earlier matrix words of its group (R357, R358). -/
def State.performAccz (s : State) (o : Op) (t n : Nat) : State :=
  if (s.earlier o).any Op.isAcc then s
  else
    let s : State := (List.range 32).foldl (fun s l => (regsFrom t n).foldl (fun s r => s.forward o.gid o.id l r 0) s) s
    (s.modGroup o.gid fun g =>
      g.alive.foldl (fun g l => (regsFrom t n).foldl (fun g r => g.deliver o.id l r 0) g) g).finishAll o.id

/-! ## Tile fetch (R345, R358) -/

/-- Every word that a tile fetch follows on the MX path has read or written its range. -/
def State.tileBlocked (s : State) (o : Op) : Bool :=
  (s.earlier o).any fun e =>
    match e.kind with
    | .mma _ _ _ _ => e.parts.any fun p => !p.isDone
    | .tfetch r => match o.kind with | .tfetch r' => r == r' | _ => false
    | _ => false

/-- A translated piece is read in the team's view, once L2 holds its line, and written into the range; its line is pinned, and while it cannot be, the fetch waits
(R345, R346, R233). -/
def State.performTile (s : State) (o : Op) (p : Part) (f : Phys) (res : Nat) : State :=
  if s.tileBlocked o then s
  else
    match s.team? o.team with
    | none => s
    | some tm =>
      if !s.lineReady (lineOf f.addr) tm.slot then s.fill (lineOf f.addr) tm.slot
      else if s.lost.contains (lineOf f.addr) && decide ((cellsIf (within f.addr p.len) (s.pendingOf tm.slot)).length < p.len) then
        s.killGroup o.gid 0x0F { vaddr := p.addr, acc := 5 }
      else if !s.pinRoom (lineOf f.addr) then s
      else
        let x := s.teamView tm.slot f.addr p.len
        let s : State := { s with pins := s.pins ++ [{ team := o.team, res := res, line := lineOf f.addr, off := p.addr2, len := p.len }] }
        let s : State := s.modTeam o.team fun t => { t with
          reservations := t.reservations.map fun (r : Reservation) => if r.num = res then { r with data := r.data.putNat p.addr2 p.len x } else r }
        s.setDone o.id p.lane 0

/-! ## The product (R352 to R354, R118, R119) -/

/-- Bits of an element: κ of the row or column that starts at byte `off` of a range. -/
def elementBits (d : Memory) (off bits k : Nat) : Nat :=
  if bits = 4 then field (d.get (off + k / 2)).toNat (4 * (k % 2)) 4 else d.nat (off + k * (bits / 8)) (bits / 8)

/-- The exact value of a floating element (R118). -/
def elementValue (f : Nat) (xv : BitVec 16) (x : Nat) : FVal :=
  match f with
  | 0 => F64.value x
  | 1 => F32.value x
  | 2 => F16.value x
  | 3 => BF16.value x
  | 4 => E5M2.value x
  | 5 => E4M3.value x
  | _ => decodeE2m1 xv x

/-- The value of an integer element, S8 or S4. -/
def elementInt (f x : Nat) : Int :=
  let n := fmtBits f
  if x < 2 ^ (n - 1) then x else (x : Int) - (2 ^ n : Nat)

/-- The value of B(κ, n) of MMAQ (R354). -/
def quantValue (b : Reservation) (kb k n x : Nat) : FVal :=
  let j := n * recNblk b.record + (kb + k) / recBlk b.record
  let sigma := BitVec.ofNat 16 (b.data.nat (recScoff b.record + 2 * j) 2)
  let z := if recFmt b.record = 9 then (b.data.get (recZpoff b.record + j)).toNat
    else field (b.data.get (recZpoff b.record + j / 2)).toNat (4 * (j % 2)) 4
  (deq x z sigma).1

/-- The exact sum of the incoming accumulator and the products, rounded (R118, R119). -/
def sumProducts (t : Fmt) (c : Nat) (ps : List (FVal × FVal)) : Nat :=
  (t.round (ps.foldl (fun (acc : FVal) (p : FVal × FVal) => (acc.add (p.1.mul p.2).1 0).1) (t.value c)) 0).1

/-- One output element (i, n) from the incoming accumulator c. -/
def mmaElement (quant : Bool) (a b : Reservation) (aoff boff kb i n c : Nat) : Nat :=
  let fa := recFmt a.record
  let fb := recFmt b.record
  let k := fmtDepth fb
  let ra := aoff + i * (k * fmtBits fa / 8)
  let cb := boff + n * (k * fmtBits fb / 8)
  if fb = 7 || fb = 8 then
    let s : Int := (List.range k).foldl (fun (acc : Int) q =>
      acc + elementInt fa (elementBits a.data ra (fmtBits fa) q) * elementInt fb (elementBits b.data cb (fmtBits fb) q)) (BitVec.ofNat 32 c).toInt
    (s % ((2 ^ 32 : Nat) : Int)).toNat
  else
    sumProducts (if fb = 0 then F64 else F32) c ((List.range k).map fun q =>
      let x := elementBits b.data cb (fmtBits fb) q
      (elementValue fa (recXv a.record) (elementBits a.data ra (fmtBits fa) q),
       if quant then quantValue b kb q n x else elementValue fb (recXv b.record) x))

/-! ## Release of a matched set (R349, R355) -/

/-- The gang value that a member's words belong to: none while a GANG before the word has not completed. -/
def State.gangOf (s : State) (o : Op) : Option Nat :=
  if (s.earlier o).any Op.isGang then none else (s.group? o.gid).map fun g => g.gang.toNat % 2 ^ 39

/-- How often a group had left a gang of that value before it issued a word: the GANGs that it has issued since wait for the word (R348), and each has
left the gang before it in the group's record of them. -/
def State.epochOf (s : State) (g : Group) (o : Op) (x : Nat) : Nat :=
  let later := s.ops.filter fun e => e.gid == o.gid && decide (o.id < e.id) && e.isGang
  let left := (x :: later.map fun e => match e.kind with | .gang v => (gangValue v).toNat | _ => 0).take later.length
  let newer := (left.filter fun y => field y 36 3 != 0).length
  ((g.former.drop newer).filter fun f => f.1.toNat % 2 ^ 39 == x).length

/-- A gang and how often the group had left one of that value: the words that count together (R349). -/
def State.spanOf (s : State) (o : Op) : Option (Nat × Nat) :=
  match s.gangOf o, s.group? o.gid with
  | some x, some g => some (x, s.epochOf g o x)
  | _, _ => none

/-- The unreleased words of that count of a group. -/
def State.heldWords (s : State) (gid seq : Nat) : List Op :=
  s.ops.filter fun o => o.gid == gid && o.parts.all (fun p => !p.isDone) &&
    match o.kind with
    | .mma _ _ _ n => n == seq
    | _ => false

/-- The word of a group that stands in a set with a word of that span: its word of the same gang, else one of a gang of another value, which fails the first
check of the release (R349). -/
def State.heldWord (s : State) (gid seq : Nat) (span : Nat × Nat) : Option Op :=
  match (s.heldWords gid seq).find? fun w => s.spanOf w == some span with
  | some w => some w
  | none => (s.heldWords gid seq).find? fun w => ((s.gangOf w).map fun y => y != span.1 && field y 36 3 != 0).getD false

/-- The members of the set of a word with their words; none while the set is not complete. -/
def State.matchedSet (s : State) (o : Op) (seq : Nat) : Option (List Op) :=
  match s.group? o.gid, s.spanOf o with
  | some g, some (x, e) =>
    if field x 36 3 = 0 then some [o]
    else
      let words := (gangSlots x).map fun k => (s.memberIn g.owner k).bind fun m => s.heldWord m.gid seq (x, e)
      if words.all Option.isSome then some (words.filterMap id) else none
  | _, _ => none

/-- The checks of the set itself: one gang, one word, one control word (R349). -/
def State.setAgrees (s : State) (o : Op) (ws : List Op) : Bool :=
  ws.all fun w => s.gangOf w == s.gangOf o &&
    match o.kind, w.kind with
    | .mma q _ k _, .mma q' _ k' _ => q == q' && k == k'
    | _, _ => false

/-- Checks 2 to 4 of R355: both ranges held, formats, bounds. -/
def mmaRangesOk (quant : Bool) (a b : Reservation) (g k : Nat) : Bool :=
  let fa := recFmt a.record
  let fb := recFmt b.record
  let depth := fmtDepth fb
  let aoff := field k 8 18
  let boff := field k 26 18
  let kb := field k 44 20
  let lastJ := (16 * g - 1) * recNblk b.record + (kb + depth - 1) / recBlk b.record
  recRole a.record == 0 && recRole b.record == 1
    && (if quant then (fa == 2 || fa == 3) && fmtQuant fb else fa == fb && decide (fb ≤ 8))
    && aoff % 32 == 0 && boff % 32 == 0
    && decide (aoff + 32 * (depth * fmtBits fa / 8) ≤ a.len) && decide (boff + 16 * g * (depth * fmtBits fb / 8) ≤ b.len)
    && (!quant || (kb % depth == 0 && decide ((kb + depth - 1) / recBlk b.record < recNblk b.record)
      && decide (recScoff b.record + 2 * lastJ + 2 ≤ b.len)
      && decide (recZpoff b.record + (if fb = 9 then lastJ else lastJ / 2) + 1 ≤ b.len)))

/-- The incoming accumulator register of a lane: read at issue, or the result of the earlier matrix word on which it was pending (R356). -/
def accIn (g : Group) (o : Op) (l r : Nat) : Nat :=
  match o.parts.find? fun p => p.lane == l && p.addr == r with
  | some p => p.data.toNat
  | none => ((g.lane l).getV r).toNat

/-- The results of a member: its word with every register's part performed (R352, R353). -/
def mmaResults (g : Group) (o : Op) (quant : Bool) (t k pos : Nat) (a b : Reservation) : Op :=
  let f := recFmt b.record
  let wide := f == 0
  let el := mmaElement quant a b (field k 8 18) (field k 26 18) (field k 44 20)
  let one : Nat → Nat → List Part := fun l c =>
    if wide then
      let x := el l (16 * pos + c) (accIn g o l (t + 2 * c) + accIn g o l (t + 2 * c + 1) * 2 ^ 32)
      [{ Part.new l (t + 2 * c) 0 with st := .done (BitVec.ofNat 128 (x % 2 ^ 32)) },
       { Part.new l (t + 2 * c + 1) 0 with st := .done (BitVec.ofNat 128 (x / 2 ^ 32)) }]
    else [{ Part.new l (t + c) 0 with st := .done (BitVec.ofNat 128 (el l (16 * pos + c) (accIn g o l (t + c)))) }]
  { o with parts := g.alive.flatMap fun l => (List.range 16).flatMap fun c => one l c }

/-- End the group of every word of a set. -/
def State.killSet (s : State) (ws : List Op) (code : Nat) : State := ws.foldl (fun s w => s.killGroup w.gid code) s

/-- One member of a released set: check 5 of R355, then its columns. -/
def State.releaseMember (s : State) (quant : Bool) (k : Nat) (a b : Reservation) (w : Op) : State :=
  match s.group? w.gid, w.kind with
  | some g, .mma _ t _ _ =>
    if g.alloc < t + accRegs (recFmt b.record) then s.killGroup w.gid 0x02
    else
      let pos := if field g.gang.toNat 36 3 = 0 then 0 else field g.gang.toNat 39 3
      s.modOp w.id fun o => mmaResults g o quant t k pos a b
  | _, _ => s

/-- The latch releases a complete set whose members' earlier words on the MX path are over, every tile fetch of theirs among them (R358): the checks of R349 and R355 in their order, then
every member's columns (R353, R358). -/
def State.releaseSet (s : State) (o : Op) (quant : Bool) (k seq : Nat) : State :=
  match s.matchedSet o seq with
  | none => s
  | some ws =>
    if !s.setAgrees o ws then s.killSet ws 0x0E
    else if ws.any fun w => (s.earlier w).any fun e => e.isAcc || e.isTileFetch then s
    else
      match s.group? o.gid, s.team? o.team with
      | some g, some tm =>
        let ar := tm.reservation? (field k 0 4)
        let br := tm.reservation? (field k 4 4)
        let lacks : Reservation → Bool := fun b => !s.hasUnit g.core (fmtUnit (recFmt b.record))
        if (br.any lacks) || (ar.any lacks) then s.killSet ws 0x05
        else
          match ar, br with
          | some a, some b =>
            if !mmaRangesOk quant a b (max 1 (field g.gang.toNat 36 3)) k then s.killSet ws 0x0E
            else ws.foldl (State.releaseMember · quant k a b) s
          | _, _ => s.killSet ws 0x0E
      | _, _ => s

/-- The bytes of the two ranges, as offsets and numbers, that the word of the member at a position reads: of A all rows, of B its 16 columns, and of a quantized
word their scales and zero points (R352, R354). -/
def mmaReads (quant : Bool) (a b : Reservation) (k pos : Nat) : List (Nat × Nat) × List (Nat × Nat) :=
  let fb := recFmt b.record
  let depth := fmtDepth fb
  let col := depth * fmtBits fb / 8
  let kb := field k 44 20
  let scales := (List.range 16).flatMap fun c =>
    let j := (16 * pos + c) * recNblk b.record + kb / recBlk b.record
    let n := (kb + depth - 1) / recBlk b.record - kb / recBlk b.record + 1
    [(recScoff b.record + 2 * j, 2 * n), if fb = 9 then (recZpoff b.record + j, n) else (recZpoff b.record + j / 2, (j + n - 1) / 2 - j / 2 + 1)]
  ([(field k 8 18, 32 * (depth * fmtBits (recFmt a.record) / 8))],
   (field k 26 18 + 16 * pos * col, 16 * col) :: if quant then scales else [])

/-- The pins of the lines from which what a word has read was fetched are released (R346). -/
def State.unpinRead (s : State) (o : Op) : State :=
  match o.kind, s.group? o.gid, s.team? o.team with
  | .mma quant _ k _, some g, some tm =>
    match tm.reservation? (field k.toNat 0 4), tm.reservation? (field k.toNat 4 4) with
    | some a, some b =>
      let r := mmaReads quant a b k.toNat (if field g.gang.toNat 36 3 = 0 then 0 else field g.gang.toNat 39 3)
      let hit : Pin → Bool := fun p => p.team == o.team
        && ((p.res == a.num && r.1.any fun x => rangesMeet p.off p.len x.1 x.2) || (p.res == b.num && r.2.any fun x => rangesMeet p.off p.len x.1 x.2))
      let done := s.pins.filter hit
      s.unpin fun p => done.any fun q => q.team == p.team && q.res == p.res && q.line == p.line
    | _, _ => s
  | _, _, _ => s

/-- A released word writes its accumulators and completes; the pins of what it has read are released (R346, R351). -/
def State.deliverMma (s : State) (o : Op) : State :=
  let s : State := s.unpinRead o
  let s : State := o.parts.foldl (fun s p =>
    match p.st with
    | .done x => s.forward o.gid o.id p.lane p.addr (x.toNat % 2 ^ 32)
    | _ => s) s
  (s.modGroup o.gid fun g => o.parts.foldl (fun g p =>
    match p.st with
    | .done x => g.deliver o.id p.lane p.addr (x.setWidth 32)
    | _ => g) g).finishAll o.id

/-- An operation of the MMX class goes on: what can take effect does (R342, R343, R345, R348, R349, R357). -/
def State.performMx (s : State) (o : Op) (lane : Nat) : State :=
  match o.kind with
  | .gang v => s.performGang o v
  | .obres r t => if o.parts = [] then s.performObres o r t else s.deliverOutcome o
  | .obrel n => s.performObrel o n
  | .accz t n => s.performAccz o t n
  | .tfetch res =>
    if o.parts.all Part.isDone then s.finishAll o.id
    else
      match o.part? lane with
      | some p =>
        match p.st with
        | .ready f => s.performTile o p f res
        | _ => s
      | none => s
  | .mma quant _ k seq => if o.parts.all Part.isDone then s.deliverMma o else s.releaseSet o quant k.toNat seq
  | _ => s

/-! ## Broken sets (R350) -/

/-- A member that can no longer issue its word of that count in the gang: it has ended, has arrived at REGRP, or has issued GANG before. -/
def State.memberLost (s : State) (g : Group) (span : Nat × Nat) (seq slot : Nat) : Bool :=
  match s.memberIn g.owner slot with
  | none => true
  | some m =>
    let left := (m.former.reverse.filter fun f => f.1.toNat % 2 ^ 39 == span.1)[span.2]?
    (s.heldWord m.gid seq span).isNone
      && (m.alive == [] || m.runs.any (fun r => match r.wait with | .regrp _ _ _ _ => true | _ => false)
        || (left.map fun f => decide (f.2 < seq)).getD false)

/-- A group holds a word of a set that can never complete. -/
def State.setBroken (s : State) (gid : Nat) : Bool :=
  s.ops.any fun o => o.gid == gid &&
    match o.kind, s.spanOf o, s.group? gid with
    | .mma _ _ _ seq, some x, some g =>
      g.isResident && o.parts.all (fun p => !p.isDone) && field x.1 36 3 != 0
        && (gangSlots x.1).any fun k => k != g.slot && s.memberLost g x seq k
    | _, _, _ => false

/-- MATCHED_SET_BREAK (R350): the holder of a word of a broken set ends; each holder of the set has an event of its own. -/
def execMatchedSetBreak (gid : Nat) (s : State) : Host.Outcome State Fault Refusal :=
  .next (if s.setBroken gid then s.killGroup gid 0x0B else s)

end Sys2Proof.Machine
end

