-- ==== Sys2Proof/Machine/Barriers.lean ====
section
/-!
DEFINITION. The barrier words (12_control R210 to R218) and BARRIER_ARRIVAL. Completing, breaking and waking stand in Ops.lean.
-/
namespace Sys2Proof.Machine

/-- Barrier i of a team. -/
def State.barrier? (s : State) (tid i : Nat) : Option Barrier := (s.team? tid).bind fun t => t.barriers[i]?

/-- The teams whose tags the present lanes carry. -/
def Ctx.tags (c : Ctx) : List Nat := c.g.alive.foldl (fun l i => addNew l (c.g.lane i).team) []

/-- The barrier number that a word names. -/
def barNumber (x : DWord) : Nat := field x.toNat 0 16
/-- The count that a word gives. -/
def barCount (x : DWord) : Nat := field x.toNat 32 32

/-- Every team of the word's lanes has the barrier, or the group ends with 0x09 and no barrier changes (R212). -/
def Ctx.checkBarrier (c : Ctx) (i : Nat) (k : State) : State :=
  if c.tags.all fun t => (c.s.barrier? t i).isSome then k else c.s.killGroup c.g.gid 0x09

/-- Take the rest of a word for its run, in a state that the word has changed. -/
def Ctx.passWord (c : Ctx) (s : State) : State :=
  match s.group? c.g.gid with
  | none => s
  | some g => s.putGroup (c.advanceGroup g 1 1)

/-- BARI (R213). -/
def execBari (o : ArgsB) (s : State) : Host.Outcome State Fault Refusal :=
  s.joined none { sr := [o.base] } fun c =>
    let x := c.s1 o.base
    let i := barNumber x
    let n := barCount x
    if 512 < n then s.killGroup c.g.gid 0x09
    else
      c.checkBarrier i <| c.passWord <| c.tags.foldl (fun (s : State) t =>
        let s : State := s.wakeBarrier t i (fun _ => true) 0x0D
        let all := (s.aliveOrigins t).length
        s.modBarrier t i fun b => { b with
          broken := false, mode := if n = 0 then .all else .fixed, exp := n, cnt := if n = 0 then all else n
          members := [], arrived := [], groups := [] }) s

/-- BARB: a byte-count barrier; the token goes to every present lane; a count of 0 completes at once (R215). -/
def execBarb (o : ArgsTB) (s : State) : Host.Outcome State Fault Refusal :=
  s.joined none { sr := [o.base], vw := [o.t] } fun c =>
    let x := c.s1 o.base
    let i := barNumber x
    let n := barCount x
    c.checkBarrier i <|
    let s' : State := c.tags.foldl (fun (s : State) t =>
      let s : State := s.wakeBarrier t i (fun _ => true) 0x0D
      s.modBarrier t i fun b => { b with
        broken := false, mode := .byte, exp := 0, cnt := n, members := [], arrived := [], groups := [c.g.gid] }) s
    let token : Nat → Word := fun l => BitVec.ofNat 32 (((s'.barrier? (c.g.lane l).team i).map (·.ph)).getD 0)
    let s' : State := match s'.group? c.g.gid with
      | none => s'
      | some g =>
        let c' : Ctx := { c with s := s', g := g }
        s'.putGroup (c'.writeAll { v := c.g.alive.map fun l => (l, o.t, token l) } 0 1 true)
    c.passWord (if n = 0 then c.tags.foldl (fun s t => s.completeBarrier t i) s' else s')

/-- BARA and BARS hold their lanes until the arrival can take effect (R214); the other lanes of the split go on. -/
def State.arriveWord (s : State) (o : ArgsTB) (thenWait : Bool) : Host.Outcome State Fault Refusal :=
  s.joined (some o.g) { sr := [o.base], vw := [o.t] } fun c =>
    let x := c.s1 o.base
    let i := barNumber x
    c.checkBarrier i <|
    if c.issue = [] then c.next c.g 1 1
    else s.putGroup (c.forkGroup c.g c.issue (.arrive i o.t (barCount x) thenWait s.fresh))

/-- BARA (R214). -/
def execBara (o : ArgsTB) (s : State) : Host.Outcome State Fault Refusal := s.arriveWord o false

/-- BARS (R214). -/
def execBars (o : ArgsTB) (s : State) : Host.Outcome State Fault Refusal := s.arriveWord o true

/-- Wait(L, k) for lanes with tokens: those that need not wait receive their status and go on, the others wait (R214). The lanes stand in a
run of their own that `mine` picks. -/
def State.waitLanes (s : State) (gid i t : Nat) (mine : Run → Bool) (tokens : List (Nat × Nat)) : State :=
  match s.group? gid with
  | none => s
  | some g =>
    let status : Nat → Nat → Option Word := fun l k =>
      match s.barrier? (g.lane l).team i with
      | none => some 0x0D
      | some b => if b.broken then some 0x0D else if b.ph ≠ k then some 0 else none
    let go := tokens.filterMap fun (l, k) => (status l k).map fun x => (l, x)
    let g := go.foldl (fun (g : Group) (l, x) => g.modLane l fun y => y.landV t x) g
    let g : Group := { g with runs := g.runs.map fun r => if mine r then { r with wait := .barrier i t tokens } else r }
    s.putGroup ((g.release (fun r => r.wait == .barrier i t tokens) fun _ => go.map (·.1)).settle s.tick)

/-- BARW: a wait on the phase that the lane's token names (R214). -/
def execBarw (o : ArgsTB) (s : State) : Host.Outcome State Fault Refusal :=
  s.joined (some o.g) { sr := [o.base], vr := [o.t], vw := [o.t] } fun c =>
    let i := barNumber (c.s1 o.base)
    c.checkBarrier i <|
    if c.issue = [] then c.next c.g 1 1
    else
      let tokens := c.issue.map fun l => (l, field (c.v l o.t).toNat 0 16)
      let s : State := s.putGroup (c.forkGroup c.g c.issue (.barrier i o.t tokens))
      s.waitLanes c.g.gid i o.t (fun r => r.wait == .barrier i o.t tokens) tokens

/-- Arrive(L) (R214): the state after it and the token. An arrival at a FIXED barrier whose count departures have taken to 0 leaves it 0 and completes the
phase (log entry 76, DESIGN CHOICE). -/
def State.arrive (s : State) (gid : Nat) (tid i count : Nat) (origin : DWord) : State × Nat :=
  match s.barrier? tid i with
  | none => (s, 0)
  | some b =>
    if b.broken then (s, b.ph)
    else
      match b.mode with
      | .byte =>
        let s : State := s.modBarrier tid i fun b => { b with groups := addNew b.groups gid }
        if b.cnt < count then (s.breakBarrier tid i, b.ph)
        else
          let s : State := s.modBarrier tid i fun b => { b with cnt := b.cnt - count }
          (if b.cnt = count then s.completeBarrier tid i else s, b.ph)
      | _ =>
        let put : List DWord → List DWord := fun l => if l.contains origin then l else l ++ [origin]
        let s : State := s.modBarrier tid i fun b => { b with
          members := if b.mode = .fixed then put b.members else b.members, arrived := put b.arrived, cnt := b.cnt - 1 }
        (if b.cnt ≤ 1 then s.completeBarrier tid i else s, b.ph)

/-- Bytes of a copy arrive at a barrier (R371, R215). -/
def State.byteArrive (s : State) (tid i bytes : Nat) : State :=
  match s.barrier? tid i with
  | none => s
  | some b =>
    if b.broken then s
    else if b.mode ≠ .byte || b.cnt < bytes then s.breakBarrier tid i
    else
      let s : State := s.modBarrier tid i fun b => { b with cnt := b.cnt - bytes }
      if b.cnt = bytes then s.completeBarrier tid i else s

/-- Operations that an arrival waits for (R214). -/
def OpKind.beforeArrival : OpKind → Bool
  | .sts _ | .stsf | .sete | .atomS _ _ | .bank _ _ => true
  | _ => false

/-- The run of a group whose arrival can take effect: the group's earlier scratchpad writes and bank commands have completed (R214). -/
def State.arrivalDue (s : State) (g : Group) : Option Run :=
  g.runs.find? fun r =>
    match r.wait with
    | .arrive _ _ _ _ since => !(s.ops.any fun o => o.gid == g.gid && decide (o.id < since) && o.kind.beforeArrival)
    | _ => false

/-- BARRIER_ARRIVAL (R214): the stores of the lanes' teams land; every lane arrives, in ascending order; BARA's lanes receive their tokens and go
on, BARS's lanes then wait. -/
def execBarrierArrival (gid : Nat) (s : State) : Host.Outcome State Fault Refusal :=
  match s.group? gid with
  | none => .next s
  | some g =>
    match if g.place = .saved then none else s.arrivalDue g with
    | none => .next s
    | some r =>
      match r.wait with
      | .arrive i t count thenWait _ =>
        let lanes := (maskLanes r.lanes).filter fun l => !(g.lane l).exited
        let slots := lanes.filterMap fun l => (s.team? (g.lane l).team).map Team.slot
        let s : State := s.landWhere fun e => slots.contains e.slot
        let (s, tokens) := lanes.foldl (fun (acc : State × List (Nat × Nat)) l =>
          let x := acc.1.arrive gid (g.lane l).team i count (g.lane l).origin
          (x.1, acc.2 ++ [(l, x.2)])) (s, [])
        if thenWait then .next (s.waitLanes gid i t (fun r' => r'.wait == r.wait && r'.lanes == r.lanes) tokens)
        else
          .next (s.modGroup gid fun g =>
            let g := tokens.foldl (fun (g : Group) (l, k) => g.modLane l fun y => y.landV t (BitVec.ofNat 32 k)) g
            (g.release (fun r' => r'.wait == r.wait && r'.lanes == r.lanes) fun _ => lanes).settle s.tick)
      | _ => .next s

end Sys2Proof.Machine
end

