-- ==== Sys2Proof/Machine/Translate.lean ====
section
/-!
DEFINITION. Translation of virtual addresses (10_memory R167 to R173, R176): the walk, the translators' cached entries, and the checks
in their order.
-/
namespace Sys2Proof.Machine

/-! ## Fields of a page-table entry (R169) -/

/-- TGT. -/
def pteTgt (e : Nat) : Nat := field e 61 2
/-- DEV. -/
def pteDev (e : Nat) : Nat := field e 49 12
/-- OA, as an address. -/
def pteOa (e : Nat) : Nat := field e 12 37 * 4096
/-- PS. -/
def ptePs (e : Nat) : Nat := field e 10 2
/-- LEAF. -/
def pteLeaf (e : Nat) : Bool := e.testBit 9
/-- V. -/
def pteV (e : Nat) : Bool := e.testBit 63

/-- What an access needs (R171). -/
structure Rights where
  x : Bool := false
  w : Bool := false
  rd : Bool := false
  at_ : Bool := false
  /-- The address only names an extent (SNAP, R312; NMC, R376): nothing is stored there. -/
  names : Bool := false
  deriving DecidableEq, Repr

/-- The leaf grants the rights. -/
def Rights.granted (r : Rights) (e : Nat) : Bool :=
  (!r.x || e.testBit 8) && (!r.w || e.testBit 7) && (!r.rd || e.testBit 6) && (!r.at_ || e.testBit 5)

/-- A non-leaf entry as R170 wants it; `align` is the size of the table it names. -/
def tableEntryOk (e align : Nat) : Bool :=
  e % 16 == 0 && pteTgt e == 0 && pteDev e == 0 && ptePs e == 0 && !pteLeaf e && pteOa e % align == 0 && decide (pteOa e < 2 ^ 39)

/-- A leaf entry as R170 wants it, for pages of that size. -/
def leafEntryOk (e size : Nat) : Bool :=
  e % 16 == 0 && pteTgt e != 3 && (pteTgt e == 2 || pteDev e == 0) && pteOa e % size == 0
    && (pteTgt e != 0 || decide (pteOa e < 2 ^ 39))

/-- The result of a walk. -/
inductive Walk where
  /-- A leaf, with the base and size of its page. -/
  | leaf (e base size : Nat)
  /-- An entry with V = 0 (check 3). -/
  | invalid
  /-- A walk that is not well formed (check 4). -/
  | malformed
  deriving DecidableEq, Repr

/-- A table stands in a fixed extent of the context (R170). -/
def State.tableOk (s : State) (ctx a : Nat) : Bool :=
  match s.extent? (extentOf a) with
  | some e => (e.kind == 1 || e.kind == 2) && e.ctx == ctx
  | none => false

/-- The leaf of level 0 (R170). -/
def leafWalk (e a : Nat) : Walk :=
  if !pteV e then .invalid
  else if !pteLeaf e then .malformed
  else if ptePs e = 0 then (if leafEntryOk e (2 ^ 16) then .leaf e (a / 2 ^ 16 * 2 ^ 16) (2 ^ 16) else .malformed)
  else if ptePs e = 1 then (if leafEntryOk e (2 ^ 21) then .leaf e (a / 2 ^ 21 * 2 ^ 21) (2 ^ 21) else .malformed)
  else .malformed

/-- Level 0: an entry; where the 32 entries of a 2 MiB block are not identical, any one of them (R170). -/
def State.walk0 (s : State) (ctx table a site : Nat) : Walk :=
  if !s.tableOk ctx table then .malformed
  else
    let i := a / 2 ^ 16 % 1024
    let es := (List.range 32).map fun k => s.image.nat (table + 8 * (i / 32 * 32 + k)) 8
    let own := es.getD (i % 32) 0
    let block := es.any fun e => pteV e && pteLeaf e && ptePs e == 1
    if block && es.any (· != own) then leafWalk (es.getD (Config.freeNat s.serial site 1 % 32) own) a else leafWalk own a

/-- Level 1. -/
def State.walk1 (s : State) (ctx table a site : Nat) : Walk :=
  if !s.tableOk ctx table then .malformed
  else
    let e := s.image.nat (table + 8 * (a / 2 ^ 26 % 512)) 8
    if !pteV e then .invalid
    else if pteLeaf e then (if ptePs e == 2 && leafEntryOk e (2 ^ 26) then .leaf e (a / 2 ^ 26 * 2 ^ 26) (2 ^ 26) else .malformed)
    else if tableEntryOk e 8192 then s.walk0 ctx (pteOa e) a site else .malformed

/-- Level 2. -/
def State.walk2 (s : State) (ctx table a site : Nat) : Walk :=
  if !s.tableOk ctx table then .malformed
  else
    let e := s.image.nat (table + 8 * (a / 2 ^ 35 % 512)) 8
    if !pteV e then .invalid else if tableEntryOk e 4096 then s.walk1 ctx (pteOa e) a site else .malformed

/-- The walk of a canonical address from the root downward (R168, R170, R173). The root table of 32 KiB lies whole in one fixed extent, also where
PTROOT is no multiple of its size. -/
def State.walk (s : State) (ctx a site : Nat) : Walk :=
  match s.ctx? ctx with
  | none => .malformed
  | some c =>
    if !(s.tableOk ctx c.ptroot && extentOf c.ptroot == extentOf (c.ptroot + 32767)) then .malformed
    else
      let e := s.image.nat (c.ptroot + 8 * (a / 2 ^ 44 % 4096)) 8
      if !pteV e then .invalid else if tableEntryOk e 4096 then s.walk2 ctx (pteOa e) a site else .malformed

/-! ## Translation -/

/-- The outcome of checks 1 and 3 to 5 of R173. -/
inductive Trans where
  | ok (p : Phys)
  /-- Check 3. -/
  | replay
  /-- A fatal fault with its code. -/
  | fatal (code : Nat)
  deriving DecidableEq, Repr

/-- The output of a leaf for an address (R170). -/
def leafOut (e base a : Nat) : Phys := { tgt := pteTgt e, dev := pteDev e, addr := pteOa e + (a - base), nl1 := e.testBit 4 }

/-- The checks on the leaf: the output extent part of check 4, and check 5; a write to a replica extent fails check 5 (R293). -/
def State.checkLeaf (s : State) (ctx : Nat) (need : Rights) (e : Nat) (p : Phys) : Trans :=
  if p.tgt = 0 then
    match s.extent? (extentOf p.addr) with
    | none => .fatal 0x08
    | some x =>
      if x.ctx != ctx then .fatal 0x08
      else if !need.granted e || (need.w && !need.names && x.kind == 3) then .fatal 0x09
      else .ok p
  else if !need.granted e then .fatal 0x09
  else .ok p

/-- The compute die of a translator: cores by their cluster, 16 copy engines a die, two network ports and two stacks a die (R13,
R19, R24). -/
def State.dieOf (s : State) : Translator → Nat
  | .core r => s.clusterOf r / 8
  | .tileFetch r => s.clusterOf r / 8
  | .copyEngine n => n / 16
  | .netSend n => n / 2
  | .sequencer k => k / 2

/-- The core in whose own TLB a translator looks. -/
def ownCore : Translator → Option Nat
  | .core r => some r
  | _ => none

/-- The cached entries that a translator may use for an address: those of its core's TLB and of the last-level TLB of its die that no shootdown
keeps it from (R172, R175). -/
def State.tlbFor (s : State) (who : Translator) (ctx a : Nat) : List TlbEntry :=
  s.tlb.filter fun t =>
    (t.own == none || t.own == ownCore who) && s.dieOf t.who == s.dieOf who && t.ctx == ctx && within t.base t.size a && !t.barred.contains who

/-- The entries of a TLB: of a core's, 128 at most, or of a die's last level, 8,192 at most (R172, R19). -/
def TlbEntry.capacity (t : TlbEntry) : Nat := if t.own.isSome then 128 else 8192

/-- An entry is cached; in a full TLB it takes the place of another, any one of them (log entry 7, DESIGN CHOICE). -/
def State.cache (s : State) (t : TlbEntry) : State :=
  if s.tlb.contains t then s
  else
    let same := s.tlb.filter fun x => x.own == t.own && s.dieOf x.who == s.dieOf t.who
    if same.length < t.capacity then { s with tlb := s.tlb ++ [t] }
    else
      let out := same[Config.freeNat s.serial t.base 24 % same.length]?
      { s with tlb := (s.tlb.filter fun x => some x != out) ++ [t] }

/-- A translation that a translator has made stands in the last level, and in its core's own TLB where it has one (R172). -/
def State.cacheFor (s : State) (who : Translator) (t : TlbEntry) : State :=
  match ownCore who with
  | some r => (s.cache { t with own := none }).cache { t with own := some r }
  | none => s.cache { t with own := none }

/-- Translate from what the translator caches or by a walk, one or the other (R172; log entry 7, DESIGN CHOICE): the outcome and the state with the
entry that the walk cached. -/
def State.translate (s : State) (who : Translator) (ctx a : Nat) (need : Rights) (site : Nat) : Trans × State :=
  if 2 ^ 56 ≤ a then (.fatal 0x08, s)
  else
    let hits := s.tlbFor who ctx a
    let pick := Config.freeNat s.serial site 0 % (hits.length + 1)
    match if hits = [] then none else hits[pick]? with
    | some t => (s.checkLeaf ctx need t.leaf.toNat (leafOut t.leaf.toNat t.base a), s.cacheFor who t)
    | none =>
      match s.walk ctx a site with
      | .invalid => (.replay, s)
      | .malformed => (.fatal 0x08, s)
      | .leaf e base size =>
        let t : TlbEntry := { own := none, who := who, ctx := ctx, base := base, size := size, leaf := BitVec.ofNat 64 e, barred := [] }
        (s.checkLeaf ctx need e (leafOut e base a), s.cacheFor who t)

/-- Translation by the front end, which caches nothing (R175, R263). -/
def State.translateFront (s : State) (ctx a : Nat) (need : Rights) : Trans :=
  if 2 ^ 56 ≤ a then .fatal 0x08
  else
    match s.walk ctx a 0 with
    | .invalid => .replay
    | .malformed => .fatal 0x08
    | .leaf e base _ => s.checkLeaf ctx need e (leafOut e base a)

/-- Translation of a code address (R176): check 2 asks for a multiple of 4, and a page with TGT 1 or 2 gives 0x08; of such a page that lacks X too, the
lack of X is found first (log entry 69, DESIGN CHOICE). -/
def State.translateCode (s : State) (core ctx a : Nat) (site : Nat) : Trans × State :=
  if a < 2 ^ 56 && a % 4 != 0 then (.fatal 0x06, s)
  else match s.translate (.core core) ctx a { x := true } site with
  | (.ok p, s') => (if p.tgt = 0 then .ok p else .fatal 0x08, s')
  | r => r

end Sys2Proof.Machine
end

