-- ==== Sys2Proof/Machine/MemEvents.lean ====
section
/-!
DEFINITION. Events of the memory paths: translation of a part of an operation (10_memory R171, R173, R174), an atomic on one element (R197 to
R202), draining and landing of write-combining entries (R179, R180), invalidation of L1 copies (R237), shootdowns (R175). An event that is
not due leaves the state as it is.
-/
namespace Sys2Proof.Machine

/-! ## Translation -/

/-- What an operation's source, or only, address must grant (R171, R345, R368, R376). -/
def OpKind.rights : OpKind → Rights
  | .store _ | .storeScalar => { w := true }
  | .atomic _ _ _ => { rd := true, w := true, at_ := true }
  | .nmc _ _ _ => { rd := true, w := true, names := true }
  | _ => { rd := true }

/-- The part writes a copy's stamp (R372): it covers no bytes of the payload. -/
def Part.isStamp (p : Part) : Bool := p.len == 0

/-- The copy engines of the dies in service, the network send units and the sequencers (R19, R24, R29). -/
def State.copyEngines (s : State) : List Nat := s.dies.flatMap fun d => (List.range 16).map fun k => 16 * d + k
/-- The network send units. -/
def State.sendUnits (s : State) : List Nat := (List.range 6).filter fun n => s.dies.contains (n / 2)
/-- The stacks in service, each with its sequencer. -/
def State.stacks (s : State) : List Nat := (List.range 8).filter fun k => s.conf.record.getLsbD (64 + k)
/-- One of several units. -/
def pickUnit (l : List Nat) (n : Nat) : Nat := l.getD (n % l.length) 0

/-- Who translates for an operation: the core, its tile fetch unit, a copy engine, a network send unit or a base-die sequencer (R175);
which one of several is a free choice (log entry 9, DESIGN CHOICE). -/
def State.translatorOf (s : State) (o : Op) : Translator :=
  let core := ((s.group? o.gid).map (·.core)).getD 0
  match o.kind with
  | .tfetch _ => .tileFetch core
  | .copy _ _ _ | .copyCommand _ _ _ => .copyEngine (pickUnit s.copyEngines (Config.freeNat s.serial o.id 12))
  | .send _ _ _ _ _ => .netSend (pickUnit s.sendUnits (Config.freeNat s.serial o.id 12))
  | .nmc _ _ _ => .sequencer (pickUnit s.stacks (Config.freeNat s.serial o.id 12))
  | _ => .core core

/-- A number for a part's own free choices. -/
def Op.site (o : Op) (p : Part) : Nat := o.id * 2 ^ 34 + p.lane

/-- The lanes of a record about a part: lane 0 for a scalar access and a near-memory argument (R189, R376), the lane of a per-lane word, else
every lane of the group (R284). -/
def State.recordLanes (s : State) (o : Op) (p : Part) : Mask :=
  match o.kind with
  | .loadScalar _ | .storeScalar | .nmc _ _ _ => 1
  | _ => if o.kind.perLane && !p.isStamp then maskOf [p.lane] else maskOf (((s.group? o.gid).map Group.alive).getD [])

/-- A COPY command fails: what has landed is published, no stamp is written, its slot is free again (R263). -/
def State.failCopyCommand (s : State) (id queue slot : Nat) : State :=
  match s.holders.find? fun h => h.2 == .copy id with
  | none => (s.dropOp id).completeCommand queue slot 0x86
  | some (w, _) => (((s.publishPart w (fun _ => true) []).freeSlot w).dropOp id).completeCommand queue slot 0x86

/-- What an operation asks of the target beyond the leaf's rights (R345, R368, R369, R376): the code where it is not met. -/
def OpKind.targetFault (k : OpKind) (f : Phys) : Option Nat :=
  match k with
  | .tfetch _ => if f.tgt = 0 then none else some 0x0E
  | .send _ _ _ _ _ | .nmc _ _ _ => if f.tgt = 0 then none else some 0x09
  | _ => none

/-- An access to a peer ends its group with 0x05 on a core that cannot reach the fabric (R27, R28). -/
def State.fabricFault (s : State) (o : Op) (f : Phys) : Option Nat :=
  match s.group? o.gid with
  | some g => if f.tgt = 2 && !s.hasUnit g.core 8 then some 0x05 else none
  | none => none

/-- Destinations and stamps of copies stand on pages with TGT 0 or 1 (R368). -/
def destFault (f : Phys) : Option Nat := if f.tgt ≤ 1 then none else some 0x09

/-- A translation of a part of an operation fails a check as the tables stand. -/
def State.addressFails (s : State) (o : Op) (p : Part) (a : Nat) (need : Rights) (bad : Phys → Option Nat) : Bool :=
  match (s.translate (s.translatorOf o) o.ctx a need (o.site p)).1 with
  | .ok f => (bad f).isSome || (s.fabricFault o f).isSome
  | _ => true

/-- A lane of a per-lane word failed one of its checks, or will when it is translated (R284). -/
def State.laneFails (s : State) (o : Op) (p : Part) : Bool :=
  match p.st with
  | .held _ => true
  | .issued =>
    match o.kind with
    | .copy _ dsp _ => s.addressFails o p p.addr { rd := true } (fun _ => none) || (!dsp && s.addressFails o p p.addr2 { w := true } destFault)
    | k => s.addressFails o p p.addr k.rights k.targetFault
  | _ => false

/-- The lanes of a record of kind 1 about a part: of a per-lane word every lane that failed any of its checks (R284). -/
def State.failedLanes (s : State) (o : Op) (p : Part) : Mask :=
  if o.kind.perLane && !p.isStamp then
    maskOf ((o.parts.filter fun q => q.lane == p.lane || (!q.isStamp && s.laneFails o q)).map (·.lane))
  else s.recordLanes o p

/-- A translation failure that is not replayable (R173, R201, R263, R345, R375); an uncorrectable error in the data concerns every lane of the
group (R284). -/
def State.failPart (s : State) (o : Op) (p : Part) (vaddr code : Nat) : State :=
  match o.kind with
  | .prefetch _ => s.finish o.id [p.lane]
  | .tfetch _ => s.killTeam o.team 0x0E true { vaddr := vaddr, acc := 5 }
  | .copyCommand q k _ => s.failCopyCommand o.id q k
  | _ =>
    s.killGroup o.gid code { mask := if code = 0x0F then none else some (s.failedLanes o p), vaddr := vaddr, acc := o.kind.acc }

/-- A page that is not there yet (R174): the access is held, but for a prefetch, which is dropped, a tile fetch and a command. -/
def State.replayPart (s : State) (o : Op) (p : Part) (vaddr : Nat) : State :=
  match o.kind with
  | .prefetch _ => s.finish o.id [p.lane]
  | .tfetch _ => s.killTeam o.team 0x0E true { vaddr := vaddr, acc := 5 }
  | .copyCommand q k _ => s.failCopyCommand o.id q k
  | _ =>
    let n := (((s.group? o.gid).map s.ctxOfGroup).bind s.ctx?).map (·.seq)
    let s : State := s.holdGroup o.gid o.kind.acc (s.recordLanes o p) vaddr
    s.modOp o.id fun o => o.modPart p.lane fun p => { p with st := .held (n.getD 0) }

/-- Translate an address for a part with rights and a test of the target; go on with the translation, or with the fault. -/
def State.translatePart (s : State) (o : Op) (p : Part) (a : Nat) (need : Rights) (bad : Phys → Option Nat) (k : State → Phys → State) :
    State :=
  match s.translate (s.translatorOf o) o.ctx a need (o.site p) with
  | (.ok f, s) =>
    match (bad f).orElse fun _ => s.fabricFault o f with
    | none => k s f
    | some code => s.failPart o p a code
  | (.replay, s) => s.replayPart o p a
  | (.fatal code, s) => s.failPart o p a code

/-- A part is translated. A copy translates its source and, where it is in memory, its destination. -/
def State.translateOp (s : State) (o : Op) (p : Part) : State :=
  let ready : State → Phys → Option Phys → State := fun s f d =>
    s.modOp o.id fun o => o.modPart p.lane fun p => { p with st := .ready f, dst := d }
  match o.kind with
  | .copy _ dsp _ =>
    if p.isStamp then s.translatePart o p p.addr { w := true } destFault fun s f => ready s f none
    else
      s.translatePart o p p.addr { rd := true } (fun _ => none) fun s f =>
        if dsp then ready s f none
        else s.translatePart o p p.addr2 { w := true } destFault fun s d => ready s f (some d)
  | .copyCommand _ _ _ =>
    if p.isStamp then s.translatePart o p p.addr { w := true } destFault fun s f => ready s f none
    else
      s.translatePart o p p.addr { rd := true } (fun _ => none) fun s f =>
        s.translatePart o p p.addr2 { w := true } destFault fun s d => ready s f (some d)
  | .send _ _ _ _ _ =>
    if p.isStamp then s.translatePart o p p.addr { w := true } destFault fun s f => ready s f none
    else s.translatePart o p p.addr { rd := true } o.kind.targetFault fun s f => ready s f none
  | .nmc _ _ _ =>
    s.translatePart o p p.addr o.kind.rights o.kind.targetFault fun s f =>
      let s : State := ready s f none
      let ext := extentOf f.addr
      let home := ((s.extent? ext).map (·.home)).getD 0
      { s.modOp o.id fun o => { o with aux := ext } with calls := s.calls ++ [(home, o.id)] }
  | .prefetch _ =>
    s.translatePart o p p.addr o.kind.rights (fun f => if f.tgt = 0 then none else some 0) fun s f => ready s f none
  | k => s.translatePart o p p.addr k.rights k.targetFault fun s f => ready s f none

/-- A part is held by an unanswered fault. -/
def Part.isHeld (p : Part) : Bool :=
  match p.st with
  | .held _ => true
  | _ => false
/-- A part waits for its translation. -/
def Part.isIssued (p : Part) : Bool :=
  match p.st with
  | .issued => true
  | _ => false

/-- Operations whose parts are translated, which are those on the paths through translation (R233). -/
def OpKind.translates : OpKind → Bool
  | .load _ _ _ | .loadScalar _ | .store _ | .storeScalar | .atomic _ _ _ | .prefetch _ => true
  | .tfetch _ | .copy _ _ _ | .send _ _ _ _ _ | .nmc _ _ _ | .copyCommand _ _ _ => true
  | _ => false

/-- The part can be translated now: a copy that holds at a byte goes no further (R375), and the calls of one group are queued in the order of
issue (R376, R381). -/
def State.translationDue (s : State) (o : Op) (p : Part) : Bool :=
  p.isIssued && o.kind.translates && s.opLive o &&
    match o.kind with
    | .copy _ _ _ | .send _ _ _ _ _ => !(o.parts.any Part.isHeld)
    | .nmc _ _ _ => !(s.ops.any fun e => e.gid == o.gid && decide (e.id < o.id) &&
        (match e.kind with | .nmc _ _ _ => e.parts.any fun q => q.isIssued || q.isHeld | _ => false))
    | _ => true

/-! ## Atomics (R197 to R202) -/

/-- Two parts stand translated on one element, whatever their pages say of L1, and are equally far. -/
def Part.onElement (p q : Part) : Bool :=
  match p.st, q.st with
  | .ready f, .ready h => f.tgt == h.tgt && f.dev == h.dev && f.addr == h.addr
  | .remote f [] x, .remote h [] y => f.tgt == h.tgt && f.dev == h.dev && f.addr == h.addr && x == y
  | _, _ => false

/-- The parts of a word that one aggregated operation takes: the lanes on one element, ascending (R121, R197). -/
def Op.aggregate (o : Op) (p : Part) : List Part := o.parts.filter fun q => p.onElement q

/-- The writer slots of the teams whose lanes an aggregated operation takes, in ascending lane order; the first is the one for which the element is
published (log entry 71, DESIGN CHOICE). -/
def State.slotsOf (s : State) (o : Op) (ps : List Part) : List Nat :=
  ps.foldl (fun l q => addNew l (((s.team? (s.partTeam o q.lane)).map Team.slot).getD Config.writerSlots)) []

/-- Mark parts performed with their old values. -/
def State.setOlds (s : State) (id : Nat) (l : List (Nat × Nat)) : State :=
  s.modOp id fun o => l.foldl (fun o (lane, x) => o.modPart lane fun p => { p with st := .done (BitVec.ofNat 128 x) }) o

/-- The beats of an ATOMIC packet: one operand a beat, of CAS the new value above the compare value (log entry 15, PRESUMED). -/
def atomBeats (size : Nat) (l : List (Nat × Nat)) : List (BitVec 128) :=
  l.map fun (v, n) => BitVec.ofNat 128 (v % 2 ^ (8 * size) + n % 2 ^ (8 * size) * 2 ^ 64)

/-- The packets' beats of one operation: it crosses as one, in as many packets as its operands fill, each but the last of nine beats (R199; log entry
15, PRESUMED). -/
def beatRuns {α : Type} : Nat → List α → List (List α)
  | 0, l => [l]
  | n + 1, l => if l.length < 9 then [l] else l.take 9 :: beatRuns n (l.drop 9)

/-- Send an aggregated operation to the owner of a peer page; its lanes wait for the answer (R199; log entry 15, PRESUMED). -/
def State.sendAtomic (s : State) (o : Op) (f : Phys) (slot : Nat) (op : AtomOp) (size : Nat) (ps : List Part) : State :=
  let beats := atomBeats size (atomOperands op size (ps.map fun q => (q.data.toNat, q.data2.toNat)))
  let runs := beatRuns 32 beats
  let s : State := runs.dropLast.foldl (fun (s : State) b =>
    s.post { s.packet f.dev kAtomic slot 0 f.addr b with op := atomCode op size }) s
  let s : State := s.request { s.packet f.dev kAtomic slot 0 f.addr (runs.getLastD []) with op := atomCode op size } kAtrsp o.id
    ((ps.head?.map (·.lane)).getD 0) 0
  s.modOp o.id fun o => ps.foldl (fun (o : Op) (q : Part) => o.modPart q.lane fun q => { q with st := .remote f [0] 0 }) o

/-- Operations that the Pothen link executes natively; the host adapter emulates the others (R202). -/
def nativeAtomic : AtomOp → Bool
  | .xchg | .cas | .add => true
  | _ => false

/-- Emulated operations in progress on an element that another atomic operation has changed start again: their compare-and-swap fails (R202). -/
def State.restartEmulated (s : State) (a size : Nat) : State :=
  { s with ops := s.ops.map fun (o : Op) => { o with parts := o.parts.map fun (p : Part) =>
      match p.st with
      | .remote f [] _ => if f.tgt = 1 && rangesMeet f.addr p.len a size then { p with st := .ready f } else p
      | _ => p } }

/-- The value on which a host atomic acts and whether what it leaves is written: the element as it stands; of an emulated operation that read another
value, since when a plain store has landed, the stored value with the operation applied, the stored value alone, or the operation's result with the
store lost (R202; log entry 7, DESIGN CHOICE). -/
def State.hostAtomic (s : State) (p : Part) (f : Phys) (size : Nat) : Nat × Bool :=
  let now := s.hostMem.nat f.addr size
  match p.st with
  | .remote _ [] x =>
    if x.toNat = now then (now, true)
    else
      match Config.freeNat s.serial f.addr 26 % 3 with
      | 0 => (now, true)
      | 1 => (x.toNat, false)
      | _ => (x.toNat, true)
  | _ => (now, true)

/-- Perform an aggregated operation where its translation points (R197 to R202), in local memory once L2 holds the line (R316). -/
def State.performAtomic (s : State) (o : Op) (p : Part) (f : Phys) (op : AtomOp) (size : Nat) : State :=
  let ps := o.aggregate p
  let slots := s.slotsOf o ps
  let slot := slots.headD Config.writerSlots
  let operands := ps.map fun q => (q.data.toNat, q.data2.toNat)
  if f.tgt = 0 && !s.lineReady (lineOf f.addr) slot then s.fill (lineOf f.addr) slot
  else if f.tgt = 0 then
    let line := lineOf f.addr
    let s : State := s.landWhere fun e => e.line == line && slots.contains e.slot
    let s : State := slots.tail.foldl (fun (s : State) w => s.publishPart w (fun b => lineOf b == line) []) s
    if s.lost.contains line && decide ((cellsIf (within f.addr size) (s.pendingOf slot)).length < size) then
      s.killGroup o.gid 0x0F { vaddr := p.addr, acc := 2 }
    else
      let r := atomAll op size (s.teamView slot f.addr size) operands
      let core := ((s.group? o.gid).map (·.core)).getD 0
      let s : State := s.atomLocal slot f.addr size fun _ => r.2
      let s : State := { s with l1 := s.l1.filter fun l => !(l.core == core && l.line == line) }
      s.setOlds o.id ((ps.map (·.lane)).zip r.1)
  else if f.tgt = 1 then
    let m := s.hostAtomic p f size
    let r := atomAll op size m.1 operands
    let s : State := if m.2 then { s with hostMem := s.hostMem.putNat f.addr size r.2 } else s
    (s.setOlds o.id ((ps.map (·.lane)).zip r.1)).restartEmulated f.addr size
  else s.sendAtomic o f slot op size ps

/-- Where an atomic's part that may be performed points: translated, or an emulated operation in progress (R202). -/
def Part.atomAt (p : Part) : Option Phys :=
  match p.st with
  | .ready f => some f
  | .remote f [] _ => if f.tgt = 1 then some f else none
  | _ => none

/-- An element of an atomic word can be updated: every lane that can address it is translated, and what its lanes must follow is performed. -/
def State.atomicDue (s : State) (o : Op) (p : Part) : Option (Phys × AtomOp × Nat) :=
  match o.kind, p.atomAt with
  | .atomic op size _, some f =>
    if !s.opLive o || o.parts.any (fun q => q.isIssued && q.addr % 2 ^ 16 == p.addr % 2 ^ 16)
        || (o.aggregate p).any (fun q => s.blocked o q || (f.tgt == 2 && s.peerBlocked o q f.dev)) then none
    else some (f, op, size)
  | _, _ => none

/-- ATOMIC_PERFORM: the update of the element at a virtual address of an atomic word (R197). -/
def execAtomicPerform (id addr : Nat) (s : State) : Host.Outcome State Fault Refusal :=
  .next (match s.op? id with
    | none => s
    | some o =>
      match o.parts.find? fun p => p.addr == addr && (s.atomicDue o p).isSome with
      | none => s
      | some p =>
        match s.atomicDue o p with
        | some (f, op, size) => s.performAtomic o p f op size
        | none => s)

/-! ## The write-combining buffer and L1 -/

/-- WCB_IDLE_DRAIN: 512 core cycles have passed with no merge (R179). -/
def execWcbIdleDrain (entry : Nat) (s : State) : Host.Outcome State Fault Refusal :=
  .next { s with
    wcb := s.wcb.map fun e => if e.id = entry && decide (e.merged + 512 ≤ s.tick) then { e with drained := true } else e }

/-- WCB_ENTRY_LAND: one 16-byte granule of a drained entry lands at its home slice, any of those that are left; an older entry of the same
line and team lands first (R180; log entry 7, DESIGN CHOICE). -/
def execWcbEntryLand (entry : Nat) (s : State) : Host.Outcome State Fault Refusal :=
  .next (match s.wcb.find? fun e => e.id == entry with
    | none => s
    | some e =>
      if !e.drained || s.wcb.any fun x => decide (x.id < e.id) && x.line == e.line && x.slot == e.slot then s
      else
        let gs := e.bytes.foldl (fun l c => addNew l (granuleOf c.1)) []
        let g := gs.getD (Config.freeNat s.serial entry 20 % gs.length) 0
        let rest := cellsIf (fun a => granuleOf a != g) e.bytes
        let s : State := s.landEntry { e with bytes := cellsIf (fun a => granuleOf a == g) e.bytes }
        if rest = [] then s else { s with wcb := { e with bytes := rest } :: s.wcb })

/-- L1_INVALIDATE: the invalidation that a publication sent reaches a stale copy (R237). -/
def execL1Invalidate (core line : Nat) (s : State) : Host.Outcome State Fault Refusal :=
  .next { s with l1 := s.l1.filter fun l => !(l.core == core && l.line == line && l.stale.isSome) }

/-! ## Shootdowns (R175) -/

/-- The translators of the package: those of the cores in service, and of the dies and stacks in service the copy engines, the network send units and the sequencers. -/
def State.translators (s : State) : List Translator :=
  (s.cores.map fun c => Translator.core c.rank) ++ (s.cores.map fun c => Translator.tileFetch c.rank)
    ++ s.copyEngines.map Translator.copyEngine ++ s.sendUnits.map Translator.netSend ++ s.stacks.map Translator.sequencer

/-- The kinds of translators are alike: which engine of several translated is not told apart (safe: a shootdown waits longer). -/
def sameUnit (a b : Translator) : Bool :=
  match a, b with
  | .copyEngine _, .copyEngine _ => true
  | .netSend _, .netSend _ => true
  | .sequencer _, .sequencer _ => true
  | a, b => a == b

/-- A part of an operation that is over once it has been performed: a piece of a tile fetch, whose bytes then stand in the range, and a call, whose outcome is
known. -/
def Op.endsPerformed (o : Op) : Bool :=
  match o.kind with
  | .tfetch _ | .nmc _ _ _ => true
  | _ => false
/-- A part that is translated and not over: translated, waiting for a peer, or read and not landed. -/
def Op.inPlay (o : Op) (p : Part) : Bool :=
  match p.st with
  | .ready _ => true
  | .remote _ _ _ => true
  | .done _ => !o.endsPerformed
  | _ => false

/-- The monitor's lanes stand on the core of that translator (R222). -/
def State.waitsAt (s : State) (m : Monitor) (at_ : Translator) : Bool :=
  match m.gid.bind s.group?, at_ with
  | some g, .core c => g.core? == some c
  | _, _ => false
/-- The monitor belongs to no group on a core: a WAIT command's, or a saved group's. -/
def State.waitsNowhere (s : State) (m : Monitor) : Bool := ((m.gid.bind s.group?).bind Group.core?).isNone

/-- An address lies in a page of the largest size, 64 MiB, that the range of a shootdown meets: every access that can have been translated by an entry
that covers the range stands in one (R175). -/
def Shoot.covers (h : Shoot) (a : Nat) : Bool := rangesMeet (a / 2 ^ 26 * 2 ^ 26) (2 ^ 26) h.base h.len

/-- SHOOTDOWN_ARRIVAL: monitors of the core on the range are cancelled (R222), the translator uses no entry of the range any more, and the accesses
that it has translated must land first. -/
def execShootdownArrival (id : Nat) (at_ : Translator) (s : State) : Host.Outcome State Fault Refusal :=
  .next (match s.shoots.find? fun x => x.id == id with
    | none => s
    | some h =>
      if h.reached.contains at_ then s
      else
        let hit : Nat → Bool := within h.base h.len
        let mine := s.ops.flatMap fun o =>
          if o.ctx == h.ctx && o.kind.translates && sameUnit (s.translatorOf o) at_ then
            (o.parts.filter fun p => o.inPlay p && (h.covers p.addr || (p.dst.isSome && h.covers p.addr2))).map fun p => (o.id, p.lane)
          else []
        let s : State := { s with
          shoots := s.shoots.map fun x => if x.id = id then { x with reached := x.reached ++ [at_], ops := x.ops ++ mine } else x
          tlb := s.tlb.map fun t =>
            if t.ctx = h.ctx && rangesMeet t.base t.size h.base h.len then { t with barred := t.barred ++ [at_] } else t }
        (s.monitors.filter fun m => m.ctx == h.ctx && hit m.vaddr && s.waitsAt m at_).foldl (fun s m => s.endMonitor m none) s)

/-- Every access that a shootdown waits for is over. -/
def State.shootDone (s : State) (h : Shoot) : Bool :=
  (s.translators.all fun t => h.reached.contains t)
    && h.ops.all fun (id, lane) =>
      match s.op? id with
      | none => true
      | some o => !((o.part? lane).any o.inPlay)

/-- SHOOTDOWN_COMPLETE: monitors on the range that stand on no core are cancelled (R222, R263; log entry 23, DEDUCED), the stores of the range that the write-combining buffers hold drain and land, and the command completes. -/
def execShootdownComplete (id : Nat) (s : State) : Host.Outcome State Fault Refusal :=
  .next (match s.shoots.find? fun x => x.id == id with
    | none => s
    | some h =>
      if s.shootDone h then
        let s : State := s.landWhere fun e => e.ctx == h.ctx && e.vaddrs.any h.covers
        let s : State := (s.monitors.filter fun m => m.ctx == h.ctx && within h.base h.len m.vaddr && s.waitsNowhere m).foldl
          (fun s m => s.endMonitor m none) s
        { s with shoots := s.shoots.filter fun x => x.id != id }.completeCommand h.queue h.slot 0
      else s)

end Sys2Proof.Machine
end

