-- ==== Sys2Proof/Machine/Copies.lean ====
section
/-!
DEFINITION. Copies: CPY, CPYT and CPYN (24_engines R364 to R375), the reads and writes of the copy engines and network send units, what the
transport reports (R369, R398, R399), and the completion of copies. A copy moves naturally aligned words of 4 bytes, or a lane's bytes
(log entry 18, DESIGN CHOICE).
-/
namespace Sys2Proof.Machine

/-! ## Control word and request block (R365, R367) -/

/-- MODE. -/
def ctlMode (x : Nat) : Nat := field x 0 2
/-- SZ, in bytes. -/
def ctlSize (x : Nat) : Nat := 4 * 2 ^ field x 2 2
/-- DSP. -/
def ctlDsp (x : Nat) : Bool := x.testBit 4
/-- The barrier number of MODE 1. -/
def ctlBarrier (x : Nat) : Nat := field x 8 9
/-- The stamp address of MODE 2. -/
def ctlStamp (x : Nat) : Nat := field x 8 56

/-- How a control word asks for completion to be told. -/
def ctlDone (x : Nat) (stamp : DWord) : CopyDone :=
  if ctlMode x = 1 then .barrier (ctlBarrier x) else if ctlMode x = 2 then .stamp (ctlStamp x) stamp else .none

/-- The piece number of a copy's stamp. -/
def stampPiece : Nat := 2 ^ 33
/-- The part that writes a copy's stamp, where it has one. -/
def CopyDone.parts : CopyDone → List Part
  | .stamp a _ => [Part.new stampPiece a 0]
  | _ => []

/-- Check 4 of R368, with the address for the record: addresses in memory are canonical, then each value is a multiple of its alignment; a
non-canonical address decides first, as in R173 (log entry 20, DEDUCED). -/
def copyAddressFault (mem : List Nat) (aligned : List (Nat × Nat × Nat)) : Option (Nat × Nat) :=
  match mem.find? fun a => decide (2 ^ 56 ≤ a) with
  | some a => some (a, 0x08)
  | none => (aligned.find? fun x => x.1 % x.2.1 != 0).map fun x => (x.2.2, 0x06)

/-- Barrier i is beyond the barriers of a team. -/
def State.noBarrier (s : State) (tid i : Nat) : Bool := (s.barrier? tid i).isNone

/-! ## CPY (R366) -/

/-- Check 1, 4, 5 or 6 of R368 on one lane: source s, destination d. The address of the record and the code. -/
def Ctx.cpyFault (c : Ctx) (lane ctl s d check : Nat) : Option (Nat × Nat) :=
  let z := ctlSize ctl
  let dsp := ctlDsp ctl
  match check with
  | 1 => if ctlMode ctl = 3 || field ctl 2 2 = 3 then some (0, 0x01) else none
  | 4 =>
    copyAddressFault (if dsp then [s] else [s, d])
      ([(s, z, s), (d, z, if dsp then 0 else d)] ++ (if ctlMode ctl = 2 then [(ctlStamp ctl, 8, ctlStamp ctl)] else []))
  | 5 => if dsp && decide (c.window lane < d + z) then some (0, 0x07) else none
  | _ => if ctlMode ctl = 1 && c.s.noBarrier (c.g.lane lane).team (ctlBarrier ctl) then some (0, 0x09) else none

/-- CPY: z bytes for each lane of Issue (R366). -/
def execCpy (o : ArgsM) (s : State) : Host.Outcome State Fault Refusal :=
  s.word (some o.g) { vr := [o.t, o.idx], sr := regsFrom o.base 4 } fun c =>
    c.counted o.ctr c.issue <|
    let ctl := (c.sv c.issue (o.base + 2) 2).toNat
    let stamp := c.sv c.issue (o.base + 3) 3
    let src : Nat → Nat := fun l => (c.sLane l (o.base + 1) 4 + (c.v l o.t 5).setWidth 64).toNat
    let dst : Nat → Nat := fun l => if ctlDsp ctl then c.offset l o.base o.idx else c.address l o.base o.idx
    let as := c.issue.map fun l => (l, src l, dst l)
    c.checkInTurn 4 ([1, 4, 5, 6].map fun k =>
      as.map fun (l, a, d) => let f := c.cpyFault l ctl a d k; (l, (f.map (·.1)).getD 0, f.map (·.2))) <|
    let done := ctlDone ctl stamp
    c.start { kind := .copy true (ctlDsp ctl) done, ctr := o.ctr, lanes := c.issue,
              parts := (as.map fun (l, a, d) => { Part.new l a (ctlSize ctl) with addr2 := d }) ++ done.parts }

/-! ## CPYT and CPYN (R367, R369) -/

/-- A request block. -/
structure CopyBlock where
  src : Nat
  dst : Nat
  rowLen : Nat
  rows : Nat
  sstr : Nat
  dstr : Nat
  deriving DecidableEq, Repr

/-- Decode the 32 bytes of a block. -/
def copyBlock (x : Nat) : CopyBlock where
  src := field x 0 64
  dst := field x 64 64
  rowLen := field x 128 32
  rows := field x 160 32
  sstr := field x 192 32
  dstr := field x 224 32

/-- The words of a block: source and destination, row after row; a destination in the scratchpad wraps at 32 bits. -/
def CopyBlock.words (b : CopyBlock) (dsp : Bool) : List (Nat × Nat) :=
  (List.range b.rows).flatMap fun i => (List.range (b.rowLen / 4)).map fun k =>
    ((b.src + i * b.sstr + 4 * k) % 2 ^ 64, if dsp then (b.dst + i * b.dstr) % 2 ^ 32 + 4 * k else (b.dst + i * b.dstr + 4 * k) % 2 ^ 64)

/-- Checks 2 (fields) and 4 of R368 on a block; CPYN has no destination in memory and no destination stride. -/
def CopyBlock.fault (b : CopyBlock) (dsp net : Bool) (stamp : Option Nat) : Option (Nat × Nat) :=
  if decide (65536 < b.rowLen) || decide (65535 < b.rows) then some (0, 0x09)
  else
    let ws := b.words dsp
    copyAddressFault ((ws.map (·.1)) ++ (if dsp || net then [] else ws.map (·.2)))
      ([(b.src, 4, b.src), (b.dst, 4, if dsp || net then 0 else b.dst), (b.sstr, 4, 0), (b.rowLen, 4, 0)]
        ++ (if net then [] else [(b.dstr, 4, 0)]) ++ stamp.toList.map fun a => (a, 8, a))

/-- A copy word of the whole group: the checks of R368 in their order, for the owner of the group's slot, then the parts (log entry 19, DEDUCED). -/
def State.blockCopy (s : State) (t base ctr : Nat) (sr : List Nat) (sq : Option Nat) : Host.Outcome State Fault Refusal :=
  s.joined none { sr := sr } fun c =>
    c.counted ctr c.g.alive <|
    let ctl := (c.s1 t 1).toNat
    let stamp := c.s1 (t + 1) 2
    let at_ := field (c.s1 base 3).toNat 0 32
    let net := sq.isSome
    let dsp := ctlDsp ctl
    let kill : (code : Nat) → (vaddr : optParam Nat 0) → State := fun code vaddr => c.s.killGroup c.g.gid code { vaddr := vaddr, acc := 4 }
    match s.team? c.g.owner with
    | none => s
    | some tm =>
      if ctlMode ctl = 3 || (net && dsp) then kill 0x01
      else if at_ % 32 ≠ 0 then kill 0x06
      else if tm.window < at_ + 32 then kill 0x07
      else
        let b := copyBlock (tm.read at_ 32)
        match b.fault dsp net (if ctlMode ctl = 2 then some (ctlStamp ctl) else none) with
        | some (a, code) => kill code a
        | none =>
          let ws := b.words dsp
          let q := (sq.map fun r => (c.s1 r 4).toNat).getD 0
          let bound := (assoc s.sendq (field q 0 10)).map fun (r : BitVec 128) => r.getLsbD 0 && field r.toNat 52 12 == c.ctx
          if dsp && ws.any (fun w => decide (tm.window < w.2 + 4)) then kill 0x07
          else if ctlMode ctl = 1 && s.noBarrier tm.tid (ctlBarrier ctl) then kill 0x09
          else if net && bound != some true then kill 0x09
          else
            let done := ctlDone ctl stamp
            let parts := (ws.zipIdx.map fun ((a, d), i) => { Part.new i a 4 with addr2 := d }) ++ done.parts
            let kind : OpKind := if net then .send (field q 0 10) (field q 16 10) (BitVec.ofNat 32 (field q 32 32)) (BitVec.ofNat 64 b.dst) done
              else .copy false dsp done
            c.start { kind := kind, ctr := ctr, lanes := c.g.alive, parts := parts, team := some tm.tid }

/-- CPYT (R369). -/
def execCpyt (o : ArgsMTB) (s : State) : Host.Outcome State Fault Refusal :=
  s.blockCopy o.t o.base o.ctr (o.base :: pairOf o.t) none

/-- CPYN (R369). -/
def execCpyn (o : ArgsM) (s : State) : Host.Outcome State Fault Refusal :=
  s.blockCopy o.t o.base o.ctr (o.base :: o.idx :: pairOf o.t) (some o.idx)

/-! ## Reading the source (R370) -/

/-- The writer slot under which a part's copy reads and writes: its team's, or the one that a COPY command holds. -/
def State.copySlot (s : State) (o : Op) (lane : Nat) : Nat :=
  match o.kind with
  | .copyCommand _ _ _ => ((s.holders.find? fun h => h.2 == .copy o.id).map (·.1)).getD Config.writerSlots
  | _ => ((s.team? (if lane < 32 then s.partTeam o lane else o.team)).map Team.slot).getD Config.writerSlots

/-- The units in which a copy's part of n bytes reads or writes at an address there, as offset and size: a lane's bytes of CPY whole in local memory and in
the scratchpad (R366), naturally aligned parts of 8 bytes or less in host memory, and else bytes (R254). -/
def copyUnits (o : Op) (tgt addr n : Nat) : List (Nat × Nat) :=
  if tgt = 1 then pieces addr n else if o.kind.perLane then [(0, n)] else (List.range n).map fun k => (k, 1)

/-- The units in which a copy's part of n bytes lands: a lane's bytes of CPY in one step at any destination (R366), the others' as they
are read. -/
def landUnits (o : Op) (tgt addr n : Nat) : List (Nat × Nat) := if o.kind.perLane then [(0, n)] else copyUnits o tgt addr n

/-- Those bytes of a local source that are left are read, and with them the part (R234, R370). An uncorrectable sector ends the group; it fails a command
(log entry 22, DEDUCED). -/
def State.readRest (s : State) (o : Op) (p : Part) (f : Phys) (left : List Nat) (got : BitVec 128) : State :=
  let slot := s.copySlot o p.lane
  if !s.lineReady (lineOf f.addr) slot then s.fill (lineOf f.addr) slot
  else if s.lost.contains (lineOf f.addr) && left.any fun k => cellsIf (within (f.addr + k) 1) (s.pendingOf slot) == [] then s.failPart o p p.addr 0x0F
  else
    s.setDone o.id p.lane (left.foldl (fun (y : BitVec 128) k => y ||| BitVec.ofNat 128 (s.teamView slot (f.addr + k) 1 * 256 ^ k)) got)

/-- A word or a lane's bytes are read, once translated: in the team's view, once L2 holds the line (R316), from host memory, or at a peer (R370, R182). An uncorrectable
sector ends the group; it fails a command (log entry 22, DEDUCED). -/
def State.readCopy (s : State) (o : Op) (p : Part) : State :=
  match p.st with
  | .ready f =>
    let slot := s.copySlot o p.lane
    if p.isStamp then s
    else if f.tgt = 0 && !s.lineReady (lineOf f.addr) slot then s.fill (lineOf f.addr) slot
    else if f.tgt = 0 then
      if s.lost.contains (lineOf f.addr) && decide ((cellsIf (within f.addr p.len) (s.pendingOf slot)).length < p.len) then
        s.failPart o p p.addr 0x0F
      else s.setDone o.id p.lane (BitVec.ofNat 128 (s.teamView slot f.addr p.len))
    else if f.tgt = 1 then s.setDone o.id p.lane (BitVec.ofNat 128 (s.hostMem.nat f.addr p.len))
    else
      let s : State := (pieces f.addr p.len).foldl (fun (s : State) (k, _) =>
        s.request (s.packet f.dev kLdreq slot 0 (f.addr + k) []) kLdrsp o.id p.lane k) s
      s.modOp o.id fun o => o.modPart p.lane fun p => { p with st := .remote f ((pieces f.addr p.len).map (·.1)) 0 }
  | .remote f left got =>
    if f.tgt = 0 then s.readRest o p f left got
    else if f.tgt = 1 then
      s.setDone o.id p.lane (((copyUnits o 1 f.addr p.len).filter fun x => left.contains x.1).foldl
        (fun (y : BitVec 128) x => y ||| BitVec.ofNat 128 (s.hostMem.nat (f.addr + x.1) x.2 * 256 ^ x.1)) got)
    else s
  | _ => s

/-! ## Landing (R370, R371) -/

/-- The kinds of copies. -/
def OpKind.isCopy : OpKind → Bool
  | .copy _ _ _ => true
  | .send _ _ _ _ _ => true
  | .copyCommand _ _ _ => true
  | _ => false
/-- It sends a message. -/
def OpKind.isSend : OpKind → Bool
  | .send _ _ _ _ _ => true
  | _ => false
/-- Its completion. -/
def OpKind.copyDone : OpKind → CopyDone
  | .copy _ _ d => d
  | .send _ _ _ _ d => d
  | .copyCommand _ _ d => d
  | _ => .none

/-- A write must land after another of its word: one with a lower number and a destination in common (R366, R369); the bytes of a message are
acknowledged in their order. -/
def landsAfter (o : Op) (p q : Part) : Bool :=
  decide (q.lane < p.lane) && !q.isCompleted && (o.kind.isSend || rangesMeet p.addr2 p.len q.addr2 q.len)

/-- The bytes that have been read can land now. -/
def State.landDue (s : State) (o : Op) (p : Part) : Bool :=
  (match p.st with | .done _ => true | _ => false)
    && o.kind.isCopy && s.opLive o && !p.isStamp && !(o.parts.any fun q => !q.isStamp && landsAfter o p q)

/-- The bytes of a part that have not landed ahead of the others; those that have are marked in its second datum (R234). -/
def Part.unlanded (p : Part) : List Nat := (List.range p.len).filter fun k => !p.data2.getLsbD k
/-- Mark n bytes from an offset on landed. -/
def State.setLanded (s : State) (id lane k n : Nat) : State :=
  s.modOp id fun o => o.modPart lane fun p => { p with data2 := p.data2 ||| BitVec.ofNat 128 ((2 ^ n - 1) * 2 ^ k) }
/-- Bytes of a value, at the offsets of a list, as cells from an address on. -/
def cellsAtOffsets (a n x : Nat) (ks : List Nat) : Overlay := cellsIf (fun b => ks.contains (b - a)) (cellsOf a n x)

/-- COPY_WRITE_LAND: the bytes of a part land at their destination, or the transport acknowledges them; a byte barrier counts them (R370,
R371). -/
def execCopyWriteLand (id lane : Nat) (s : State) : Host.Outcome State Fault Refusal :=
  .next (match s.op? id with
    | none => s
    | some o =>
      match o.part? lane with
      | none => s
      | some p =>
        if !s.landDue o p then s
        else
          let x := match p.st with | .done x => x.toNat | _ => 0
          let tid := if o.kind.perLane then s.partTeam o lane else o.team
          let s : State := s.modOp id fun o => o.modPart lane fun p => { p with st := .completed, data := BitVec.ofNat 128 x }
          let s : State :=
            if o.kind.isSend then s
            else
              match p.dst with
              | some d =>
                if d.tgt = 0 then s.landBytes (s.copySlot o lane) (cellsAtOffsets d.addr p.len x p.unlanded)
                else { s with hostMem := s.hostMem.overlay (cellsAtOffsets d.addr p.len x p.unlanded) }
              | none => s.modTeam tid fun t => p.unlanded.foldl (fun t k => t.write (p.addr2 + k) 1 (x / 256 ^ k % 256)) t
          match o.kind.copyDone with
          | .barrier n => s.byteArrive tid n p.unlanded.length
          | _ => s)

/-! ## Completion (R369, R372) -/

/-- The local lines that a copy wrote under a slot. -/
def State.copyLines (s : State) (o : Op) (slot : Nat) : List Nat :=
  o.parts.foldl (fun l p =>
    match p.dst with
    | some d => if d.tgt = 0 && s.copySlot o p.lane == slot then addNew l (lineOf d.addr) else l
    | none => l) []

/-- The slots under which it wrote. -/
def State.copySlots (s : State) (o : Op) : List Nat :=
  o.parts.foldl (fun l p => if (p.dst.map (·.tgt)) == some 0 then addNew l (s.copySlot o p.lane) else l) []

/-- Step 2 of R372: what the copy wrote and is still pending is published, with its team's other pending bytes in those sectors. -/
def State.publishCopy (s : State) (o : Op) : State :=
  (s.copySlots o).foldl (fun (s : State) slot =>
    let lines := s.copyLines o slot
    if (s.pendingOf slot).any fun c => lines.contains (lineOf c.1) then s.publishPart slot (fun a => lines.contains (lineOf a)) [] else s) s

/-- Step 3: the stamp is written, on a local page with the publication of its sector. -/
def State.writeStamp (s : State) (o : Op) (f : Phys) (x : DWord) : State :=
  if f.tgt = 0 then s.publishPart (s.copySlot o stampPiece) (fun b => lineOf b == lineOf f.addr) (cellsOf f.addr 8 x.toNat)
  else { s with hostMem := s.hostMem.putNat f.addr 8 x.toNat }

/-- Step 4: the counters of the counted lanes fall; a command completes and frees its slot. -/
def State.endCopy (s : State) (o : Op) : State :=
  match o.kind with
  | .copyCommand q k _ =>
    let s : State := { s with holders := s.holders.filter fun h => h.2 != .copy o.id }
    (s.dropOp o.id).completeCommand q k 0
  | _ => s.finishAll o.id

/-- Every part of the payload has landed. -/
def Op.landedAll (o : Op) : Bool := o.parts.all fun p => p.isStamp || p.isCompleted

/-- A message of an ordered queue waits for the earlier messages of the queue (R399). -/
def State.sendBlocked (s : State) (o : Op) (sq : Nat) : Bool :=
  (((assoc s.sendq sq).map fun (r : BitVec 128) => r.getLsbD 48).getD false)
    && s.ops.any fun e => decide (e.id < o.id) && e.aux == 0 && (match e.kind with | .send sq' _ _ _ _ => sq' == sq | _ => false)

/-- The message of a CPYN whose rows have all been read (R399): its bytes in row order, the peer and the port of its queue (R398). -/
def State.messageOf (s : State) (sq rq : Nat) (tag : BitVec 32) (off : DWord) (vals : List Byte) : NetMessage :=
  let r : BitVec 128 := (assoc s.sendq sq).getD 0
  { peer := BitVec.ofNat 64 (field r.toNat 64 64), rq := rq, port := field r.toNat 49 3, tag := tag, off := off, data := vals }

/-- The bytes that a send read. -/
def Op.sentBytes (o : Op) : List Byte := (o.parts.filter fun p => !p.isStamp).flatMap fun p => leBytes p.len p.data.toNat

/-- The last steps: the stamp where there is one, then the counters. `x` changes the stamp of an abandoned message. -/
def State.stampAndEnd (s : State) (o : Op) (flip : DWord) : State :=
  match o.kind.copyDone with
  | .stamp _ v =>
    match o.part? stampPiece with
    | some p =>
      match p.st with
      | .ready f => (s.writeStamp o f (v ^^^ flip)).endCopy o
      | _ => s
    | none => s
  | _ => s.endCopy o

/-- COPY_COMPLETE: the next of the last steps of R372; one event publishes (or delivers the message, R369), the next stamps and completes. -/
def execCopyComplete (id : Nat) (s : State) : Host.Outcome State Fault Refusal :=
  .next (match s.op? id with
    | none => s
    | some o =>
      if !o.kind.isCopy || !s.opLive o || !o.landedAll then s
      else if o.aux = 0 then
        match o.kind with
        | .send sq rq tag off _ =>
          if s.sendBlocked o sq then s
          else
            let m := s.messageOf sq rq tag off o.sentBytes
            let s : State := s.modOp id fun o => { o with aux := 1 }
            if m.data = [] then s else { s with messages := m :: s.messages }
        | _ => (s.modOp id fun o => { o with aux := 1 }).publishCopy o
      else if o.aux = 1 then s.stampAndEnd o 0
      else s.stampAndEnd o (BitVec.ofNat 64 (2 ^ 63)))

/-- CPYN_ABANDON: the transport gives a message up after its retry limit: the named barrier breaks, or the stamp will show it (R369). -/
def execCpynAbandon (id : Nat) (s : State) : Host.Outcome State Fault Refusal :=
  .next (match s.op? id with
    | none => s
    | some o =>
      if !o.kind.isSend || !s.opLive o || o.aux ≠ 0 || o.parts.any Part.isHeld then s
      else
        let s : State := s.modOp id fun o => { o with
          aux := 2, parts := o.parts.map fun (p : Part) => if p.isStamp then p else { p with st := .completed } }
        match o.kind.copyDone with
        | .barrier n => s.breakBarrier o.team n
        | _ => s)

end Sys2Proof.Machine
end

