-- ==== Sys2Proof/Machine/Nearmem.lean ====
section
/-!
DEFINITION. Near-memory calls (24_engines R376 to R385): NMC, the firmware entries, leases, the watchdog. A call that a sequencer has begun goes on step by step
(Ahead); the event of its entry does what is left of it.
-/
namespace Sys2Proof.Machine

/-! ## Issue (R376) -/

/-- The words of an argument block. -/
def argWords (x : Nat) : List Word := (List.range 16).map fun i => BitVec.ofNat 32 (x / 2 ^ (32 * i))

/-- NMC: the argument block is read at issue; the target's address is then translated as for lane 0 (R376). -/
def execNmc (o : ArgsNmc) (s : State) : Host.Outcome State Fault Refusal :=
  s.joined none { sr := [o.base], sw := pairOf o.t } fun c =>
    c.counted o.ctr c.g.alive <|
    let a := field (c.s1 o.base).toNat 0 32
    match s.team? c.g.owner with
    | none => s
    | some tm =>
      if a % 64 ≠ 0 then s.killGroup c.g.gid 0x06 { acc := 6 }
      else if tm.window < a + 64 then s.killGroup c.g.gid 0x07 { acc := 6 }
      else
        let x := tm.read a 64
        let va := field x 0 64
        if 2 ^ 56 ≤ va then s.killGroup c.g.gid 0x08 { mask := some 1, vaddr := va, acc := 6 }
        else
          c.start { kind := .nmc o.entry (argWords x) o.t, ctr := o.ctr, lanes := c.g.alive, parts := [Part.new 0 va 1],
                    sdests := pairOf o.t, team := some tm.tid }

/-! ## Calls that wait (R381, R382) -/

/-- P of the argument block. -/
def argP (args : List Word) (i : Nat) : Nat := (wordAt args (2 + i)).toNat
/-- The bank mask: banks whose bit is set. -/
def banksOf (args : List Word) : List Nat := (List.range 16).filter fun b => (argP args 3).testBit b

/-- The pseudo-channel of an extent: its home stack and PC. -/
def Extent.channel (e : Extent) : Nat × Nat := (e.home, e.pc)
/-- Its lease is lost. -/
def Team.leaseLost (t : Team) : Bool :=
  match t.lease with
  | .lost => true
  | _ => false
/-- Its lease is saved and not established again. -/
def Team.leaseSaved (t : Team) : Bool :=
  match t.lease with
  | .saved _ _ _ _ _ => true
  | _ => false

/-- A call of another team is under way on the pseudo-channel. -/
def State.channelBusy (s : State) (tid : Nat) (ch : Nat × Nat) : Bool :=
  s.seqs.any fun r =>
    match s.op? r.op with
    | some o => o.team != tid && (s.extent? o.aux).map Extent.channel == some ch
    | none => false
/-- Another team holds the pseudo-channel. -/
def State.channelTaken (s : State) (tid : Nat) (ch : Nat × Nat) : Bool :=
  (s.teams.any fun t => t.tid != tid && t.leased == some ch) || s.channelBusy tid ch
/-- The bound of its lease has passed: the lease is about to be lost (R382). -/
def Team.leaseExpired (t : Team) : Bool :=
  match t.lease with
  | .held _ _ used => decide (Config.leaseBound * 27 ≤ used)
  | _ => false

/-- The call of an operation: its entry and arguments. -/
def Op.call? (o : Op) : Option (Nat × List Word) :=
  match o.kind with
  | .nmc e a _ => some (e, a)
  | _ => none

/-- A call at a stack can be performed: its group is not saved, no earlier call of its group waits, its team's lease is neither saved nor past its bound, and no
other team's lease keeps the pseudo-channel from it. -/
def State.callReady (s : State) (id : Nat) : Bool :=
  match s.op? id with
  | none => false
  | some o =>
    s.opLive o && !(s.ops.any fun e => e.gid == o.gid && decide (e.id < o.id) && e.call?.isSome)
      && !(((s.team? o.team).map fun t => t.leaseSaved || t.leaseExpired).getD false)
      && match s.extent? o.aux with
        | some x => !(x.kind == 2 && s.channelTaken o.team x.channel)
        | none => true

/-- The call that a stack's sequencer has begun. -/
def State.begun (s : State) (stack : Nat) : Option CallRun := s.seqs.find? fun r => r.stack == stack && (s.op? r.op).isSome
/-- How far an operation's call has come, if its sequencer has begun it. -/
def State.callRun? (s : State) (id : Nat) : Option CallRun := s.seqs.find? fun r => r.op == id

/-- The call that a stack's sequencer can perform, one at a time: the one it has begun, or else the first in the queue that can be (R381). -/
def State.callAt (s : State) (stack : Nat) : Option Op :=
  match s.begun stack with
  | some r => if s.callReady r.op then s.op? r.op else none
  | none => (s.calls.find? fun c => c.1 == stack && s.callReady c.2).bind fun c => s.op? c.2

/-! ## The DMUs of a pseudo-channel (R21) -/

/-- A cleared pseudo-channel. -/
def Dmu.zero (stack channel : Nat) : Dmu where
  stack := stack
  channel := channel
  bcast := List.replicate 16 (List.replicate 256 0)
  acc := List.replicate 16 (List.replicate 64 0)

/-- The DMU state of a pseudo-channel. -/
def State.dmu (s : State) (ch : Nat × Nat) : Dmu :=
  (s.dmus.find? fun d => d.stack == ch.1 && d.channel == ch.2).getD (Dmu.zero ch.1 ch.2)
/-- Replace it. -/
def State.putDmu (s : State) (d : Dmu) : State :=
  { s with dmus := d :: s.dmus.filter fun x => !(x.stack == d.stack && x.channel == d.channel) }
/-! ## Atoms (R308) -/

/-- The address of an atom: extent, row, atom, bank. -/
def atomAddr (ext row atom bank : Nat) : Nat := ext * 2 ^ 26 + row * 2 ^ 14 + atom * 2 ^ 9 + bank * 2 ^ 5

/-- Every atom of rows of banks: row, atom, bank. -/
def atomsOf (row n : Nat) (banks : List Nat) : List (Nat × Nat × Nat) :=
  (List.range n).flatMap fun i => (List.range 32).flatMap fun j => banks.map fun b => (row + i, j, b)

/-- The subarray of an extent row (R308). -/
def subarray (row : Nat) : Nat := field row 9 3

/-- What a call reads: the team's view (R380), with the bytes that it has read already as they were (R234). -/
def State.callView (s : State) (o : Op) (a n : Nat) : Nat :=
  let x := s.teamView (((s.team? o.team).map Team.slot).getD Config.writerSlots) a n
  match s.callRun? o.id with
  | none => x
  | some r => (List.range n).foldl (fun acc k => acc + ((cellAt r.got (a + k)).getD (BitVec.ofNat 8 (x / 256 ^ k))).toNat * 256 ^ k) 0

/-- The writes of a call, atom by atom: address and 32 bytes (R378). -/
def State.callWrites (s : State) (o : Op) : List (Nat × Nat) :=
  match o.call?, s.extent? o.aux with
  | some (e, a), some x =>
    let banks := banksOf a
    match e with
    | 0 | 2 =>
      (atomsOf 0 (argP a 2) banks).map fun (i, j, b) =>
        (atomAddr x.num (argP a 1 + i) j b, s.callView o (atomAddr x.num (argP a 0 + i) j b) 32)
    | 1 => (atomsOf (argP a 1) (argP a 2) banks).map fun (r, j, b) => (atomAddr x.num r j b, 0)
    | 10 =>
      let w := argP a 4
      (atomsOf (argP a 1) (argP a 2) banks).map fun (r, j, b) =>
        (atomAddr x.num r j b, (List.range 8).foldl (fun acc k => acc + w * 2 ^ (32 * k)) 0)
    | 6 =>
      let d := s.dmu x.channel
      banks.flatMap fun b => (List.range 8).map fun j =>
        (atomAddr x.num (argP a 0) (argP a 1 + j) b,
         (List.range 8).foldl (fun acc k => acc + (wordAt (d.acc.getD b []) (8 * j + k)).toNat * 2 ^ (32 * k)) 0)
    | _ => []
  | _, _ => []

/-- The atoms that a call has still to write. -/
def State.callLeft (s : State) (o : Op) : List (Nat × Nat) := ((s.callRun? o.id).bind (·.left)).getD (s.callWrites o)

/-- The bytes of one atom are published under the team's slot, without a mark step (R380). -/
def State.putAtom (s : State) (slot a x : Nat) : State :=
  (s.setPub slot).commitImage (cellsOf a 32 x) slot (s.mark slot) (s.mark slot + 1) false
/-- One atom is written, and no cached copy of its line is left (R380). -/
def State.writeAtom (s : State) (slot a x : Nat) : State :=
  let s : State := s.putAtom slot a x
  { s with
    l1 := s.l1.filter fun l => l.line != lineOf a
    l2 := s.l2.filter fun l => l.line != lineOf a }

/-- Write atoms one after another. -/
def State.writeAtoms (s : State) (slot : Nat) (l : List (Nat × Nat)) : State := l.foldl (fun s w => s.writeAtom slot w.1 w.2) s

/-! ## Status (R377) -/

/-- Entries that need a lease (R378). -/
def needsLease (e : Nat) : Bool := e == 4 || e == 5 || e == 6 || e == 8

/-- A count of rows from a first row on is in range (R378). -/
def rowsOk (row n : Nat) : Bool := decide (1 ≤ n) && decide (n ≤ 512) && decide (row + n ≤ 4096)

/-- Condition 4: indices, counts and row ranges. -/
def rangeOk (e : Nat) (a : List Word) : Bool :=
  let p := argP a
  match e with
  | 0 | 2 => rowsOk (p 0) (p 2) && rowsOk (p 1) (p 2)
  | 1 | 10 => rowsOk (p 1) (p 2)
  | 4 => decide (p 0 < 4096) && decide (p 1 ≤ 15) && decide (p 2 ≤ 16)
  | 5 =>
    decide (1 ≤ p 1) && decide (p 1 ≤ 64) && decide (p 2 + p 1 ≤ 64) && decide (p 4 + 15 * p 5 + 15 ≤ 255)
      && decide (p 0 * 32 + p 1 ≤ 4096 * 32)
  | 6 => decide (p 0 < 4096) && p 1 % 8 == 0 && decide (p 1 ≤ 24)
  | _ => true

/-- Condition 5: the rows of ROWCOPY stand in one subarray. -/
def subarrayOk (e : Nat) (a : List Word) : Bool :=
  e != 0 || (List.range (argP a 2)).all fun i => subarray (argP a 0 + i) == subarray (argP a 1 + i)

/-- The status of a call that changes nothing, or none where it goes through (R377). -/
def State.callRefused (s : State) (o : Op) : Option Nat :=
  match o.call?, s.team? o.team with
  | some (e, a), some t =>
    if 11 ≤ e then some 0x20
    else
      match s.extent? o.aux with
      | none => some 0x21
      | some x =>
        if x.kind ≠ 2 then some 0x21
        else if e = 3 && t.leaseLost then some 0x13
        else if e = 3 && t.leased.isSome then some 0x25
        else if needsLease e && t.leaseLost then some 0x13
        else if needsLease e && t.leased != some x.channel then some 0x24
        else if !rangeOk e a then some 0x22
        else if !subarrayOk e a then some 0x23
        else none
  | _, _ => some 0x20

/-! ## Performing a call -/

/-- The cached copies of the lines of atoms are invalidated (R380). -/
def State.dropCopies (s : State) (ws : List (Nat × Nat)) : State :=
  { s with
    l1 := s.l1.filter fun l => !(ws.any fun w => lineOf w.1 == l.line)
    l2 := s.l2.filter fun l => !(ws.any fun w => lineOf w.1 == l.line) }

/-- A call is over with a status and, where the manual gives one, a result, which its completion delivers; any other result is free (log entry 7, DESIGN CHOICE).
No cached copy of a line that it wrote is left. -/
def State.endCall (s : State) (o : Op) (status : Nat) (result : Option Nat) : State :=
  match o.kind with
  | .nmc _ _ t =>
    let x : DWord := (result.map (BitVec.ofNat 64)).getD
      (Word.pair (Config.freeWord s.serial o.id 13) (Config.freeWord s.serial o.id 14))
    let s : State := (((s.callRun? o.id).map fun r => s.dropCopies r.was).getD s)
    let s : State := { s with
      calls := s.calls.filter fun c => c.2 != o.id
      seqs := s.seqs.filter fun r => r.op != o.id }
    s.outcome o.id t (BitVec.ofNat 64 status) x
  | _ => s

/-- The call that a stack performs, if it is of that entry, with the rest of what it does: the writes that were left have been made. -/
def State.entry (s : State) (stack e : Nat) (k : State → Op → List Word → Extent → State) : Host.Outcome State Fault Refusal :=
  .next (match s.callAt stack with
    | none => s
    | some o =>
      match o.call? with
      | none => s
      | some (e', a) =>
        if e' ≠ e then s
        else
          match s.callRefused o with
          | some status => s.endCall o status none
          | none =>
            match s.extent? o.aux with
            | none => s
            | some x =>
              let slot := ((s.team? o.team).map Team.slot).getD Config.writerSlots
              k (s.writeAtoms slot (s.callLeft o)) o a x)

/-- ROWCOPY (R378). -/
def execRowcopy (stack : Nat) (s : State) : Host.Outcome State Fault Refusal := s.entry stack 0 fun s o _ _ => s.endCall o 0 none

/-- ROWZERO (R378). -/
def execRowzero (stack : Nat) (s : State) : Host.Outcome State Fault Refusal := s.entry stack 1 fun s o _ _ => s.endCall o 0 none

/-- BUFCOPY (R378). -/
def execBufcopy (stack : Nat) (s : State) : Host.Outcome State Fault Refusal := s.entry stack 2 fun s o _ _ => s.endCall o 0 none

/-- ABENTER: the team takes the lease, and the DMUs of the channel are zero (R382). -/
def execAbenter (stack : Nat) (s : State) : Host.Outcome State Fault Refusal :=
  s.entry stack 3 fun s o _ x =>
    ((s.modTeam o.team fun t => { t with lease := .held x.home x.pc 0 }).zeroDmu x.channel).endCall o 0 none

/-- BCAST: 512 bytes of a bank row go to the broadcast register of every DMU (R378). -/
def execBcast (stack : Nat) (s : State) : Host.Outcome State Fault Refusal :=
  s.entry stack 4 fun s o a x =>
    let es : List Word := (List.range 256).map fun i =>
      BitVec.ofNat 32 (s.callView o (atomAddr x.num (argP a 0) (argP a 2 + i / 16) (argP a 1) + 2 * (i % 16)) 2)
    (s.putDmu { s.dmu x.channel with bcast := List.replicate 16 es }).endCall o 0 none

/-- The accumulator of a bank for atom j after GEMV's 16 steps (R379). -/
def gemvAcc (bc : List Word) (base c w : Nat) : Nat :=
  (List.range 16).foldl (fun acc e =>
    (F32.round ((F32.value acc).add (((F16.value ((wordAt bc (base + e)).toNat)).mul (F16.value (w / 2 ^ (16 * e) % 2 ^ 16))).1) 0).1 0).1) c

/-- GEMV (R379). -/
def execGemv (stack : Nat) (s : State) : Host.Outcome State Fault Refusal :=
  s.entry stack 5 fun s o a x =>
    let d := s.dmu x.channel
    let banks := banksOf a
    let one : Nat → List Word → List Word := fun b acc =>
      acc.zipIdx.map fun (c, i) =>
        if argP a 2 ≤ i && decide (i < argP a 2 + argP a 1) then
          let j := argP a 0 * 32 + (i - argP a 2)
          BitVec.ofNat 32 (gemvAcc (d.bcast.getD b []) (argP a 4 + b * argP a 5) c.toNat
            (s.callView o (atomAddr x.num (j / 32) (j % 32) b) 32))
        else c
    (s.putDmu { d with acc := d.acc.zipIdx.map fun (acc, b) => if banks.contains b then one b acc else acc }).endCall o 0 none

/-- READACC (R378). -/
def execReadacc (stack : Nat) (s : State) : Host.Outcome State Fault Refusal := s.entry stack 6 fun s o _ _ => s.endCall o 0 none

/-- ABEXIT: an established lease ends; a lost one is cleared, with status 0x13; none is no error (R382). -/
def execAbexit (stack : Nat) (s : State) : Host.Outcome State Fault Refusal :=
  s.entry stack 7 fun s o _ _ =>
    match s.team? o.team with
    | none => s
    | some t =>
      let s' : State := s.modTeam o.team fun t => { t with lease := .none }
      match t.leased with
      | some ch => (s'.zeroDmu ch).endCall o 0 none
      | none => s'.endCall o (if t.leaseLost then 0x13 else 0) none

/-- ACCCLR (R378). -/
def execAccclr (stack : Nat) (s : State) : Host.Outcome State Fault Refusal :=
  s.entry stack 8 fun s o a x =>
    let d := s.dmu x.channel
    (s.putDmu { d with acc := d.acc.zipIdx.map fun (acc, b) => if (banksOf a).contains b then List.replicate 64 0 else acc }).endCall o 0 none

/-- Memory cycles left on a lease, 0 without an established one (R378). -/
def Team.leaseLeft (t : Team) : Nat :=
  match t.lease with
  | .held _ _ used => Config.leaseBound - used / 27
  | _ => 0

/-- LEASEQ (R378). -/
def execLeaseq (stack : Nat) (s : State) : Host.Outcome State Fault Refusal :=
  s.entry stack 9 fun s o _ _ => s.endCall o 0 (some (((s.team? o.team).map Team.leaseLeft).getD 0))

/-- ROWFILL (R378). -/
def execRowfill (stack : Nat) (s : State) : Host.Outcome State Fault Refusal := s.entry stack 10 fun s o _ _ => s.endCall o 0 none

/-- A call of an entry that does not exist completes with 0x20 in its turn at its sequencer (R377, R381). -/
def State.noEntry (s : State) (o : Op) : State :=
  match o.call?, s.calls.find? fun c => c.2 == o.id with
  | some (e, _), some c => if 11 ≤ e && s.callAt c.1 == some o then s.endCall o 0x20 none else s
  | _, _ => s

/-! ## Leases and the watchdog (R382 to R384) -/

/-- A call is cut off at an atom boundary: what it has written remains, and it returns 0x13 (R382, R385). -/
def State.cutCall (s : State) (o : Op) : State := s.endCall o 0x13 none

/-- LEASE_BOUND: the bound of a lease has passed; a call of the holder that is under way is cut off, and the lease is lost (R382). -/
def execLeaseBound (tid : Nat) (s : State) : Host.Outcome State Fault Refusal :=
  .next (match s.team? tid with
    | none => s
    | some t =>
      match t.lease with
      | .held k c used =>
        if used < Config.leaseBound * 27 then s
        else
          let s : State := match (s.begun k).bind fun r => s.op? r.op with
            | some o => if o.team = tid then s.cutCall o else s
            | none => s
          (s.modTeam tid fun t => { t with lease := .lost }).zeroDmu (k, c)
      | _ => s)

/-- The watchdog of a sequencer fires: the call has run for 200,000 memory cycles, or no micro-word has retired for 8,192 (R384). -/
def CallRun.hangs (r : CallRun) : Bool := decide (200000 * 27 ≤ r.ran) || decide (8192 * 27 ≤ r.quiet)

/-- SEQUENCER_WATCHDOG: a call hangs; the sequencer and the banks are reset, the lease on them ends, the control store is loaded again, the call returns 0x13, and
each byte of its extent holds a value that it held or that the call could have written there (R384; log entry 7, DESIGN CHOICE). -/
def execSequencerWatchdog (stack : Nat) (s : State) : Host.Outcome State Fault Refusal :=
  .next (match s.begun stack with
    | none => s
    | some r =>
      match s.op? r.op with
      | none => s
      | some o =>
        match s.extent? o.aux with
        | none => s
        | some x =>
          if !r.hangs then s
          else
            let slot := ((s.team? o.team).map Team.slot).getD Config.writerSlots
            let ws := r.was ++ s.callLeft o
            let serial := s.serial
            let bytes := (ws.flatMap fun w => cellsOf w.1 32 w.2).filter fun c => Config.freeBit serial c.1 17
            let s : State := bytes.foldl (fun (s : State) c =>
              (s.setPub slot).commitImage [c] slot (s.mark slot) (s.mark slot + 1) false) s
            let s : State := s.dropCopies ws
            let s : State := if x.kind = 2 then
                { (s.zeroDmu x.channel) with
                  teams := s.teams.map fun (t : Team) => if t.leased == some x.channel then { t with lease := .none } else t }
              else s
            let s : State := { s with control := assocPut s.control stack (s.controlStore stack) }
            s.endCall o 0x13 none)

/-- LEASE_REESTABLISH: the saved lease of a resident team is established again once the channel is free (R383). -/
def execLeaseReestablish (tid : Nat) (s : State) : Host.Outcome State Fault Refusal :=
  .next (match s.team? tid with
    | none => s
    | some t =>
      match t.lease with
      | .saved k c used bcast acc =>
        if t.state != .resident || s.channelTaken tid (k, c) then s
        else (s.modTeam tid fun t => { t with lease := .held k c used }).putDmu { stack := k, channel := c, bcast := bcast, acc := acc }
      | _ => s)

end Sys2Proof.Machine
end

