-- ==== Sys2Proof/Machine/Casts.lean ====
section
/-!
DEFINITION. Casts of logged extents (18_log R309, R310, R312, R313): taking, reverting to and dropping a cast, as the words and the EXTENT
command both do it.
-/
namespace Sys2Proof.Machine

/-- The stack's free log slack is below 768 MiB (R315). -/
def State.isLow (s : State) (stack : Nat) : Bool := decide (Config.logSlack stack s.tick < 768)

/-- The published image of an extent. -/
def State.extentImage (s : State) (ext : Nat) : Memory := cellsIf (fun a => extentOf a == ext) s.image

/-- The next generation of a cast index: 1 to 8,191 (R310). -/
def nextGen (g : Nat) : Nat := if g + 1 < 8192 then g + 1 else 1

/-- The handle of a cast (R310). -/
def castHandle (ext idx gen : Nat) : Nat := ext * 2 ^ 19 + idx * 2 ^ 13 + gen

/-- The cast that a handle names, with its extent, where it is valid for a context (R310). -/
def State.validCast (s : State) (ctx h : Nat) : Option (Extent × Cast) :=
  match s.extent? (field h 19 13) with
  | none => none
  | some e =>
    match e.cast? (field h 13 6) with
    | none => none
    | some c => if e.ctx = ctx && c.gen == field h 0 13 && c.gen != 0 then some (e, c) else none

/-- SNAP on an extent: the state, the handle and the reason (R312). The published lines that L2 holds dirty are appended first, so that the root that the cast
takes references every sector's copy (R309; log entry 78, DESIGN CHOICE). -/
def State.snapExtent (s : State) (ext : Nat) : State × Nat × Nat :=
  match s.extent? ext with
  | none => (s, 0, 1)
  | some e =>
    if e.kind ≠ 0 then (s, 0, 1)
    else if 64 ≤ e.casts.length then (s, 0, 2)
    else if s.isLow e.home then (s, 0, 3)
    else
      let i := ((List.range 64).find? fun i => (e.cast? i).isNone).getD 0
      let gen := nextGen ((assoc e.gens i).getD 0)
      let c : Cast := { idx := i, gen := gen, image := s.extentImage ext, lost := s.lost.filter fun n => n / 2 ^ 19 == ext }
      let lines := s.dirty.filter fun d => !d.pending && d.line / 2 ^ 19 == ext
      let s : State := (lines.foldl State.appendLine s).settleSegments
      ((s.castRoot ext i).modExtent ext fun e => { e with casts := e.casts ++ [c], gens := assocPut e.gens i gen }, castHandle ext i gen, 0)

/-- REVERT to a cast: a publication that replaces the extent's image; pending sectors stay pending; L1 copies are stale, monitors are
evaluated again, and each peer is to install the image (R313). -/
def State.revertExtent (s : State) (e : Extent) (c : Cast) : State :=
  let mine : Nat → Bool := fun a => extentOf a == e.num
  let line : Nat → Bool := fun n => n / 2 ^ 19 == e.num
  let s : State := { s with
    image := Memory.overlay (cellsIf (fun a => !mine a) s.image) c.image
    texts := s.textsBefore (Overlay.overlay (cellsIf mine s.image) c.image)
    pubs := s.pubs + 1
    fresh := s.fresh + 1
    l1 := s.l1.map fun (l : L1Line) => if line l.line && l.stale == none then { l with stale := some (s.pubs + 1, s.tick) } else l
    lost := (s.lost.filter fun n => !line n) ++ c.lost
    dirty := s.dirty.filter fun d => d.pending || !line d.line
    l2 := s.l2.filter fun x => !(line x.line && x.held == none)
    peers := s.peers.map fun (p : Peer) =>
      if e.shipsTo p then
        { p with behind := p.behind ++ [{ ext := e.num, ship := s.fresh, image := c.image, tags := s.tagsCast e.num c.idx, first := false }] }
      else p }
  let s : State := s.revertRoot e.num e.home c.idx
  s.evalMonitors (s.monitors.filterMap fun m => if mine m.addr then some (lineOf m.addr) else none)

/-- SNDROP of a cast (R313). -/
def State.dropCast (s : State) (e : Extent) (c : Cast) : State :=
  (s.modExtent e.num fun e => { e with casts := e.casts.filter fun x => x.idx != c.idx }).dropRoot e.num c.idx

end Sys2Proof.Machine
end

