-- ==== Sys2Proof/Machine/Ordering.lean ====
section
/-!
DEFINITION. The ordering words (14_ordering R241 to R253), WAITC (12_control R219 to R222), and the cast words (18_log R311 to R313). A word
that waits stands at its place in the clause and is tried again, or goes on with its event.
-/
namespace Sys2Proof.Machine

/-! ## Waiting at a word -/

/-- The word has issued and waits: its issue counts toward the distances (R76), and its run is tried after the others. -/
def Ctx.enter (c : Ctx) (w : Wait) : State :=
  c.s.putGroup ((c.pace c.g 1).rotate c.r { c.r with wait := w })
/-- It waits further. -/
def Ctx.stay (c : Ctx) (w : Wait) : State := c.s.putGroup (c.g.rotate c.r { c.r with wait := w })
/-- A word that has waited is over. -/
def Ctx.leave (c : Ctx) (g : Group) : State := c.next g 1 0
/-- Go on past the word, whether or not it has waited. -/
def Ctx.pass (c : Ctx) (g : Group) : State := if c.r.waited then c.leave g else c.next g 1 1
/-- Wait, whether or not it has waited before. -/
def Ctx.wait (c : Ctx) (w : Wait) : State := if c.r.waited then c.stay w else c.enter w

/-- Every LS access of a group that was issued before object number `since` has completed (R186, R233), a monitor of another split that is armed and has not woken
counting as one that has not (log entry 74, DESIGN CHOICE). -/
def State.lsDone (s : State) (gid since : Nat) : Bool :=
  !(s.ops.any fun o => o.gid == gid && decide (o.id < since) && o.kind.path == 0)
    && !(s.monitors.any fun m => m.gid == some gid && decide (m.id < since))

/-- Stores complete without being waited for by an acquire. -/
def OpKind.onlyWrites : OpKind → Bool
  | .store _ => true
  | .storeScalar => true
  | .sts _ => true
  | .stsf => true
  | .sete => true
  | _ => false

/-- Every LS load, atomic and monitor read before `since` has completed, a monitor that is armed and has not woken counting as one that has not (R244;
log entry 74, DESIGN CHOICE), and no L1 line of the core is stale with respect to a publication
up to the point (R244). -/
def Ctx.acquired (c : Ctx) (point since : Nat) : Bool :=
  !(c.s.ops.any fun o => o.gid == c.g.gid && decide (o.id < since) && o.kind.path == 0 && !o.kind.onlyWrites)
    && !(c.s.monitors.any fun m => m.gid == some c.g.gid && decide (m.id < since))
    && !(c.s.l1.any fun l => l.core == c.g.core && (match l.stale with | some (p, _) => decide (p ≤ point) | none => false))

/-- An acquire completes, with the status of an ACQR or a REVERT, or waits. -/
def Ctx.acquire (c : Ctx) (point since : Nat) (status : Option (Nat × Nat)) : State :=
  if c.acquired point since then
    c.pass (match status with
      | some (t, x) => c.writeS 0 c.g t (BitVec.ofNat 64 x)
      | none => c.g)
  else c.wait (.acq point since status)

/-- The point from which an acquire at a scope counts: none below CREW (R244). -/
def Ctx.acqPoint (c : Ctx) (scope : Nat) : Nat := if 2 ≤ scope then c.s.pubs else 0

/-! ## REL, ACQ, FENCE (R242 to R245) -/

/-- The teams of R242, in ascending writer slot order. -/
def Ctx.releaseTeams (c : Ctx) : List Nat := (c.s.teamsIn c.g).map (·.tid)

/-- The release part at scope GRP: the group's own LS accesses complete. -/
def Ctx.releaseGroup (c : Ctx) (done : State) : State :=
  match c.r.wait with
  | .after since => if c.s.lsDone c.g.gid since then done else c.stay (.after since)
  | _ => if c.s.lsDone c.g.gid c.s.fresh then done else c.enter (.after c.s.fresh)

/-- REL: at TEAM and wider it waits for its mark step (R243). -/
def execRel (o : ArgsRel) (s : State) : Host.Outcome State Fault Refusal :=
  s.joined none {} fun c =>
    if o.scope = 0 then c.releaseGroup (c.pass c.g) else c.enter (.rel o.scope o.sealed false s.fresh c.releaseTeams)

/-- ACQ (R244). -/
def execAcq (o : ArgsScope) (s : State) : Host.Outcome State Fault Refusal :=
  s.joined none {} fun c =>
    match c.r.wait with
    | .acq point since status => c.acquire point since status
    | _ => c.acquire (c.acqPoint o.scope) s.fresh none

/-- FENCE: a release, then an acquire that starts when it is over (R245). -/
def execFence (o : ArgsScope) (s : State) : Host.Outcome State Fault Refusal :=
  s.joined none {} fun c =>
    match c.r.wait with
    | .acq point since status => c.acquire point since status
    | _ => if o.scope = 0 then c.releaseGroup (c.acquire 0 s.fresh none) else c.enter (.rel o.scope false true s.fresh c.releaseTeams)

/-- Every store and atomic of a team, whichever group issued it before `since`, has been performed, so far as a release at a scope waits for
it: those to local pages, at HOP1 and wider those to peers, at SYS those to the host (R243, R251, R253). -/
def State.storesLanded (s : State) (tid since scope : Nat) : Bool :=
  !(s.ops.any fun o => decide (o.id < since) && (o.kind.isStore || (match o.kind with | .atomic _ _ _ => true | _ => false)) &&
    o.parts.any fun p => s.partTeam o p.lane == tid &&
      match p.st with
      | .issued => true
      | .held _ => true
      | .ready f => f.tgt == 0 || scope == 7 || (f.tgt == 2 && decide (5 ≤ scope))
      | .remote f _ _ => f.tgt == 1 && scope == 7
      | _ => false)

/-- The devices inside a scope beyond the own (R12, R252). -/
def State.inScope (s : State) (scope dev : Nat) : Bool :=
  if scope = 5 then s.conf.hop1.contains dev else if scope = 6 then s.conf.hop3.contains dev else scope == 7

/-- Take a waiting run of a group on: past its word, or into the acquire that follows. -/
def State.relEnd (s : State) (gid : Nat) (r : Run) (acq : Bool) (scope : Nat) : State :=
  s.modGroup gid fun g =>
    let r' : Run := if acq then { r with wait := .acq (if 2 ≤ scope then s.pubs else 0) s.fresh none } else { r with pos := r.pos + 1, wait := .none }
    (g.setRun r (some r')).settle s.tick

/-- The local part of a release of a team: its entries drain, one mark step publishes, and its open segments are sealed where asked (R243). A store that
another group of the team issued after the REL and that stands in an entry lands before the mark step with it (R255; log entry 72, DESIGN
CHOICE). -/
def State.releaseTeam (s : State) (slot : Nat) (sealed : Bool) : State :=
  let s : State := s.landWhere fun e => e.slot == slot
  let s : State := s.publish slot
  if sealed then s.appendAndSeal slot fun _ => true else s

/-- Ask the owners inside a scope to publish a team's stores that are pending there and not asked for yet (R251). -/
def State.askPublish (s : State) (gid tid slot scope : Nat) : State :=
  let devs := s.awaiting.foldl (fun l x => if x.team == tid && x.kind == .held && s.inScope scope x.dev then addNew l x.dev else l) []
  devs.foldl (fun (s : State) dev =>
    let s : State := s.post (s.packet dev kPublish slot 0 0 [])
    { s with
      awaiting := (s.awaiting.filter fun x => !(x.team == tid && x.kind == .held && x.dev == dev))
        ++ [{ gid := gid, op := 0, team := tid, dev := dev, addr := 0, kind := .publish }] }) s

/-- Every remote store of a team that was issued before `since` has been accepted by its owner (R251). -/
def State.accepted (s : State) (tid since : Nat) : Bool :=
  !(s.awaiting.any fun x => x.team == tid && x.kind == .sent && decide (x.op < since)) && s.storesLanded tid since 6

/-- A team's part of a release is over: the next team of it, or the end (R242, R243). -/
def State.relNext (s : State) (gid : Nat) (r : Run) (scope : Nat) (sealed acq : Bool) (since : Nat) (rest : List Nat) : State :=
  if rest = [] then s.relEnd gid r acq scope
  else s.modGroup gid fun g => g.setRun r (some { r with wait := .rel scope sealed acq since rest })

/-- What follows the mark step of a team, and the appends of REL.SEAL: the remote part, or the next team (R242, R243). -/
def State.relAfter (s : State) (gid : Nat) (r : Run) (scope : Nat) (sealed acq : Bool) (since : Nat) (teams : List Nat) : State :=
  if scope < 5 then s.relNext gid r scope sealed acq since teams.tail
  else s.modGroup gid fun g => g.setRun r (some { r with wait := .relRemote scope sealed acq false since teams })

/-- A step of the release of a run, if one is due: none where it must wait on. A team that is no more holds nothing that could be released. -/
def State.relStep (s : State) (g : Group) (r : Run) : Option State :=
  match r.wait with
  | .rel scope sealed acq since teams =>
    if !s.lsDone g.gid since then none
    else
      match teams with
      | [] => some (s.relEnd g.gid r acq scope)
      | tid :: rest =>
        match s.team? tid with
        | none => some (s.relNext g.gid r scope sealed acq since rest)
        | some t =>
          if !s.storesLanded tid since (min scope 4) then none
          else
            let s : State := s.releaseTeam t.slot sealed
            if sealed && s.toAppend t.slot (fun _ => true) != [] then
              some (s.modGroup g.gid fun g => g.setRun r (some { r with wait := .relSeal scope acq since teams }))
            else some (s.relAfter g.gid r scope sealed acq since teams)
  | .relSeal scope acq since teams =>
    let slot := ((s.team? (teams.headD 0)).map Team.slot).getD Config.writerSlots
    let left := s.toAppend slot fun _ => true
    if left != [] && left.all s.appendBlocked then none
    else
      let s : State := s.appendAndSeal slot fun _ => true
      if s.toAppend slot (fun _ => true) != [] then some s else some (s.relAfter g.gid r scope true acq since teams)
  | .relRemote scope sealed acq asked since teams =>
    let tid := teams.headD 0
    if !asked then
      if !s.accepted tid since then none
      else
        let slot := ((s.team? tid).map Team.slot).getD Config.writerSlots
        let s : State := s.askPublish g.gid tid slot scope
        some (s.modGroup g.gid fun g => g.setRun r (some { r with wait := .relRemote scope sealed acq true since teams }))
    else if s.awaiting.any fun x => x.team == tid && x.kind == .publish && s.inScope scope x.dev then none
    else if scope = 7 && !s.storesLanded tid since 7 then none
    else some (s.relNext g.gid r scope sealed acq since teams.tail)
  | _ => none

/-- REL_MARK_STEP: the mark step of a release that has waited for its stores, and the steps of its remote part (R243, R251). -/
def execRelMarkStep (gid : Nat) (s : State) : Host.Outcome State Fault Refusal :=
  .next (match s.group? gid with
    | none => s
    | some g => if g.place = .saved then s else (g.runs.findSome? fun r => s.relStep g r).getD s)

/-! ## ACQR (R247) -/

/-- ACQR waits for its promotion, then acquires. -/
def execAcqr (o : ArgsTB) (s : State) : Host.Outcome State Fault Refusal :=
  s.joined none { sr := [o.base], sw := [o.t] } fun c =>
    match c.r.wait with
    | .acq point since status => c.acquire point since status
    | _ =>
      let x := (c.s1 o.base).toNat
      c.enter (.acqr (field x 0 8) (field x 8 2) (field x 16 32) o.t s.fresh)

/-- The team that ACQR names: of that context, kernel slot and index, resident on that core. -/
def State.victim (s : State) (ctx core kslot index : Nat) : Option Team :=
  s.teams.find? fun t => t.core == core && t.kslot == kslot && t.index == index && t.state == .resident && s.ctxOfTeam t == ctx

/-- The promotion for a run, if it is due. -/
def State.promote (s : State) (g : Group) (r : Run) : Option State :=
  match r.wait with
  | .acqr core kslot index t since =>
    let go : State → Nat → State := fun s x =>
      s.modGroup g.gid fun g => g.setRun r (some { r with wait := .acq s.pubs s.fresh (some (t, x)) })
    match s.victim (s.ctxOfGroup g) core kslot index with
    | none => some (go s 1)
    | some v =>
      if s.storesLanded v.tid since 0 then
        let s : State := s.releaseTeam v.slot false
        some (go { s with l1 := s.l1.filter fun l => l.core != core } 0)
      else none
  | _ => none

/-- ACQR_PROMOTION: the named team's stores are published by one mark step, and the L1 of its core is emptied (R247). -/
def execAcqrPromotion (gid : Nat) (s : State) : Host.Outcome State Fault Refusal :=
  .next (match s.group? gid with
    | none => s
    | some g => if g.place = .saved then s else (g.runs.findSome? fun r => s.promote g r).getD s)

/-! ## FENCEX (R246) -/

/-- An outstanding operation has been performed as far as FENCEX waits for it: reads of a message, a tile fetch, a product. -/
def Op.performed (o : Op) : Bool :=
  match o.kind with
  | .send _ _ _ _ _ => o.parts.all fun p => p.isStamp || p.isDone
  | .tfetch _ => o.parts.all Part.isDone
  | .mma _ _ _ _ => o.parts.all Part.isDone
  | _ => false

/-- Every access of a group on a path that was issued before `since` has been performed. -/
def State.pathDone (s : State) (gid since path : Nat) : Bool :=
  if path = 0 then s.lsDone gid since
  else !(s.ops.any fun o => o.gid == gid && decide (o.id < since) && o.kind.path == path && !o.performed)

/-- FENCEX: where LS is one of its paths, the entries that hold the group's teams' stores drain (R246, R179). -/
def Ctx.fencePaths (c : Ctx) (pa pb since : Nat) : State :=
  if c.s.pathDone c.g.gid since pa && c.s.pathDone c.g.gid since pb then
    let slots := (c.s.teamsIn c.g).map Team.slot
    let s : State := if pa = 0 || pb = 0 then c.s.landWhere fun e => slots.contains e.slot else c.s
    { c with s := s }.pass c.g
  else c.wait (.fence pa pb since)

/-- FENCEX (R246). -/
def execFencex (o : ArgsPaths) (s : State) : Host.Outcome State Fault Refusal :=
  s.joined none {} fun c =>
    match c.r.wait with
    | .fence pa pb since => c.fencePaths pa pb since
    | _ => c.fencePaths o.pa o.pb s.fresh

/-! ## WAITC (R219 to R222) -/

/-- Lanes wait at the word, for the host's answer or for accesses that its read follows; the others go on past it (R174, R220, R234). The word counts when it
is held first (R76). -/
def Ctx.holdWord (c : Ctx) (s : State) (lanes : List Nat) (w : Wait) : State :=
  s.modGroup c.g.gid fun g =>
    let g := c.pace g (if c.r.waited then 0 else 1)
    let mask := maskOf lanes
    let held : Run := { c.r with lanes := mask, wait := w }
    let rest := maskMinus c.r.lanes mask
    let on : List Run := if rest = 0 then [] else [{ c.r with lanes := rest, pos := c.r.pos + 1, wait := .none }]
    { g with runs := (g.runs.filter fun x => x != c.r) ++ (held :: on) }.settle s.tick

/-- An earlier LS access of the lanes that a monitor's read of them follows is not performed: one to bytes that it reads, or, where the read was held and is tried
again, any that was held (R174, R234). -/
def State.readFollows (s : State) (gid : Nat) (lanes : Mask) (a n since : Nat) (again : Bool) : Bool :=
  s.ops.any fun o => o.gid == gid && decide (o.id < since) && o.kind.space == 1 && o.parts.any fun q =>
    !q.isDone && (if o.kind.isScalar then o.counted &&& lanes != 0 else inMask lanes q.lane)
      && (rangesMeet a n q.addr q.len || (again && (q.replayed || q.isHeld)))

/-- The address and the compare value that a WAITC reads, the next object number at its issue, and whether it is tried again after a fault (R174). -/
def Ctx.watched (c : Ctx) (o : ArgsWaitc) : Nat × Nat × Nat × Bool :=
  match c.r.wait with
  | .look a v since again => (a, v, since, again)
  | _ => ((c.s1 o.base).toNat, (c.s1 o.t 1).toNat, c.s.fresh, false)

/-- WAITC: the address is translated as for lane 0; a condition that holds lets the lanes go on at once, else they wait in a monitor of their
own (R220). Its read follows the lanes' earlier accesses to the bytes (R234), and L2 holds the line before (R316). -/
def execWaitc (o : ArgsWaitc) (s : State) : Host.Outcome State Fault Refusal :=
  s.joined (some o.g) { sr := [o.base, o.t], sw := pairOf o.t } fun c =>
    if c.issue = [] then c.pass c.g
    else
      let size := if o.dword then 8 else 4
      let (a, v, since, again) := c.watched o
      let kill : State → Nat → State := fun s code => s.killGroup c.g.gid code { mask := some 1, vaddr := a, acc := 7 }
      match globalFault a size with
      | some code => kill s code
      | none =>
        if s.readFollows c.g.gid (maskOf c.issue) a size since again then c.holdWord s c.issue (.look a v since again)
        else
        match s.translate c.who c.ctx a { rd := true } s.fresh with
        | (.fatal code, s) => kill s code
        | (.replay, s) => c.holdWord (s.holdGroup c.g.gid 7 1 a) c.issue (.held a v since)
        | (.ok f, s) =>
          if f.tgt ≠ 0 then kill s 0x09
          else if !s.publishedReady (lineOf f.addr) then c.holdWord (s.fillPublished (lineOf f.addr)) c.issue (.look a v since again)
          else if s.lost.contains (lineOf f.addr) then s.killGroup c.g.gid 0x0F { vaddr := a, acc := 7 }
          else
            let x := s.image.nat f.addr size
            let c : Ctx := { c with s := s }
            if monitorCond o.op size x (v % 2 ^ (8 * size)) then
              c.pass (c.writeS 0 (c.writeS 0 c.g o.t (BitVec.ofNat 64 x)) (o.t + 1) 0)
            else
              let m : Monitor := { id := s.fresh, gid := some c.g.gid, queue := 0, slot := 0, ctx := c.ctx, addr := f.addr, vaddr := a, size := size,
                                   op := o.op, value := BitVec.ofNat 64 v, since := s.tick, reported := false }
              { s.putGroup (c.forkGroup c.g c.issue (.monitor m.id o.t)) with monitors := s.monitors ++ [m], fresh := s.fresh + 1 }

/-- LONG_WAIT: the lanes of a group's monitor have waited for 2^LWN cycles: one record of kind 3 (R285). -/
def execLongWait (id : Nat) (s : State) : Host.Outcome State Fault Refusal :=
  .next (match s.monitor? id with
    | none => s
    | some m =>
      match m.gid.bind s.group? with
      | none => s
      | some g =>
        let ctx := s.ctxOfGroup g
        let lwn := (((s.ctx? ctx).bind fun c => s.part? c.pnum).map (·.lwn)).getD 0
        if m.reported || decide (s.tick < m.since + 2 ^ lwn) then s
        else
          let lanes : Mask := ((g.runs.find? fun r => match r.wait with | .monitor i _ => i == id | _ => false).map (·.lanes)).getD 0
          { s with monitors := s.monitors.map fun (x : Monitor) => if x.id = id then { x with reported := true } else x }.event ctx
            (s.groupEvent g 3 0 0xFF lanes 0))

/-! ## Casts (R311 to R313) -/

/-- A word that first waits for the LS accesses that the group issued before it. -/
def Ctx.afterLs (c : Ctx) (k : State) : State := c.releaseGroup k

/-- SNAP of the extent that holds an address, once the LS accesses before it have completed (R312). -/
def Ctx.snapAt (c : Ctx) (t a : Nat) : State :=
  let kill : State → Nat → State := fun s code => s.killGroup c.g.gid code { mask := some 1, vaddr := a, acc := 8 }
  match c.s.translate c.who c.ctx a { w := true, names := true } c.s.fresh with
  | (.fatal code, s) => kill s code
  | (.replay, s) => c.holdWord (s.holdGroup c.g.gid 8 1 a) (maskLanes c.r.lanes) (.held a 0 s.fresh)
  | (.ok f, s) =>
    if f.tgt ≠ 0 then kill s 0x09
    else
      let r := s.snapExtent (extentOf f.addr)
      let c : Ctx := { c with s := r.1 }
      c.pass (c.writeS 0 (c.writeS 0 c.g t (BitVec.ofNat 64 r.2.1)) (t + 1) (BitVec.ofNat 64 r.2.2))

/-- SNAP (R312). -/
def execSnap (o : ArgsTB) (s : State) : Host.Outcome State Fault Refusal :=
  s.joined none { sr := [o.base], sw := pairOf o.t } fun c =>
    match c.r.wait with
    | .look a _ _ _ => c.snapAt o.t a
    | _ => c.afterLs (c.snapAt o.t (c.s1 o.base).toNat)

/-- REVERT and SNDROP read the handle, and then wait for the LS accesses that the group issued before them (R313). -/
def Ctx.withCast (c : Ctx) (reg : Nat) (k : Nat → State) : State :=
  match c.r.wait with
  | .cast h since => if c.s.lsDone c.g.gid since then k h else c.stay (.cast h since)
  | _ =>
    let h := field (c.s1 reg).toNat 0 32
    if c.s.lsDone c.g.gid c.s.fresh then k h else c.enter (.cast h c.s.fresh)

/-- REVERT: a publication, then an acquire at DEV (R313). -/
def execRevert (o : ArgsTB) (s : State) : Host.Outcome State Fault Refusal :=
  s.joined none { sr := [o.base], sw := [o.t] } fun c =>
    match c.r.wait with
    | .acq point since status => c.acquire point since status
    | _ =>
      c.withCast o.base fun h =>
      match s.validCast c.ctx h with
      | none => c.pass (c.writeS 0 c.g o.t 1)
      | some (e, x) =>
        let s : State := (s.revertExtent e x).modTeam c.g.owner fun t => { t with pub := true }
        let g := (s.group? c.g.gid).getD c.g
        { c with s := s, g := g }.acquire s.pubs s.fresh (some (o.t, 0))

/-- SNDROP (R313). -/
def execSndrop (o : ArgsTB) (s : State) : Host.Outcome State Fault Refusal :=
  s.joined none { sr := [o.base], sw := [o.t] } fun c =>
    c.withCast o.base fun h =>
    match s.validCast c.ctx h with
    | none => c.pass (c.writeS 0 c.g o.t 1)
    | some (e, x) => { c with s := s.dropCast e x }.pass (c.writeS 0 c.g o.t 0)

end Sys2Proof.Machine
end

