-- ==== Sys2Proof/Machine/Complete.lean ====
section
/-!
DEFINITION. Completion of counted operations (04_encoding R79) and RFENCE (18_log R320).
-/
namespace Sys2Proof.Machine

/-! ## RFENCE (R320) -/

/-- The published lines of writer slots in replicated extents are appended and the open segments there sealed, as far as segments are free (R315, R320). -/
def State.fenceAppend (s : State) (slots : List Nat) : State :=
  slots.foldl (fun s w => s.appendAndSeal w fun e => decide (0 < e.nrep)) s

/-- RFENCE: for each team of the lanes' tags, lines that its slot has published in replicated extents are appended and its open segments there
sealed, as far as segments are free; the word then waits, counted, for the peers (R315, R320). -/
def execRfence (o : ArgsMC) (s : State) : Host.Outcome State Fault Refusal :=
  s.word (some o.g) {} fun c =>
    c.counted o.ctr c.issue <|
    if c.issue = [] then c.next c.g 1 1
    else
      let slots := (s.teamsIn c.g).map Team.slot
      let s : State := s.fenceAppend slots
      { c with s := s }.start { kind := .rfence (slots.map fun w => (w, s.mark w)), ctr := o.ctr, lanes := c.issue, parts := [] }

/-- What an RFENCE waits for has reached every peer of its context: the publications of its slots and the reverts before it (R320). -/
def State.fenceDone (s : State) (o : Op) (slots : List (Nat × BitVec 32)) : Bool :=
  !(s.ships.any fun h => h.ctx == o.ctx && decide (h.id < o.id) && slots.any fun x => x.1 == h.slot)
    && !(s.peers.any fun p => p.ctx == o.ctx && p.behind.any fun b => decide (b.ship < o.id))

/-- Something that an RFENCE appends or seals is left: a sector that it waits for is dirty in L2 or stands in an open segment (R320, R315). -/
def State.fenceLeft (s : State) (o : Op) (slots : List (Nat × BitVec 32)) : Bool :=
  s.ships.any fun h => h.ctx == o.ctx && decide (h.id < o.id) && slots.any (fun x => x.1 == h.slot) && h.left.any fun n =>
    (s.dirty.any fun d => d.line == n && !d.pending)
      || s.segments.any fun g => g.state == .opened && !g.chisel && g.recs.any fun r => r.ext * 2 ^ 19 + r.idx == n

/-! ## COUNTED_COMPLETION (R79) -/

/-- An operation goes on for a lane or a piece: it is performed and completes as its own rules say, where it can. -/
def State.goOn (s : State) (o : Op) (lane : Nat) : State :=
  match o.kind with
  | .load _ _ _ | .loadScalar _ | .store _ | .storeScalar | .atomic _ _ _ | .prefetch _ => ((o.part? lane).map fun p => s.performLs o p).getD s
  | .lds _ _ _ | .sts _ | .stsf | .sete | .ldf _ _ _ | .atomS _ _ => ((o.part? lane).map fun p => s.performSpad o p).getD s
  | .bank op fb => ((o.part? lane).map fun p => s.performBank o p op fb).getD s
  | .gang _ | .obres _ _ | .obrel _ | .tfetch _ | .mma _ _ _ _ | .accz _ _ => s.performMx o lane
  | .copy _ _ _ | .send _ _ _ _ _ | .copyCommand _ _ _ => ((o.part? lane).map fun p => s.readCopy o p).getD s
  | .nmc _ _ _ => if o.parts.all Part.isDone then s.deliverOutcome o else s.noEntry o
  | .rfence slots => if s.fenceDone o slots then s.finishAll o.id else if s.fenceLeft o slots then s.fenceAppend (slots.map (·.1)) else s

/-- COUNTED_COMPLETION: an operation completes for a lane (R79); an operation of several parts is performed part by part first. -/
def execCountedCompletion (id lane : Nat) (s : State) : Host.Outcome State Fault Refusal :=
  .next (match s.op? id with
    | none => s
    | some o => if s.opLive o then s.goOn o lane else s)

end Sys2Proof.Machine
end

