-- ==== Sys2Proof/WellFormed.lean ====
section
/-!
DEFINITION. The checks on an instruction as a term: every field within the range that its place in the word gives (R63), and its
operands legal (Machine/Legality). An event is well formed when its numbers are ones that the part has.
-/
namespace Sys2Proof

/-- The fields are in range (R63). -/
def ArgsRS.inRange (o : ArgsRS) : Bool :=
  decide (o.g < 8) && decide (o.d < 64) && decide (o.a < 64) && decide (o.b < 64) && decide (o.stall < 4)

/-- The fields are in range (R63). -/
def ArgsR2.inRange (o : ArgsR2) : Bool :=
  decide (o.g < 8) && decide (o.d < 64) && decide (o.a < 64) && decide (o.stall < 4)

/-- The fields are in range (R63). -/
def ArgsR3.inRange (o : ArgsR3) : Bool :=
  decide (o.g < 8) && decide (o.d < 64) && decide (o.a < 64) && decide (o.b < 64) && decide (o.stall < 4)

/-- The fields are in range (R63). -/
def ArgsLea.inRange (o : ArgsLea) : Bool :=
  decide (o.g < 8) && decide (o.d < 64) && decide (o.a < 64) && decide (o.b < 64) && decide (o.k < 4) && decide (o.stall < 4)

/-- The fields are in range (R63). -/
def ArgsSel.inRange (o : ArgsSel) : Bool :=
  decide (o.g < 8) && decide (o.d < 64) && decide (o.a < 64) && decide (o.b < 64) && decide (o.p < 8) && decide (o.stall < 4)

/-- The fields are in range (R63). -/
def ArgsImm.inRange (o : ArgsImm) : Bool :=
  decide (o.g < 8) && decide (o.d < 64) && decide (o.a < 64) && decide (o.stall < 4)

/-- The fields are in range (R63). -/
def ArgsMix.inRange (o : ArgsMix) : Bool :=
  decide (o.g < 8) && decide (o.d < 64) && decide (o.a < 64) && decide (o.b < 64) && decide (o.w < 7) && decide (o.stall < 4)

/-- The fields are in range (R63). -/
def ArgsS3.inRange (o : ArgsS3) : Bool :=
  decide (o.d < 64) && decide (o.a < 64) && decide (o.b < 64) && decide (o.stall < 4)

/-- The fields are in range (R63). -/
def ArgsSImm.inRange (o : ArgsSImm) : Bool :=
  decide (o.d < 64) && decide (o.a < 64) && decide (o.stall < 4)

/-- The fields are in range (R63). -/
def ArgsSLea.inRange (o : ArgsSLea) : Bool :=
  decide (o.d < 64) && decide (o.a < 64) && decide (o.b < 64) && decide (o.k < 8) && decide (o.stall < 4)

/-- The fields are in range (R63). -/
def ArgsRM.inRange (o : ArgsRM) : Bool :=
  decide (o.g < 8) && decide (o.d < 64) && decide (o.a < 64) && decide (o.b < 64) && decide (o.rm < 4) && decide (o.stall < 4)

/-- The fields are in range (R63). -/
def ArgsRMS.inRange (o : ArgsRMS) : Bool :=
  decide (o.g < 8) && decide (o.d < 64) && decide (o.a < 64) && decide (o.b < 64) && decide (o.rm < 4) && decide (o.stall < 4)

/-- The fields are in range (R63). -/
def ArgsH.inRange (o : ArgsH) : Bool :=
  decide (o.g < 8) && decide (o.d < 64) && decide (o.a < 64) && decide (o.b < 64) && decide (o.stall < 4)

/-- The fields are in range (R63). -/
def ArgsCvt.inRange (o : ArgsCvt) : Bool :=
  decide (o.g < 8) && decide (o.d < 64) && decide (o.a < 64) && decide (o.src < 8) && decide (o.dst < 8) && decide (o.rm < 4) && decide (o.stall < 4)

/-- The fields are in range (R63). -/
def ArgsCmp.inRange (o : ArgsCmp) : Bool :=
  decide (o.g < 8) && decide (o.p < 8) && decide (o.q < 8) && decide (o.a < 64) && decide (o.b < 64) && decide (o.k < 8) && decide (o.c < 4)

/-- The fields are in range (R63). -/
def ArgsMovs.inRange (o : ArgsMovs) : Bool :=
  decide (o.g < 8) && decide (o.d < 64) && decide (o.a < 64) && decide (o.stall < 4)

/-- The fields are in range (R63). -/
def ArgsLn.inRange (o : ArgsLn) : Bool :=
  decide (o.g < 8) && decide (o.d < 64) && decide (o.a < 64) && decide (o.lane < 32) && decide (o.stall < 4)

/-- The fields are in range (R63). -/
def ArgsSr.inRange (o : ArgsSr) : Bool :=
  decide (o.g < 8) && decide (o.d < 64) && decide (o.n < 4096) && decide (o.stall < 4)

/-- The fields are in range (R63). -/
def ArgsR1.inRange (o : ArgsR1) : Bool :=
  decide (o.g < 8) && decide (o.d < 64) && decide (o.stall < 4)

/-- The fields are in range (R63). -/
def ArgsPset.inRange (o : ArgsPset) : Bool :=
  decide (o.g < 8) && decide (o.d < 64) && decide (o.b < 64) && decide (o.stall < 4)

/-- The fields are in range (R63). -/
def ArgsLit.inRange (o : ArgsLit) : Bool :=
  decide (o.d < 64) && decide (o.stall < 4)

/-- The fields are in range (R63). -/
def ArgsVLit.inRange (o : ArgsVLit) : Bool :=
  decide (o.g < 8) && decide (o.d < 64) && decide (o.stall < 4)

/-- The fields are in range (R63). -/
def ArgsM.inRange (o : ArgsM) : Bool :=
  decide (o.g < 8) && decide (o.t < 64) && decide (o.base < 64) && decide (o.idx < 64) && decide (o.ctr < 4)

/-- The fields are in range (R63). -/
def ArgsMTB.inRange (o : ArgsMTB) : Bool :=
  decide (o.g < 8) && decide (o.t < 64) && decide (o.base < 64) && decide (o.ctr < 4)

/-- The fields are in range (R63). -/
def ArgsMBI.inRange (o : ArgsMBI) : Bool :=
  decide (o.g < 8) && decide (o.base < 64) && decide (o.idx < 64) && decide (o.ctr < 4)

/-- The fields are in range (R63). -/
def ArgsLdf.inRange (o : ArgsLdf) : Bool :=
  decide (o.g < 8) && decide (o.t < 64) && decide (o.base < 64) && decide (o.idx < 64) && decide (o.ctr < 4)

/-- The fields are in range (R63). -/
def ArgsMB.inRange (o : ArgsMB) : Bool :=
  decide (o.g < 8) && decide (o.base < 64) && decide (o.ctr < 4)

/-- The fields are in range (R63). -/
def ArgsMT.inRange (o : ArgsMT) : Bool :=
  decide (o.g < 8) && decide (o.t < 64) && decide (o.ctr < 4)

/-- The fields are in range (R63). -/
def ArgsNmc.inRange (o : ArgsNmc) : Bool :=
  decide (o.g < 8) && decide (o.t < 64) && decide (o.base < 64) && decide (o.entry < 64) && decide (o.ctr < 4)

/-- The fields are in range (R63). -/
def ArgsMC.inRange (o : ArgsMC) : Bool :=
  decide (o.g < 8) && decide (o.ctr < 4)

/-- The fields are in range (R63). -/
def ArgsRel.inRange (o : ArgsRel) : Bool :=
  decide (o.g < 8) && decide (o.scope < 8)

/-- The fields are in range (R63). -/
def ArgsScope.inRange (o : ArgsScope) : Bool :=
  decide (o.g < 8) && decide (o.scope < 8)

/-- The fields are in range (R63). -/
def ArgsTB.inRange (o : ArgsTB) : Bool :=
  decide (o.g < 8) && decide (o.t < 64) && decide (o.base < 64)

/-- The fields are in range (R63). -/
def ArgsPaths.inRange (o : ArgsPaths) : Bool :=
  decide (o.g < 8) && decide (o.pa < 8) && decide (o.pb < 8)

/-- The fields are in range (R63). -/
def ArgsWaitc.inRange (o : ArgsWaitc) : Bool :=
  decide (o.g < 8) && decide (o.t < 64) && decide (o.base < 64) && decide (o.op < 8)

/-- The fields are in range (R63). -/
def ArgsB.inRange (o : ArgsB) : Bool :=
  decide (o.g < 8) && decide (o.base < 64)

/-- The fields are in range (R63). -/
def ArgsRegrp.inRange (o : ArgsRegrp) : Bool :=
  decide (o.g < 8) && decide (o.p < 64) && decide (o.v < 64)

/-- The fields are in range (R63). -/
def ArgsN.inRange (o : ArgsN) : Bool :=
  decide (o.g < 8) && decide (o.n4 < 64)

/-- The fields are in range (R63). -/
def ArgsNB.inRange (o : ArgsNB) : Bool :=
  decide (o.g < 8) && decide (o.n4 < 64) && decide (o.base < 64)

/-- The fields are in range (R63). -/
def ArgsJ.inRange (o : ArgsJ) : Bool :=
  decide (o.g < 8)

/-- The fields are in range (R63). -/
def ArgsBx.inRange (o : ArgsBx) : Bool :=
  decide (o.g < 8) && decide (o.a < 64) && decide (o.stall < 4)

/-- The fields are in range (R63). -/
def ArgsC.inRange (o : ArgsC) : Bool :=
  decide (o.g < 8) && decide (o.stall < 4)

/-- The fields are in range (R63). -/
def ArgsTrap.inRange (o : ArgsTrap) : Bool :=
  decide (o.g < 8) && decide (o.n < 64) && decide (o.stall < 4)

/-- Every field of the instruction is in the range of its place (R63); an event names a queue, core or code that exists. -/
def Instr.inRange : Instr → Bool
  | .iadd o | .iadds o | .iaddus o | .isub o | .isubs o | .isubus o | .irsub o | .imul o
  | .imulhi o | .imulhu o | .imad o | .and o | .or o | .xor o | .andn o | .shl o
  | .shr o | .sar o | .rol o | .imin o | .imax o | .iminu o | .imaxu o | .bfe o
  | .bfes o | .bfi o | .add64 o | .sub64 o | .mul64 o | .mulw o | .idp4Ss o | .idp4Nn o
  | .idp4Sn o | .fmin o | .fmax o | .fminp o | .fmaxp o | .shflIdx o | .shflUp o | .shflDown o
  | .shflXor o => o.inRange
  | .popc o | .clz o | .brev o | .ffs o | .frcp o | .frsq o | .fsqrt o | .fex2 o
  | .flg2 o | .fsnt o | .fcst o | .dsqrt o | .mov o | .vall o | .vany o | .ballot o
  | .vmatch o => o.inRange
  | .lea o => o.inRange
  | .sel o => o.inRange
  | .iaddi o => o.inRange
  | .mix o => o.inRange
  | .sadd o | .ssub o | .smul o | .smulhn o | .sand o | .sor o | .sxor o | .sandn o
  | .sshl o | .sshr o | .ssar o | .smin o | .smax o | .sminu o | .smaxu o => o.inRange
  | .saddi o => o.inRange
  | .slit o _ => o.inRange
  | .slitW64 o _ _ => o.inRange
  | .slea o => o.inRange
  | .fadd o | .fsub o | .ffma o | .ffms o => o.inRange
  | .fmul o => o.inRange
  | .dadd o | .dsub o | .dmul o | .dfma o | .dmin o | .dmax o | .ddiv o | .pk8e4 o
  | .pk8e5 o | .pk4 o | .up8e4 o | .up8e5 o | .up4 o | .qi8 o | .dq4 o | .pand o
  | .por o | .pxor o | .gredAdd o | .gredMin o | .gredMax o | .gredMinu o | .gredMaxu o | .gredFadd o
  | .gredFmin o | .gredFmax o | .scani o | .scanx o | .scanf o | .scanfx o | .scanmax o | .scanmin o
  | .segscan o => o.inRange
  | .hadd2 o | .hmul2 o | .hfma2 o | .hmax2 o => o.inRange
  | .cvt o => o.inRange
  | .icmp o | .ucmp o | .fcmp o | .dcmp o | .scmp o => o.inRange
  | .movs o => o.inRange
  | .rdln o | .wrln o => o.inRange
  | .vlit o _ => o.inRange
  | .rdsr o | .wrsr o => o.inRange
  | .rdpc o => o.inRange
  | .pset o => o.inRange
  | .ldB o | .ldH o | .ldW o | .ldD o | .ldQ o | .ldSb o | .ldSh o | .stB o
  | .stH o | .stW o | .stD o | .stQ o | .ldsB o | .ldsH o | .ldsW o | .ldsD o
  | .ldsQ o | .ldsSb o | .ldsSh o | .stsB o | .stsH o | .stsW o | .stsD o | .stsQ o
  | .stsf o | .ldaW o | .ldaD o | .ldaQ o | .staW o | .staD o | .staQ o | .atomAdd o
  | .atomSmin o | .atomSmax o | .atomUmin o | .atomUmax o | .atomAnd o | .atomOr o | .atomXor o | .atomxXchg32 o
  | .atomxXchg64 o | .atomxAdd64 o | .atomxFadd32 o | .atomxFmin32 o | .atomxFmax32 o | .atomxFadd64 o | .atomxIncw o | .cas32 o
  | .cas64 o | .atomsAdd o | .atomsSmin o | .atomsSmax o | .atomsUmin o | .atomsUmax o | .atomsAnd o | .atomsOr o
  | .atomsXor o | .badd o | .bmax o | .bmin o | .bmul o | .bsmx o | .biadd o | .bimax o
  | .bset o | .tfetch o | .cpy o | .cpyn o => o.inRange
  | .ldSc o | .stSc o | .obres o | .mma o | .mmaq o | .cpyt o => o.inRange
  | .sete o | .prefL2 o | .prefL1 o => o.inRange
  | .ldfW o | .ldfD o | .ldfQ o => o.inRange
  | .gang o | .obrel o => o.inRange
  | .accz o | .acczD o => o.inRange
  | .nmc o => o.inRange
  | .rfence o => o.inRange
  | .rel o => o.inRange
  | .acq o | .fence o => o.inRange
  | .acqr o | .snap o | .revert o | .sndrop o | .bara o | .barw o | .bars o | .barb o => o.inRange
  | .fencex o => o.inRange
  | .waitc o => o.inRange
  | .bari o => o.inRange
  | .regrpTeam o | .regrpCore o => o.inRange
  | .rgive o => o.inRange
  | .rclaim o => o.inRange
  | .bra o | .call o => o.inRange
  | .brx o | .callx o => o.inRange
  | .ret o | .exit o | .yield o | .nop o => o.inRange
  | .trap o | .brk o => o.inRange
  | .clauseIssue _ | .collectiveDeadlock _ | .groupEnd _ | .barrierArrival _ | .regrpRelocation _ | .relMarkStep _ | .acqrPromotion _ | .matchedSetBreak _ => true
  | .countedCompletion _ _ | .translation _ _ => true
  | .activeSetExchange _ | .rampEnd _ => true
  | .forcedSave _ | .claimDeadlock _ | .leaseBound _ | .leaseReestablish _ => true
  | .drainTimeout _ | .saveAreaMove _ => true
  | .wcbIdleDrain _ | .wcbEntryLand _ => true
  | .atomicPerform _ _ => true
  | .l1Invalidate _ _ => true
  | .longWait _ => true
  | .shootdownArrival _ _ => true
  | .shootdownComplete _ => true
  | .logAppend _ _ => true
  | .chiselMove _ => true
  | .l2Fill _ _ _ => true
  | .segmentShip _ _ => true
  | .replicaApply _ => true
  | .replicaCatchUp _ _ => true
  | .copyWriteLand _ _ => true
  | .copyComplete _ | .cpynAbandon _ => true
  | .sequencerWatchdog k | .rowcopy k | .rowzero k | .bufcopy k | .abenter k | .bcast k | .gemv k | .readacc k
  | .abexit k | .accclr k | .leaseq k | .rowfill k => decide (k < 8)
  | .uncorrectableError _ => true
  | .unreachable _ | .linkLevelAcknowledgement _ => true
  | .receiveMessage _ => true
  | .packetDrop p | .ldreq p | .ldrsp p | .store p | .stack p | .atomic p | .atrsp p | .publish p
  | .puback p | .demand p | .grant p | .discard p => decide (p.kind < 256) && decide (p.beats.length ≤ 9)
  | .start _ => true
  | .startTimeout _ => true
  | .pldmClearFailcnt => true
  | .powerCap _ => true
  | .throttleStepChange _ k => decide (k < 8)
  | .getVersion _ | .getCapabilities _ | .negotiateAlgorithms _ | .getDigests _ | .getCertificate _ | .challenge _ | .getMeasurements _ => true
  | .qdb _ _ => true
  | .evdb _ _ => true
  | .q0ring _ => true
  | .sqbind _ _ | .rqbindBind _ _ => true
  | .rqbindUnbind _ => true
  | .registerWrite _ _ => true
  | .launch q | .copy q | .signal q | .wait q | .extentCreate q | .extentDestroy q | .extentSetrepl q | .extentQuery q
  | .extentSnap q | .extentRevert q | .extentSndrop q | .extentPromote q | .extentLoad q | .saveDrain q | .saveForce q | .resume q
  | .replay q | .cancelw q | .shoot q | .debugArm q | .debugDisarm q | .debugHaltCmd q | .debugRead q | .debugWrite q
  | .debugCont q | .debugClrerr q | .part q | .ctx q | .queueBind q | .queueUnbind q | .ctxend q | .unknownCommand q => decide (q < 1024)

/-- The instruction is well formed: its fields are in range and its operands legal. -/
def Instr.wf (i : Instr) : Bool := i.inRange && (Machine.operandFault i).isNone

end Sys2Proof
end

