-- ==== Sys2Proof/Decode.lean ====
section
/-!
DEFINITION. Decoding of instruction words and their literals, rejecting by name, and the encoder (04_encoding R63 to R75, R83, R84 and the
encodings that the instruction chapters give).
-/
namespace Sys2Proof

/-- The seven fields that every format of R63 is cut from: bits [31:26], [25:23], [22:17], [16:11], [10:5], [4:2], [1:0]. -/
structure Fields where
  maj : Nat
  g : Nat
  d : Nat
  a : Nat
  b : Nat
  m : Nat
  s : Nat
  deriving DecidableEq, Repr

/-- Cut a word into its fields. -/
def Fields.ofWord (w : Word) : Fields :=
  let n := w.toNat
  ⟨n / 67108864, n / 8388608 % 8, n / 131072 % 64, n / 2048 % 64, n / 32 % 64, n / 4 % 8, n % 4⟩

/-- The word made of the fields. -/
def Fields.toWord (f : Fields) : Word :=
  BitVec.ofNat 32 (f.maj * 67108864 + f.g * 8388608 + f.d * 131072 + f.a * 2048 + f.b * 32 + f.m * 4 + f.s)

/-- Every field within its width. -/
def Fields.inRange (f : Fields) : Bool :=
  decide (f.maj < 64) && decide (f.g < 8) && decide (f.d < 64) && decide (f.a < 64) && decide (f.b < 64) && decide (f.m < 8)
    && decide (f.s < 4)

/-- The operands of ArgsB, the unused fields being zero (R64). -/
def Fields.getB (f : Fields) (k : ArgsB → Instr) : Except Reject Instr :=
  if f.d = 0 ∧ f.b = 0 ∧ f.s = 0 then .ok (k { g := f.g, base := f.a }) else .error .unusedField

/-- The operands of ArgsBx, the unused fields being zero (R64). -/
def Fields.getBx {α : Type} (f : Fields) (k : ArgsBx → α) : Except Reject α :=
  if f.d = 0 ∧ f.b = 0 then .ok (k { g := f.g, a := f.a, stall := f.s }) else .error .unusedField

/-- The operands of ArgsC, the unused fields being zero (R64). -/
def Fields.getC {α : Type} (f : Fields) (k : ArgsC → α) : Except Reject α :=
  if f.d = 0 ∧ f.a = 0 ∧ f.b = 0 then .ok (k { g := f.g, stall := f.s }) else .error .unusedField

/-- The operands of ArgsCmp, the unused fields being zero (R64). -/
def Fields.getCmp (f : Fields) (k : ArgsCmp → Instr) : Except Reject Instr :=
  .ok (k { g := f.g, p := f.d / 8, q := f.d % 8, a := f.a, b := f.b, k := f.m, c := f.s })

/-- The operands of ArgsCvt, the unused fields being zero (R64). -/
def Fields.getCvt (f : Fields) (k : ArgsCvt → Instr) : Except Reject Instr :=
  .ok (k { g := f.g, d := f.d, a := f.a, src := f.b / 8, dst := f.b % 8, rm := f.m / 2, sat := f.m % 2 == 1, stall := f.s })

/-- The operands of ArgsH, the unused fields being zero (R64). -/
def Fields.getH (f : Fields) (k : ArgsH → Instr) : Except Reject Instr :=
  .ok (k { g := f.g, d := f.d, a := f.a, b := f.b, bf := f.m / 4 == 1, stall := f.s })

/-- The operands of ArgsImm, the unused fields being zero (R64). -/
def Fields.getImm (f : Fields) (k : ArgsImm → Instr) : Except Reject Instr :=
  .ok (k { g := f.g, d := f.d, a := f.a, imm := BitVec.ofNat 9 (f.b * 8 + f.m), stall := f.s })

/-- The operands of ArgsJ, the unused fields being zero (R64). -/
def Fields.getJ (f : Fields) (k : ArgsJ → Instr) : Except Reject Instr :=
  .ok (k { g := f.g, disp := BitVec.ofNat 21 (f.d * 32768 + f.a * 512 + f.b * 8 + f.m) })

/-- The operands of ArgsLdf, the unused fields being zero (R64). -/
def Fields.getLdf (f : Fields) (k : ArgsLdf → Instr) : Except Reject Instr :=
  .ok (k { g := f.g, t := f.d, base := f.a, idx := f.b, clr := f.m % 2 == 1, ctr := f.s })

/-- The operands of ArgsLea, the unused fields being zero (R64). -/
def Fields.getLea (f : Fields) (k : ArgsLea → Instr) : Except Reject Instr :=
  .ok (k { g := f.g, d := f.d, a := f.a, b := f.b, k := f.m / 2, s := f.m % 2 == 1, stall := f.s })

/-- The operands of ArgsLn, the unused fields being zero (R64). -/
def Fields.getLn (f : Fields) (k : ArgsLn → Instr) : Except Reject Instr :=
  if f.b / 32 = 0 then .ok (k { g := f.g, d := f.d, a := f.a, lane := f.b, stall := f.s }) else .error .unusedField

/-- The operands of ArgsM, the unused fields being zero (R64). -/
def Fields.getM (f : Fields) (k : ArgsM → Instr) : Except Reject Instr :=
  .ok (k { g := f.g, t := f.d, base := f.a, idx := f.b, ctr := f.s })

/-- The operands of ArgsMB, the unused fields being zero (R64). -/
def Fields.getMB (f : Fields) (k : ArgsMB → Instr) : Except Reject Instr :=
  if f.d = 0 ∧ f.b = 0 then .ok (k { g := f.g, base := f.a, ctr := f.s }) else .error .unusedField

/-- The operands of ArgsMBI, the unused fields being zero (R64). -/
def Fields.getMBI (f : Fields) (k : ArgsMBI → Instr) : Except Reject Instr :=
  if f.d = 0 then .ok (k { g := f.g, base := f.a, idx := f.b, ctr := f.s }) else .error .unusedField

/-- The operands of ArgsMC, the unused fields being zero (R64). -/
def Fields.getMC (f : Fields) (k : ArgsMC → Instr) : Except Reject Instr :=
  if f.d = 0 ∧ f.a = 0 ∧ f.b = 0 then .ok (k { g := f.g, ctr := f.s }) else .error .unusedField

/-- The operands of ArgsMT, the unused fields being zero (R64). -/
def Fields.getMT (f : Fields) (k : ArgsMT → Instr) : Except Reject Instr :=
  if f.a = 0 then .ok (k { g := f.g, t := f.d, ctr := f.s }) else .error .unusedField

/-- The operands of ArgsMTB, the unused fields being zero (R64). -/
def Fields.getMTB (f : Fields) (k : ArgsMTB → Instr) : Except Reject Instr :=
  if f.b = 0 then .ok (k { g := f.g, t := f.d, base := f.a, ctr := f.s }) else .error .unusedField

/-- The operands of ArgsMix, the unused fields being zero (R64). -/
def Fields.getMix (f : Fields) (k : ArgsMix → Instr) : Except Reject Instr :=
  .ok (k { g := f.g, d := f.d, a := f.a, b := f.b, w := f.m, stall := f.s })

/-- The operands of ArgsMovs, the unused fields being zero (R64). -/
def Fields.getMovs (f : Fields) (k : ArgsMovs → Instr) : Except Reject Instr :=
  if f.b / 2 = 0 then .ok (k { g := f.g, d := f.d, a := f.a, hi := f.b == 1, stall := f.s }) else .error .unusedField

/-- The operands of ArgsN, the unused fields being zero (R64). -/
def Fields.getN (f : Fields) (k : ArgsN → Instr) : Except Reject Instr :=
  if f.a = 0 ∧ f.b = 0 ∧ f.s = 0 then .ok (k { g := f.g, n4 := f.d }) else .error .unusedField

/-- The operands of ArgsNB, the unused fields being zero (R64). -/
def Fields.getNB (f : Fields) (k : ArgsNB → Instr) : Except Reject Instr :=
  if f.b = 0 ∧ f.s = 0 then .ok (k { g := f.g, n4 := f.d, base := f.a }) else .error .unusedField

/-- The operands of ArgsNmc, the unused fields being zero (R64). -/
def Fields.getNmc (f : Fields) (k : ArgsNmc → Instr) : Except Reject Instr :=
  .ok (k { g := f.g, t := f.d, base := f.a, entry := f.b, ctr := f.s })

/-- The operands of ArgsPaths, the unused fields being zero (R64). -/
def Fields.getPaths (f : Fields) (k : ArgsPaths → Instr) : Except Reject Instr :=
  if f.d = 0 ∧ f.a = 0 ∧ f.s = 0 then .ok (k { g := f.g, pa := f.b / 8, pb := f.b % 8 }) else .error .unusedField

/-- The operands of ArgsPset, the unused fields being zero (R64). -/
def Fields.getPset (f : Fields) (k : ArgsPset → Instr) : Except Reject Instr :=
  if f.a = 0 then .ok (k { g := f.g, d := f.d, b := f.b, stall := f.s }) else .error .unusedField

/-- The operands of ArgsR1, the unused fields being zero (R64). -/
def Fields.getR1 (f : Fields) (k : ArgsR1 → Instr) : Except Reject Instr :=
  if f.a = 0 ∧ f.b = 0 then .ok (k { g := f.g, d := f.d, stall := f.s }) else .error .unusedField

/-- The operands of ArgsR2, the unused fields being zero (R64). -/
def Fields.getR2 (f : Fields) (k : ArgsR2 → Instr) : Except Reject Instr :=
  if f.b = 0 then .ok (k { g := f.g, d := f.d, a := f.a, stall := f.s }) else .error .unusedField

/-- The operands of ArgsR3, the unused fields being zero (R64). -/
def Fields.getR3 (f : Fields) (k : ArgsR3 → Instr) : Except Reject Instr :=
  .ok (k { g := f.g, d := f.d, a := f.a, b := f.b, stall := f.s })

/-- The operands of ArgsRM, the unused fields being zero (R64). -/
def Fields.getRM (f : Fields) (k : ArgsRM → Instr) : Except Reject Instr :=
  .ok (k { g := f.g, d := f.d, a := f.a, b := f.b, rm := f.m / 2, stall := f.s })

/-- The operands of ArgsRMS, the unused fields being zero (R64). -/
def Fields.getRMS (f : Fields) (k : ArgsRMS → Instr) : Except Reject Instr :=
  .ok (k { g := f.g, d := f.d, a := f.a, b := f.b, rm := f.m / 2, s := f.m % 2 == 1, stall := f.s })

/-- The operands of ArgsRS, the unused fields being zero (R64). -/
def Fields.getRS (f : Fields) (k : ArgsRS → Instr) : Except Reject Instr :=
  .ok (k { g := f.g, d := f.d, a := f.a, b := f.b, s := f.m % 2 == 1, stall := f.s })

/-- The operands of ArgsRegrp, the unused fields being zero (R64). -/
def Fields.getRegrp (f : Fields) (k : ArgsRegrp → Instr) : Except Reject Instr :=
  if f.s = 0 then .ok (k { g := f.g, p := f.d, v := f.b }) else .error .unusedField

/-- The operands of ArgsRel, the unused fields being zero (R64). -/
def Fields.getRel (f : Fields) (k : ArgsRel → Instr) : Except Reject Instr :=
  if f.d = 0 ∧ f.a = 0 ∧ f.b % 4 = 0 ∧ f.s = 0 then .ok (k { g := f.g, scope := f.b / 8, sealed := f.b / 4 % 2 == 1 }) else .error .unusedField

/-- The operands of ArgsS3, the unused fields being zero (R64). -/
def Fields.getS3 (f : Fields) (k : ArgsS3 → Instr) : Except Reject Instr :=
  .ok (k { d := f.d, a := f.a, b := f.b, stall := f.s })

/-- The operands of ArgsSImm, the unused fields being zero (R64). -/
def Fields.getSImm (f : Fields) (k : ArgsSImm → Instr) : Except Reject Instr :=
  .ok (k { d := f.d, a := f.a, imm := BitVec.ofNat 9 (f.b * 8 + f.m), stall := f.s })

/-- The operands of ArgsSLea, the unused fields being zero (R64). -/
def Fields.getSLea (f : Fields) (k : ArgsSLea → Instr) : Except Reject Instr :=
  .ok (k { d := f.d, a := f.a, b := f.b, k := f.m, stall := f.s })

/-- The operands of ArgsScope, the unused fields being zero (R64). -/
def Fields.getScope (f : Fields) (k : ArgsScope → Instr) : Except Reject Instr :=
  if f.d = 0 ∧ f.a = 0 ∧ f.b % 8 = 0 ∧ f.s = 0 then .ok (k { g := f.g, scope := f.b / 8 }) else .error .unusedField

/-- The operands of ArgsSel, the unused fields being zero (R64). -/
def Fields.getSel (f : Fields) (k : ArgsSel → Instr) : Except Reject Instr :=
  .ok (k { g := f.g, d := f.d, a := f.a, b := f.b, p := f.m, stall := f.s })

/-- The operands of ArgsSr, the unused fields being zero (R64). -/
def Fields.getSr (f : Fields) (k : ArgsSr → Instr) : Except Reject Instr :=
  .ok (k { g := f.g, d := f.d, n := f.a * 64 + f.b, stall := f.s })

/-- The operands of ArgsTB, the unused fields being zero (R64). -/
def Fields.getTB (f : Fields) (k : ArgsTB → Instr) : Except Reject Instr :=
  if f.s = 0 then .ok (k { g := f.g, t := f.d, base := f.a }) else .error .unusedField

/-- The operands of ArgsTrap, the unused fields being zero (R64). -/
def Fields.getTrap {α : Type} (f : Fields) (k : ArgsTrap → α) : Except Reject α :=
  if f.d = 0 ∧ f.a = 0 then .ok (k { g := f.g, n := f.b, stall := f.s }) else .error .unusedField

/-- The operands of ArgsWaitc, the unused fields being zero (R64). -/
def Fields.getWaitc (f : Fields) (k : ArgsWaitc → Instr) : Except Reject Instr :=
  if f.b % 4 = 0 ∧ f.s = 0 then .ok (k { g := f.g, t := f.d, base := f.a, op := f.b / 8, dword := f.b / 4 % 2 == 1 }) else .error .unusedField

/-- The instruction of a word without literals, but for CALLX to NOP, by the opcode map (R83, R84); operands are not checked yet. -/
def decodeMost (f : Fields) : Except Reject Instr :=
  match f.maj with
  | 1 => match f.m / 2 with | 0 => f.getRS .iadd | 1 => f.getRS .iadds | 2 => f.getRS .iaddus | _ => .error .reservedMinor
  | 2 => match f.m / 2 with | 0 => f.getRS .isub | 1 => f.getRS .isubs | 2 => f.getRS .isubus | _ => f.getRS .irsub
  | 3 => match f.m / 2 with | 0 => f.getRS .imul | 1 => f.getRS .imulhi | 2 => f.getRS .imulhu | _ => f.getRS .imad
  | 4 => match f.m / 2 with | 0 => f.getRS .and | 1 => f.getRS .or | 2 => f.getRS .xor | _ => f.getRS .andn
  | 5 => match f.m / 2 with | 0 => f.getRS .shl | 1 => f.getRS .shr | 2 => f.getRS .sar | _ => f.getRS .rol
  | 6 => match f.m / 2 with | 0 => f.getRS .imin | 1 => f.getRS .imax | 2 => f.getRS .iminu | _ => f.getRS .imaxu
  | 7 => match f.m with
    | 0 => f.getR2 .popc
    | 2 => f.getR2 .clz
    | 4 => f.getR2 .brev
    | 6 => f.getR2 .ffs
    | _ => .error .reservedMinor
  | 8 => match f.m / 2 with | 0 => f.getRS .bfe | 1 => f.getRS .bfes | _ => .error .reservedMinor
  | 9 => match f.m / 2 with | 0 => f.getRS .bfi | _ => .error .reservedMinor
  | 10 => f.getLea .lea
  | 11 => f.getSel .sel
  | 12 => match f.m / 2 with | 0 => f.getRS .add64 | 1 => f.getRS .sub64 | 2 => f.getRS .mul64 | _ => f.getRS .mulw
  | 13 => f.getImm .iaddi
  | 14 => if f.m = 7 then .error .reservedMinor else f.getMix .mix
  | 15 => match f.m / 2 with | 0 => f.getRS .idp4Ss | 1 => f.getRS .idp4Nn | 2 => f.getRS .idp4Sn | _ => .error .reservedMinor
  | 16 => if f.g ≠ 0 then .error .guardNotZero else match f.m with
    | 0 => f.getS3 .sadd
    | 2 => f.getS3 .ssub
    | 4 => f.getS3 .smul
    | 6 => f.getS3 .smulhn
    | _ => .error .reservedMinor
  | 17 => if f.g ≠ 0 then .error .guardNotZero else match f.m with
    | 0 => f.getS3 .sand
    | 2 => f.getS3 .sor
    | 4 => f.getS3 .sxor
    | 6 => f.getS3 .sandn
    | _ => .error .reservedMinor
  | 18 => if f.g ≠ 0 then .error .guardNotZero else match f.m with
    | 0 => f.getS3 .sshl
    | 2 => f.getS3 .sshr
    | 4 => f.getS3 .ssar
    | _ => .error .reservedMinor
  | 19 => if f.g ≠ 0 then .error .guardNotZero else match f.m with
    | 0 => f.getS3 .smin
    | 2 => f.getS3 .smax
    | 4 => f.getS3 .sminu
    | 6 => f.getS3 .smaxu
    | _ => .error .reservedMinor
  | 20 => if f.g ≠ 0 then .error .guardNotZero else f.getSImm .saddi
  | 22 => if f.g ≠ 0 then .error .guardNotZero else f.getSLea .slea
  | 24 => if f.m % 2 = 0 then f.getRM .fadd else f.getRM .fsub
  | 25 => f.getRMS .fmul
  | 26 => if f.m % 2 = 0 then f.getRM .ffma else f.getRM .ffms
  | 27 => match f.m / 2 with | 0 => f.getRS .fmin | 1 => f.getRS .fmax | 2 => f.getRS .fminp | _ => f.getRS .fmaxp
  | 28 => match f.m with
    | 0 => f.getR2 .frcp
    | 1 => f.getR2 .frsq
    | 2 => f.getR2 .fsqrt
    | 3 => f.getR2 .fex2
    | 4 => f.getR2 .flg2
    | 5 => f.getR2 .fsnt
    | 6 => f.getR2 .fcst
    | _ => .error .reservedMinor
  | 29 => match f.m with
    | 0 => f.getR3 .dadd
    | 1 => f.getR3 .dsub
    | 2 => f.getR3 .dmul
    | 3 => f.getR3 .dfma
    | 4 => f.getR3 .dmin
    | 5 => f.getR3 .dmax
    | 6 => f.getR3 .ddiv
    | _ => f.getR2 .dsqrt
  | 30 => match f.m % 4 with | 0 => f.getH .hadd2 | 1 => f.getH .hmul2 | 2 => f.getH .hfma2 | _ => f.getH .hmax2
  | 31 => f.getCvt .cvt
  | 32 => match f.m with
    | 0 => f.getR3 .pk8e4
    | 1 => f.getR3 .pk8e5
    | 2 => f.getR3 .pk4
    | 3 => f.getR3 .up8e4
    | 4 => f.getR3 .up8e5
    | 5 => f.getR3 .up4
    | 6 => f.getR3 .qi8
    | _ => f.getR3 .dq4
  | 33 => f.getCmp .icmp
  | 34 => f.getCmp .ucmp
  | 35 => f.getCmp .fcmp
  | 36 => f.getCmp .dcmp
  | 37 => f.getCmp .scmp
  | 38 => match f.m with
    | 0 => f.getR2 .mov
    | 1 => f.getMovs .movs
    | 2 => f.getLn .rdln
    | 3 => f.getLn .wrln
    | 5 => f.getSr .rdsr
    | 6 => f.getSr .wrsr
    | 7 => f.getR1 .rdpc
    | _ => .error .reservedMinor
  | 39 => match f.m / 2 with | 0 => f.getRS .shflIdx | 1 => f.getRS .shflUp | 2 => f.getRS .shflDown | _ => f.getRS .shflXor
  | 40 => match f.m with
    | 0 => f.getR2 .vall
    | 1 => f.getR2 .vany
    | 2 => f.getR2 .ballot
    | 3 => f.getR3 .pand
    | 4 => f.getR3 .por
    | 5 => f.getR3 .pxor
    | 6 => f.getPset .pset
    | _ => f.getR2 .vmatch
  | 41 => match f.m with
    | 0 => f.getR3 .gredAdd
    | 1 => f.getR3 .gredMin
    | 2 => f.getR3 .gredMax
    | 3 => f.getR3 .gredMinu
    | 4 => f.getR3 .gredMaxu
    | 5 => f.getR3 .gredFadd
    | 6 => f.getR3 .gredFmin
    | _ => f.getR3 .gredFmax
  | 42 => match f.m with
    | 0 => f.getR3 .scani
    | 1 => f.getR3 .scanx
    | 2 => f.getR3 .scanf
    | 3 => f.getR3 .scanfx
    | 4 => f.getR3 .scanmax
    | 5 => f.getR3 .scanmin
    | 6 => f.getR3 .segscan
    | _ => .error .reservedMinor
  | 43 => match f.m with
    | 0 => f.getM .ldB
    | 1 => f.getM .ldH
    | 2 => f.getM .ldW
    | 3 => f.getM .ldD
    | 4 => f.getM .ldQ
    | 5 => f.getM .ldSb
    | 6 => f.getM .ldSh
    | _ => f.getMTB .ldSc
  | 44 => match f.m with
    | 0 => f.getM .stB
    | 1 => f.getM .stH
    | 2 => f.getM .stW
    | 3 => f.getM .stD
    | 4 => f.getM .stQ
    | 7 => f.getMTB .stSc
    | _ => .error .reservedMinor
  | 45 => match f.m with
    | 0 => f.getM .ldsB
    | 1 => f.getM .ldsH
    | 2 => f.getM .ldsW
    | 3 => f.getM .ldsD
    | 4 => f.getM .ldsQ
    | 5 => f.getM .ldsSb
    | 6 => f.getM .ldsSh
    | _ => .error .reservedMinor
  | 46 => match f.m with
    | 0 => f.getM .stsB
    | 1 => f.getM .stsH
    | 2 => f.getM .stsW
    | 3 => f.getM .stsD
    | 4 => f.getM .stsQ
    | 5 => f.getM .stsf
    | 6 => f.getMBI .sete
    | _ => .error .reservedMinor
  | 47 => match f.m / 2 with | 0 => f.getLdf .ldfW | 1 => f.getLdf .ldfD | 2 => f.getLdf .ldfQ | _ => .error .reservedMinor
  | 48 => match f.m with
    | 0 => f.getM .ldaW
    | 1 => f.getM .ldaD
    | 2 => f.getM .ldaQ
    | 4 => f.getM .staW
    | 5 => f.getM .staD
    | 6 => f.getM .staQ
    | _ => .error .reservedMinor
  | 49 => match f.m with
    | 0 => f.getM .atomAdd
    | 1 => f.getM .atomSmin
    | 2 => f.getM .atomSmax
    | 3 => f.getM .atomUmin
    | 4 => f.getM .atomUmax
    | 5 => f.getM .atomAnd
    | 6 => f.getM .atomOr
    | _ => f.getM .atomXor
  | 50 => match f.m with
    | 0 => f.getM .atomxXchg32
    | 1 => f.getM .atomxXchg64
    | 2 => f.getM .atomxAdd64
    | 3 => f.getM .atomxFadd32
    | 4 => f.getM .atomxFmin32
    | 5 => f.getM .atomxFmax32
    | 6 => f.getM .atomxFadd64
    | _ => f.getM .atomxIncw
  | 51 => match f.m with | 0 => f.getM .cas32 | 1 => f.getM .cas64 | _ => .error .reservedMinor
  | 52 => match f.m with
    | 0 => f.getM .atomsAdd
    | 1 => f.getM .atomsSmin
    | 2 => f.getM .atomsSmax
    | 3 => f.getM .atomsUmin
    | 4 => f.getM .atomsUmax
    | 5 => f.getM .atomsAnd
    | 6 => f.getM .atomsOr
    | _ => f.getM .atomsXor
  | 53 => match f.m with | 0 => f.getMBI .prefL2 | 1 => f.getMBI .prefL1 | _ => .error .reservedMinor
  | 54 => match f.m with
    | 0 => f.getM .badd
    | 1 => f.getM .bmax
    | 2 => f.getM .bmin
    | 3 => f.getM .bmul
    | 4 => f.getM .bsmx
    | 5 => f.getM .biadd
    | 6 => f.getM .bimax
    | _ => f.getM .bset
  | 55 => match f.m with
    | 0 => f.getMB .gang
    | 1 => f.getMTB .obres
    | 2 => f.getMB .obrel
    | 3 => f.getM .tfetch
    | 4 => f.getMTB .mma
    | 5 => f.getMTB .mmaq
    | 6 => if f.b = 0 then f.getMT .accz else if f.b = 1 then f.getMT .acczD else .error .unusedField
    | _ => .error .reservedMinor
  | 56 => match f.m with
    | 0 => f.getM .cpy
    | 1 => f.getMTB .cpyt
    | 2 => f.getM .cpyn
    | 3 => f.getNmc .nmc
    | 4 => f.getMC .rfence
    | _ => .error .reservedMinor
  | 57 => match f.m with
    | 0 => f.getRel .rel
    | 1 => f.getScope .acq
    | 2 => if f.b = 0 then f.getTB .acqr else .error .unusedField
    | 3 => f.getScope .fence
    | 4 => f.getPaths .fencex
    | 5 => f.getWaitc .waitc
    | 6 => if f.b = 0 then f.getTB .snap else .error .unusedField
    | _ => if f.b = 0 then f.getTB .revert else if f.b = 1 then f.getTB .sndrop else .error .unusedField 
  | 58 => match f.m with
    | 0 => f.getB .bari
    | 1 => if f.b = 0 then f.getTB .bara else .error .unusedField
    | 2 => if f.b = 0 then f.getTB .barw else .error .unusedField
    | 3 => if f.b = 0 then f.getTB .bars else .error .unusedField
    | 4 => if f.b = 0 then f.getTB .barb else .error .unusedField
    | 5 => if f.a = 0 then f.getRegrp .regrpTeam else if f.a = 1 then f.getRegrp .regrpCore else .error .unusedField
    | 6 => f.getN .rgive
    | _ => f.getNB .rclaim 
  | 59 => match f.s with | 0 => f.getJ .bra | 1 => f.getJ .call | _ => .error .reservedMinor
  | 60 => match f.m with
    | 0 => f.getBx .brx
    | _ => .error .reservedMinor
  | _ => .error .reservedMajor

/-- The words CALLX to NOP of major 0x3C, with what is made of the operands of each (R206). -/
def decodeCtlx {α : Type} (f : Fields) (callx : ArgsBx → α) (ret exit yield nop : ArgsC → α) (trap brk : ArgsTrap → α) : Except Reject α :=
  match f.m with
  | 1 => match f.getBx callx with
    | .error r => .error r
    | .ok x => if f.a % 2 = 0 then .ok x else .error .oddPair
  | 2 => f.getC ret
  | 3 => f.getC exit
  | 4 => f.getC yield
  | 5 => f.getTrap trap
  | 6 => f.getTrap brk
  | _ => f.getC nop

/-- The word is one of CALLX to NOP. -/
def Fields.isCtlx (f : Fields) : Bool := f.maj == 60 && decide (1 ≤ f.m)

/-- The operand checks over what the opcode map gives. -/
def checkOperands (i : Instr) : Except Reject Instr :=
  match Machine.operandFault i with
  | some r => .error r
  | none => .ok i

/-- SLIT with one literal or two (R71). -/
def decodeSlit (f : Fields) (lits : List Word) : Except Reject (Instr × List Word) :=
  if f.g ≠ 0 then .error .guardNotZero
  else if f.a ≠ 0 ∨ f.b ≠ 0 then .error .unusedField
  else match f.m, lits with
    | 0, x :: rest => .ok (.slit { d := f.d, stall := f.s } x, rest)
    | 1, x :: y :: rest => .ok (.slitW64 { d := f.d, stall := f.s } x y, rest)
    | 0, _ => .error .literalMissing
    | 1, _ => .error .literalMissing
    | _, _ => .error .unusedField

/-- VLIT (R72). -/
def decodeVlit (f : Fields) (lits : List Word) : Except Reject (Instr × List Word) :=
  if f.a ≠ 0 ∨ f.b ≠ 0 then .error .unusedField
  else match lits with
    | x :: rest => .ok (.vlit { g := f.g, d := f.d, stall := f.s } x, rest)
    | [] => .error .literalMissing

/-- Decode the first instruction of the words of a clause, making of CALLX to NOP what is given and of any other what `k` says: that, and the
words after the instruction and its literals (R70). -/
def decodeWith {α : Type} (k : Instr → α) (callx : ArgsBx → α) (ret exit yield nop : ArgsC → α) (trap brk : ArgsTrap → α) :
    List Word → Except Reject (α × List Word)
  | [] => .error .noWord
  | w :: rest =>
    let f := Fields.ofWord w
    if f.maj = 0x15 then (decodeSlit f rest).map fun x => (k x.1, x.2)
    else if f.maj = 0x26 ∧ f.m = 4 then (decodeVlit f rest).map fun x => (k x.1, x.2)
    else if f.isCtlx then (decodeCtlx f callx ret exit yield nop trap brk).map fun x => (x, rest)
    else match decodeMost f with
      | .error r => .error r
      | .ok i => match checkOperands i with
        | .error r => .error r
        | .ok i => .ok (k i, rest)

/-- Decode the first instruction of the words of a clause: the instruction and the words after it and its literals (R70). -/
noncomputable def decode (ws : List Word) : Except Reject (Instr × List Word) := decodeWith id .callx .ret .exit .yield .nop .trap .brk ws

/-- The fields of a word's encoding; none for an event, and for the words with literals. -/
def encodeFields : Instr → Option Fields
  | .iadd o => some ⟨1, o.g, o.d, o.a, o.b, o.s.toNat, o.stall⟩
  | .iadds o => some ⟨1, o.g, o.d, o.a, o.b, 2 + o.s.toNat, o.stall⟩
  | .iaddus o => some ⟨1, o.g, o.d, o.a, o.b, 4 + o.s.toNat, o.stall⟩
  | .isub o => some ⟨2, o.g, o.d, o.a, o.b, o.s.toNat, o.stall⟩
  | .isubs o => some ⟨2, o.g, o.d, o.a, o.b, 2 + o.s.toNat, o.stall⟩
  | .isubus o => some ⟨2, o.g, o.d, o.a, o.b, 4 + o.s.toNat, o.stall⟩
  | .irsub o => some ⟨2, o.g, o.d, o.a, o.b, 6 + o.s.toNat, o.stall⟩
  | .imul o => some ⟨3, o.g, o.d, o.a, o.b, o.s.toNat, o.stall⟩
  | .imulhi o => some ⟨3, o.g, o.d, o.a, o.b, 2 + o.s.toNat, o.stall⟩
  | .imulhu o => some ⟨3, o.g, o.d, o.a, o.b, 4 + o.s.toNat, o.stall⟩
  | .imad o => some ⟨3, o.g, o.d, o.a, o.b, 6 + o.s.toNat, o.stall⟩
  | .and o => some ⟨4, o.g, o.d, o.a, o.b, o.s.toNat, o.stall⟩
  | .or o => some ⟨4, o.g, o.d, o.a, o.b, 2 + o.s.toNat, o.stall⟩
  | .xor o => some ⟨4, o.g, o.d, o.a, o.b, 4 + o.s.toNat, o.stall⟩
  | .andn o => some ⟨4, o.g, o.d, o.a, o.b, 6 + o.s.toNat, o.stall⟩
  | .shl o => some ⟨5, o.g, o.d, o.a, o.b, o.s.toNat, o.stall⟩
  | .shr o => some ⟨5, o.g, o.d, o.a, o.b, 2 + o.s.toNat, o.stall⟩
  | .sar o => some ⟨5, o.g, o.d, o.a, o.b, 4 + o.s.toNat, o.stall⟩
  | .rol o => some ⟨5, o.g, o.d, o.a, o.b, 6 + o.s.toNat, o.stall⟩
  | .imin o => some ⟨6, o.g, o.d, o.a, o.b, o.s.toNat, o.stall⟩
  | .imax o => some ⟨6, o.g, o.d, o.a, o.b, 2 + o.s.toNat, o.stall⟩
  | .iminu o => some ⟨6, o.g, o.d, o.a, o.b, 4 + o.s.toNat, o.stall⟩
  | .imaxu o => some ⟨6, o.g, o.d, o.a, o.b, 6 + o.s.toNat, o.stall⟩
  | .popc o => some ⟨7, o.g, o.d, o.a, 0, 0, o.stall⟩
  | .clz o => some ⟨7, o.g, o.d, o.a, 0, 2, o.stall⟩
  | .brev o => some ⟨7, o.g, o.d, o.a, 0, 4, o.stall⟩
  | .ffs o => some ⟨7, o.g, o.d, o.a, 0, 6, o.stall⟩
  | .bfe o => some ⟨8, o.g, o.d, o.a, o.b, o.s.toNat, o.stall⟩
  | .bfes o => some ⟨8, o.g, o.d, o.a, o.b, 2 + o.s.toNat, o.stall⟩
  | .bfi o => some ⟨9, o.g, o.d, o.a, o.b, o.s.toNat, o.stall⟩
  | .lea o => some ⟨10, o.g, o.d, o.a, o.b, o.k * 2 + o.s.toNat, o.stall⟩
  | .sel o => some ⟨11, o.g, o.d, o.a, o.b, o.p, o.stall⟩
  | .add64 o => some ⟨12, o.g, o.d, o.a, o.b, o.s.toNat, o.stall⟩
  | .sub64 o => some ⟨12, o.g, o.d, o.a, o.b, 2 + o.s.toNat, o.stall⟩
  | .mul64 o => some ⟨12, o.g, o.d, o.a, o.b, 4 + o.s.toNat, o.stall⟩
  | .mulw o => some ⟨12, o.g, o.d, o.a, o.b, 6 + o.s.toNat, o.stall⟩
  | .iaddi o => some ⟨13, o.g, o.d, o.a, o.imm.toNat / 8, o.imm.toNat % 8, o.stall⟩
  | .mix o => some ⟨14, o.g, o.d, o.a, o.b, o.w, o.stall⟩
  | .idp4Ss o => some ⟨15, o.g, o.d, o.a, o.b, o.s.toNat, o.stall⟩
  | .idp4Nn o => some ⟨15, o.g, o.d, o.a, o.b, 2 + o.s.toNat, o.stall⟩
  | .idp4Sn o => some ⟨15, o.g, o.d, o.a, o.b, 4 + o.s.toNat, o.stall⟩
  | .sadd o => some ⟨16, 0, o.d, o.a, o.b, 0, o.stall⟩
  | .ssub o => some ⟨16, 0, o.d, o.a, o.b, 2, o.stall⟩
  | .smul o => some ⟨16, 0, o.d, o.a, o.b, 4, o.stall⟩
  | .smulhn o => some ⟨16, 0, o.d, o.a, o.b, 6, o.stall⟩
  | .sand o => some ⟨17, 0, o.d, o.a, o.b, 0, o.stall⟩
  | .sor o => some ⟨17, 0, o.d, o.a, o.b, 2, o.stall⟩
  | .sxor o => some ⟨17, 0, o.d, o.a, o.b, 4, o.stall⟩
  | .sandn o => some ⟨17, 0, o.d, o.a, o.b, 6, o.stall⟩
  | .sshl o => some ⟨18, 0, o.d, o.a, o.b, 0, o.stall⟩
  | .sshr o => some ⟨18, 0, o.d, o.a, o.b, 2, o.stall⟩
  | .ssar o => some ⟨18, 0, o.d, o.a, o.b, 4, o.stall⟩
  | .smin o => some ⟨19, 0, o.d, o.a, o.b, 0, o.stall⟩
  | .smax o => some ⟨19, 0, o.d, o.a, o.b, 2, o.stall⟩
  | .sminu o => some ⟨19, 0, o.d, o.a, o.b, 4, o.stall⟩
  | .smaxu o => some ⟨19, 0, o.d, o.a, o.b, 6, o.stall⟩
  | .saddi o => some ⟨20, 0, o.d, o.a, o.imm.toNat / 8, o.imm.toNat % 8, o.stall⟩
  | .slea o => some ⟨22, 0, o.d, o.a, o.b, o.k, o.stall⟩
  | .fadd o => some ⟨24, o.g, o.d, o.a, o.b, o.rm * 2, o.stall⟩
  | .fsub o => some ⟨24, o.g, o.d, o.a, o.b, o.rm * 2 + 1, o.stall⟩
  | .fmul o => some ⟨25, o.g, o.d, o.a, o.b, o.rm * 2 + o.s.toNat, o.stall⟩
  | .ffma o => some ⟨26, o.g, o.d, o.a, o.b, o.rm * 2, o.stall⟩
  | .ffms o => some ⟨26, o.g, o.d, o.a, o.b, o.rm * 2 + 1, o.stall⟩
  | .fmin o => some ⟨27, o.g, o.d, o.a, o.b, o.s.toNat, o.stall⟩
  | .fmax o => some ⟨27, o.g, o.d, o.a, o.b, 2 + o.s.toNat, o.stall⟩
  | .fminp o => some ⟨27, o.g, o.d, o.a, o.b, 4 + o.s.toNat, o.stall⟩
  | .fmaxp o => some ⟨27, o.g, o.d, o.a, o.b, 6 + o.s.toNat, o.stall⟩
  | .frcp o => some ⟨28, o.g, o.d, o.a, 0, 0, o.stall⟩
  | .frsq o => some ⟨28, o.g, o.d, o.a, 0, 1, o.stall⟩
  | .fsqrt o => some ⟨28, o.g, o.d, o.a, 0, 2, o.stall⟩
  | .fex2 o => some ⟨28, o.g, o.d, o.a, 0, 3, o.stall⟩
  | .flg2 o => some ⟨28, o.g, o.d, o.a, 0, 4, o.stall⟩
  | .fsnt o => some ⟨28, o.g, o.d, o.a, 0, 5, o.stall⟩
  | .fcst o => some ⟨28, o.g, o.d, o.a, 0, 6, o.stall⟩
  | .dadd o => some ⟨29, o.g, o.d, o.a, o.b, 0, o.stall⟩
  | .dsub o => some ⟨29, o.g, o.d, o.a, o.b, 1, o.stall⟩
  | .dmul o => some ⟨29, o.g, o.d, o.a, o.b, 2, o.stall⟩
  | .dfma o => some ⟨29, o.g, o.d, o.a, o.b, 3, o.stall⟩
  | .dmin o => some ⟨29, o.g, o.d, o.a, o.b, 4, o.stall⟩
  | .dmax o => some ⟨29, o.g, o.d, o.a, o.b, 5, o.stall⟩
  | .ddiv o => some ⟨29, o.g, o.d, o.a, o.b, 6, o.stall⟩
  | .dsqrt o => some ⟨29, o.g, o.d, o.a, 0, 7, o.stall⟩
  | .hadd2 o => some ⟨30, o.g, o.d, o.a, o.b, o.bf.toNat * 4, o.stall⟩
  | .hmul2 o => some ⟨30, o.g, o.d, o.a, o.b, o.bf.toNat * 4 + 1, o.stall⟩
  | .hfma2 o => some ⟨30, o.g, o.d, o.a, o.b, o.bf.toNat * 4 + 2, o.stall⟩
  | .hmax2 o => some ⟨30, o.g, o.d, o.a, o.b, o.bf.toNat * 4 + 3, o.stall⟩
  | .cvt o => some ⟨31, o.g, o.d, o.a, o.src * 8 + o.dst, o.rm * 2 + o.sat.toNat, o.stall⟩
  | .pk8e4 o => some ⟨32, o.g, o.d, o.a, o.b, 0, o.stall⟩
  | .pk8e5 o => some ⟨32, o.g, o.d, o.a, o.b, 1, o.stall⟩
  | .pk4 o => some ⟨32, o.g, o.d, o.a, o.b, 2, o.stall⟩
  | .up8e4 o => some ⟨32, o.g, o.d, o.a, o.b, 3, o.stall⟩
  | .up8e5 o => some ⟨32, o.g, o.d, o.a, o.b, 4, o.stall⟩
  | .up4 o => some ⟨32, o.g, o.d, o.a, o.b, 5, o.stall⟩
  | .qi8 o => some ⟨32, o.g, o.d, o.a, o.b, 6, o.stall⟩
  | .dq4 o => some ⟨32, o.g, o.d, o.a, o.b, 7, o.stall⟩
  | .icmp o => some ⟨33, o.g, o.p * 8 + o.q, o.a, o.b, o.k, o.c⟩
  | .ucmp o => some ⟨34, o.g, o.p * 8 + o.q, o.a, o.b, o.k, o.c⟩
  | .fcmp o => some ⟨35, o.g, o.p * 8 + o.q, o.a, o.b, o.k, o.c⟩
  | .dcmp o => some ⟨36, o.g, o.p * 8 + o.q, o.a, o.b, o.k, o.c⟩
  | .scmp o => some ⟨37, o.g, o.p * 8 + o.q, o.a, o.b, o.k, o.c⟩
  | .mov o => some ⟨38, o.g, o.d, o.a, 0, 0, o.stall⟩
  | .movs o => some ⟨38, o.g, o.d, o.a, o.hi.toNat, 1, o.stall⟩
  | .rdln o => some ⟨38, o.g, o.d, o.a, o.lane, 2, o.stall⟩
  | .wrln o => some ⟨38, o.g, o.d, o.a, o.lane, 3, o.stall⟩
  | .rdsr o => some ⟨38, o.g, o.d, o.n / 64, o.n % 64, 5, o.stall⟩
  | .wrsr o => some ⟨38, o.g, o.d, o.n / 64, o.n % 64, 6, o.stall⟩
  | .rdpc o => some ⟨38, o.g, o.d, 0, 0, 7, o.stall⟩
  | .shflIdx o => some ⟨39, o.g, o.d, o.a, o.b, o.s.toNat, o.stall⟩
  | .shflUp o => some ⟨39, o.g, o.d, o.a, o.b, 2 + o.s.toNat, o.stall⟩
  | .shflDown o => some ⟨39, o.g, o.d, o.a, o.b, 4 + o.s.toNat, o.stall⟩
  | .shflXor o => some ⟨39, o.g, o.d, o.a, o.b, 6 + o.s.toNat, o.stall⟩
  | .vall o => some ⟨40, o.g, o.d, o.a, 0, 0, o.stall⟩
  | .vany o => some ⟨40, o.g, o.d, o.a, 0, 1, o.stall⟩
  | .ballot o => some ⟨40, o.g, o.d, o.a, 0, 2, o.stall⟩
  | .pand o => some ⟨40, o.g, o.d, o.a, o.b, 3, o.stall⟩
  | .por o => some ⟨40, o.g, o.d, o.a, o.b, 4, o.stall⟩
  | .pxor o => some ⟨40, o.g, o.d, o.a, o.b, 5, o.stall⟩
  | .pset o => some ⟨40, o.g, o.d, 0, o.b, 6, o.stall⟩
  | .vmatch o => some ⟨40, o.g, o.d, o.a, 0, 7, o.stall⟩
  | .gredAdd o => some ⟨41, o.g, o.d, o.a, o.b, 0, o.stall⟩
  | .gredMin o => some ⟨41, o.g, o.d, o.a, o.b, 1, o.stall⟩
  | .gredMax o => some ⟨41, o.g, o.d, o.a, o.b, 2, o.stall⟩
  | .gredMinu o => some ⟨41, o.g, o.d, o.a, o.b, 3, o.stall⟩
  | .gredMaxu o => some ⟨41, o.g, o.d, o.a, o.b, 4, o.stall⟩
  | .gredFadd o => some ⟨41, o.g, o.d, o.a, o.b, 5, o.stall⟩
  | .gredFmin o => some ⟨41, o.g, o.d, o.a, o.b, 6, o.stall⟩
  | .gredFmax o => some ⟨41, o.g, o.d, o.a, o.b, 7, o.stall⟩
  | .scani o => some ⟨42, o.g, o.d, o.a, o.b, 0, o.stall⟩
  | .scanx o => some ⟨42, o.g, o.d, o.a, o.b, 1, o.stall⟩
  | .scanf o => some ⟨42, o.g, o.d, o.a, o.b, 2, o.stall⟩
  | .scanfx o => some ⟨42, o.g, o.d, o.a, o.b, 3, o.stall⟩
  | .scanmax o => some ⟨42, o.g, o.d, o.a, o.b, 4, o.stall⟩
  | .scanmin o => some ⟨42, o.g, o.d, o.a, o.b, 5, o.stall⟩
  | .segscan o => some ⟨42, o.g, o.d, o.a, o.b, 6, o.stall⟩
  | .ldB o => some ⟨43, o.g, o.t, o.base, o.idx, 0, o.ctr⟩
  | .ldH o => some ⟨43, o.g, o.t, o.base, o.idx, 1, o.ctr⟩
  | .ldW o => some ⟨43, o.g, o.t, o.base, o.idx, 2, o.ctr⟩
  | .ldD o => some ⟨43, o.g, o.t, o.base, o.idx, 3, o.ctr⟩
  | .ldQ o => some ⟨43, o.g, o.t, o.base, o.idx, 4, o.ctr⟩
  | .ldSb o => some ⟨43, o.g, o.t, o.base, o.idx, 5, o.ctr⟩
  | .ldSh o => some ⟨43, o.g, o.t, o.base, o.idx, 6, o.ctr⟩
  | .ldSc o => some ⟨43, o.g, o.t, o.base, 0, 7, o.ctr⟩
  | .stB o => some ⟨44, o.g, o.t, o.base, o.idx, 0, o.ctr⟩
  | .stH o => some ⟨44, o.g, o.t, o.base, o.idx, 1, o.ctr⟩
  | .stW o => some ⟨44, o.g, o.t, o.base, o.idx, 2, o.ctr⟩
  | .stD o => some ⟨44, o.g, o.t, o.base, o.idx, 3, o.ctr⟩
  | .stQ o => some ⟨44, o.g, o.t, o.base, o.idx, 4, o.ctr⟩
  | .stSc o => some ⟨44, o.g, o.t, o.base, 0, 7, o.ctr⟩
  | .ldsB o => some ⟨45, o.g, o.t, o.base, o.idx, 0, o.ctr⟩
  | .ldsH o => some ⟨45, o.g, o.t, o.base, o.idx, 1, o.ctr⟩
  | .ldsW o => some ⟨45, o.g, o.t, o.base, o.idx, 2, o.ctr⟩
  | .ldsD o => some ⟨45, o.g, o.t, o.base, o.idx, 3, o.ctr⟩
  | .ldsQ o => some ⟨45, o.g, o.t, o.base, o.idx, 4, o.ctr⟩
  | .ldsSb o => some ⟨45, o.g, o.t, o.base, o.idx, 5, o.ctr⟩
  | .ldsSh o => some ⟨45, o.g, o.t, o.base, o.idx, 6, o.ctr⟩
  | .stsB o => some ⟨46, o.g, o.t, o.base, o.idx, 0, o.ctr⟩
  | .stsH o => some ⟨46, o.g, o.t, o.base, o.idx, 1, o.ctr⟩
  | .stsW o => some ⟨46, o.g, o.t, o.base, o.idx, 2, o.ctr⟩
  | .stsD o => some ⟨46, o.g, o.t, o.base, o.idx, 3, o.ctr⟩
  | .stsQ o => some ⟨46, o.g, o.t, o.base, o.idx, 4, o.ctr⟩
  | .stsf o => some ⟨46, o.g, o.t, o.base, o.idx, 5, o.ctr⟩
  | .sete o => some ⟨46, o.g, 0, o.base, o.idx, 6, o.ctr⟩
  | .ldfW o => some ⟨47, o.g, o.t, o.base, o.idx, o.clr.toNat, o.ctr⟩
  | .ldfD o => some ⟨47, o.g, o.t, o.base, o.idx, 2 + o.clr.toNat, o.ctr⟩
  | .ldfQ o => some ⟨47, o.g, o.t, o.base, o.idx, 4 + o.clr.toNat, o.ctr⟩
  | .ldaW o => some ⟨48, o.g, o.t, o.base, o.idx, 0, o.ctr⟩
  | .ldaD o => some ⟨48, o.g, o.t, o.base, o.idx, 1, o.ctr⟩
  | .ldaQ o => some ⟨48, o.g, o.t, o.base, o.idx, 2, o.ctr⟩
  | .staW o => some ⟨48, o.g, o.t, o.base, o.idx, 4, o.ctr⟩
  | .staD o => some ⟨48, o.g, o.t, o.base, o.idx, 5, o.ctr⟩
  | .staQ o => some ⟨48, o.g, o.t, o.base, o.idx, 6, o.ctr⟩
  | .atomAdd o => some ⟨49, o.g, o.t, o.base, o.idx, 0, o.ctr⟩
  | .atomSmin o => some ⟨49, o.g, o.t, o.base, o.idx, 1, o.ctr⟩
  | .atomSmax o => some ⟨49, o.g, o.t, o.base, o.idx, 2, o.ctr⟩
  | .atomUmin o => some ⟨49, o.g, o.t, o.base, o.idx, 3, o.ctr⟩
  | .atomUmax o => some ⟨49, o.g, o.t, o.base, o.idx, 4, o.ctr⟩
  | .atomAnd o => some ⟨49, o.g, o.t, o.base, o.idx, 5, o.ctr⟩
  | .atomOr o => some ⟨49, o.g, o.t, o.base, o.idx, 6, o.ctr⟩
  | .atomXor o => some ⟨49, o.g, o.t, o.base, o.idx, 7, o.ctr⟩
  | .atomxXchg32 o => some ⟨50, o.g, o.t, o.base, o.idx, 0, o.ctr⟩
  | .atomxXchg64 o => some ⟨50, o.g, o.t, o.base, o.idx, 1, o.ctr⟩
  | .atomxAdd64 o => some ⟨50, o.g, o.t, o.base, o.idx, 2, o.ctr⟩
  | .atomxFadd32 o => some ⟨50, o.g, o.t, o.base, o.idx, 3, o.ctr⟩
  | .atomxFmin32 o => some ⟨50, o.g, o.t, o.base, o.idx, 4, o.ctr⟩
  | .atomxFmax32 o => some ⟨50, o.g, o.t, o.base, o.idx, 5, o.ctr⟩
  | .atomxFadd64 o => some ⟨50, o.g, o.t, o.base, o.idx, 6, o.ctr⟩
  | .atomxIncw o => some ⟨50, o.g, o.t, o.base, o.idx, 7, o.ctr⟩
  | .cas32 o => some ⟨51, o.g, o.t, o.base, o.idx, 0, o.ctr⟩
  | .cas64 o => some ⟨51, o.g, o.t, o.base, o.idx, 1, o.ctr⟩
  | .atomsAdd o => some ⟨52, o.g, o.t, o.base, o.idx, 0, o.ctr⟩
  | .atomsSmin o => some ⟨52, o.g, o.t, o.base, o.idx, 1, o.ctr⟩
  | .atomsSmax o => some ⟨52, o.g, o.t, o.base, o.idx, 2, o.ctr⟩
  | .atomsUmin o => some ⟨52, o.g, o.t, o.base, o.idx, 3, o.ctr⟩
  | .atomsUmax o => some ⟨52, o.g, o.t, o.base, o.idx, 4, o.ctr⟩
  | .atomsAnd o => some ⟨52, o.g, o.t, o.base, o.idx, 5, o.ctr⟩
  | .atomsOr o => some ⟨52, o.g, o.t, o.base, o.idx, 6, o.ctr⟩
  | .atomsXor o => some ⟨52, o.g, o.t, o.base, o.idx, 7, o.ctr⟩
  | .prefL2 o => some ⟨53, o.g, 0, o.base, o.idx, 0, o.ctr⟩
  | .prefL1 o => some ⟨53, o.g, 0, o.base, o.idx, 1, o.ctr⟩
  | .badd o => some ⟨54, o.g, o.t, o.base, o.idx, 0, o.ctr⟩
  | .bmax o => some ⟨54, o.g, o.t, o.base, o.idx, 1, o.ctr⟩
  | .bmin o => some ⟨54, o.g, o.t, o.base, o.idx, 2, o.ctr⟩
  | .bmul o => some ⟨54, o.g, o.t, o.base, o.idx, 3, o.ctr⟩
  | .bsmx o => some ⟨54, o.g, o.t, o.base, o.idx, 4, o.ctr⟩
  | .biadd o => some ⟨54, o.g, o.t, o.base, o.idx, 5, o.ctr⟩
  | .bimax o => some ⟨54, o.g, o.t, o.base, o.idx, 6, o.ctr⟩
  | .bset o => some ⟨54, o.g, o.t, o.base, o.idx, 7, o.ctr⟩
  | .gang o => some ⟨55, o.g, 0, o.base, 0, 0, o.ctr⟩
  | .obres o => some ⟨55, o.g, o.t, o.base, 0, 1, o.ctr⟩
  | .obrel o => some ⟨55, o.g, 0, o.base, 0, 2, o.ctr⟩
  | .tfetch o => some ⟨55, o.g, o.t, o.base, o.idx, 3, o.ctr⟩
  | .mma o => some ⟨55, o.g, o.t, o.base, 0, 4, o.ctr⟩
  | .mmaq o => some ⟨55, o.g, o.t, o.base, 0, 5, o.ctr⟩
  | .accz o => some ⟨55, o.g, o.t, 0, 0, 6, o.ctr⟩
  | .acczD o => some ⟨55, o.g, o.t, 0, 1, 6, o.ctr⟩
  | .cpy o => some ⟨56, o.g, o.t, o.base, o.idx, 0, o.ctr⟩
  | .cpyt o => some ⟨56, o.g, o.t, o.base, 0, 1, o.ctr⟩
  | .cpyn o => some ⟨56, o.g, o.t, o.base, o.idx, 2, o.ctr⟩
  | .nmc o => some ⟨56, o.g, o.t, o.base, o.entry, 3, o.ctr⟩
  | .rfence o => some ⟨56, o.g, 0, 0, 0, 4, o.ctr⟩
  | .rel o => some ⟨57, o.g, 0, 0, o.scope * 8 + o.sealed.toNat * 4, 0, 0⟩
  | .acq o => some ⟨57, o.g, 0, 0, o.scope * 8, 1, 0⟩
  | .acqr o => some ⟨57, o.g, o.t, o.base, 0, 2, 0⟩
  | .fence o => some ⟨57, o.g, 0, 0, o.scope * 8, 3, 0⟩
  | .fencex o => some ⟨57, o.g, 0, 0, o.pa * 8 + o.pb, 4, 0⟩
  | .waitc o => some ⟨57, o.g, o.t, o.base, o.op * 8 + o.dword.toNat * 4, 5, 0⟩
  | .snap o => some ⟨57, o.g, o.t, o.base, 0, 6, 0⟩
  | .revert o => some ⟨57, o.g, o.t, o.base, 0, 7, 0⟩
  | .sndrop o => some ⟨57, o.g, o.t, o.base, 1, 7, 0⟩
  | .bari o => some ⟨58, o.g, 0, o.base, 0, 0, 0⟩
  | .bara o => some ⟨58, o.g, o.t, o.base, 0, 1, 0⟩
  | .barw o => some ⟨58, o.g, o.t, o.base, 0, 2, 0⟩
  | .bars o => some ⟨58, o.g, o.t, o.base, 0, 3, 0⟩
  | .barb o => some ⟨58, o.g, o.t, o.base, 0, 4, 0⟩
  | .regrpTeam o => some ⟨58, o.g, o.p, 0, o.v, 5, 0⟩
  | .regrpCore o => some ⟨58, o.g, o.p, 1, o.v, 5, 0⟩
  | .rgive o => some ⟨58, o.g, o.n4, 0, 0, 6, 0⟩
  | .rclaim o => some ⟨58, o.g, o.n4, o.base, 0, 7, 0⟩
  | .bra o => some ⟨59, o.g, o.disp.toNat / 32768, o.disp.toNat / 512 % 64, o.disp.toNat / 8 % 64, o.disp.toNat % 8, 0⟩
  | .call o => some ⟨59, o.g, o.disp.toNat / 32768, o.disp.toNat / 512 % 64, o.disp.toNat / 8 % 64, o.disp.toNat % 8, 1⟩
  | .brx o => some ⟨60, o.g, 0, o.a, 0, 0, o.stall⟩
  | .callx o => some ⟨60, o.g, 0, o.a, 0, 1, o.stall⟩
  | .ret o => some ⟨60, o.g, 0, 0, 0, 2, o.stall⟩
  | .exit o => some ⟨60, o.g, 0, 0, 0, 3, o.stall⟩
  | .yield o => some ⟨60, o.g, 0, 0, 0, 4, o.stall⟩
  | .trap o => some ⟨60, o.g, 0, 0, o.n, 5, o.stall⟩
  | .brk o => some ⟨60, o.g, 0, 0, o.n, 6, o.stall⟩
  | .nop o => some ⟨60, o.g, 0, 0, 0, 7, o.stall⟩
  | _ => none

/-- The words of an instruction: the instruction word and its literals; none for an event, which has no encoding. -/
def encode (i : Instr) : List Word :=
  match i with
  | .slit o x => [(Fields.mk 0x15 0 o.d 0 0 0 o.stall).toWord, x]
  | .slitW64 o x y => [(Fields.mk 0x15 0 o.d 0 0 1 o.stall).toWord, x, y]
  | .vlit o x => [(Fields.mk 0x26 o.g o.d 0 0 4 o.stall).toWord, x]
  | i => match encodeFields i with
    | some f => [f.toWord]
    | none => []

/-- The words of an instruction whose bits are numbered as the table numbers them: the first word is bits 31..0, the next bits 63..32;
bits at and above nbits are 0, up to the longest instruction, three words. -/
def tableWords (nbits w : Nat) : List Word :=
  let n := w % 2 ^ nbits
  [BitVec.ofNat 32 n, BitVec.ofNat 32 (n / 2 ^ 32), BitVec.ofNat 32 (n / 2 ^ 64)]

/-- What the decoder reads from an instruction whose bits are w. -/
noncomputable def decodeTableWord (nbits w : Nat) : Option Instr :=
  match decode (tableWords nbits w) with
  | .ok (i, _) => some i
  | .error _ => none

end Sys2Proof
end

