-- ==== Sys2Proof/Machine/Issue.lean ====
section
/-!
DEFINITION. Clauses: headers, fetching (10_memory R176), the states of lanes (02_execution R40 to R45), the checks of a clause (04_encoding
R58 to R62, R82), issue (R41, R46), and the active set (16_frontend R272, R273).
-/
namespace Sys2Proof.Machine

/-! ## Headers (R59) -/

/-- N. -/
def hdrN (h : Nat) : Nat := field h 28 4
/-- ENG. -/
def hdrEng (h : Nat) : Nat := field h 25 3
/-- The counters of WAIT. -/
def hdrWait (h : Nat) : List Nat := (List.range 4).filter fun k => h.testBit (21 + k)
/-- Y. -/
def hdrY (h : Nat) : Bool := h.testBit 20
/-- J. -/
def hdrJ (h : Nat) : Bool := h.testBit 19
/-- P. -/
def hdrP (h : Nat) : Bool := h.testBit 18
/-- N is not 0 and the low bits are (R60). -/
def hdrOk (h : Nat) : Bool := hdrN h != 0 && field h 0 18 == 0

/-! ## Words without their meaning -/

/-- The major of a word. -/
def wordMajor (w : Word) : Nat := field w.toNat 26 6
/-- The minor field. -/
def wordMinor (w : Word) : Nat := field w.toNat 2 3
/-- Literals that follow a word (R70 to R72). -/
def wordLiterals (w : Word) : Nat :=
  if wordMajor w = 0x15 then (if wordMinor w = 1 then 2 else 1) else if wordMajor w = 0x26 && wordMinor w == 4 then 1 else 0

/-- The instruction words of a clause, literals skipped. -/
def instrWords : Nat → List Word → List Word
  | 0, _ => []
  | _, [] => []
  | n + 1, w :: rest => w :: instrWords n (rest.drop (wordLiterals w))

/-- NOP, which matches every class (R62). -/
def isNop (w : Word) : Bool := wordMajor w == 0x3C && wordMinor w == 7
/-- A collective word (R44). -/
def isCollective (w : Word) : Bool :=
  let j := wordMajor w
  let m := wordMinor w
  (decide (0x27 ≤ j) && decide (j ≤ 0x2A)) || j == 0x37 || (j == 0x3A && decide (m ≤ 5)) || (j == 0x38 && decide (1 ≤ m) && decide (m ≤ 3))
/-- RGIVE, RCLAIM and REGRP (R62). -/
def isPool (w : Word) : Bool := wordMajor w == 0x3A && decide (5 ≤ wordMinor w)

/-- The class of a major: 0 ALU, 1 MEM, 2 BNK, 3 MMX, 4 ASY, 5 SYN, 6 CTL; none for the majors without one (R62, R84). -/
def classOf (j : Nat) : Option Nat :=
  if j = 0 || j = 0x17 || decide (0x3D ≤ j) then none
  else if j ≤ 0x2A then some 0
  else if j ≤ 0x35 then some 1
  else if j = 0x36 then some 2
  else if j = 0x37 then some 3
  else if j = 0x38 then some 4
  else if j ≤ 0x3A then some 5
  else some 6

/-- The core has the unit of a word (R27, R28); the formats of MMA and MMAQ are checked at release (R355). -/
def State.hasUnitFor (s : State) (core : Nat) (w : Word) : Bool :=
  let m := wordMinor w
  let scope := field w.toNat 8 3
  match wordMajor w with
  | 0x1C => s.hasUnit core 1
  | 0x1D => decide (m < 6) || s.hasUnit core 1
  | 0x36 => s.hasUnit core 4
  | 0x37 => m == 4 || m == 5 || s.hasMatrix core
  | 0x38 =>
    if m ≤ 1 then s.hasUnit core 5 else if m = 2 then s.hasUnit core 6 else if m = 3 then s.hasUnit core 7 else s.hasUnit core 9
  | 0x39 => !((m == 0 || m == 1 || m == 3) && (scope == 5 || scope == 6)) || s.hasUnit core 8
  | _ => true

/-! ## The checks of R82 -/

/-- What a clause is checked against: its class, the core's units, the allotment. -/
structure ClauseCheck where
  eng : Nat
  unit : Word → Bool
  alloc : Nat

/-- The registers that the first word names and the words after it (R49, R82), or why it is illegal. -/
def wordUses (ws : List Word) : Except Reject (Uses × List Word) :=
  decodeWith usesOf (fun o => { vr := pairOf o.a }) (fun _ => {}) (fun _ => {}) (fun _ => {}) (fun _ => {}) (fun _ => {}) (fun _ => {}) ws

/-- The checks of the words of a clause in position order; `closed` after RGIVE, RCLAIM or REGRP. The code of the first that fails. -/
def wordsFault (k : ClauseCheck) (closed : Bool) : Nat → List Word → Option Nat
  | 0, _ => none
  | _, [] => none
  | n + 1, w :: rest =>
    let cls := classOf (wordMajor w)
    if cls.any (fun c => !isNop w && k.eng != 7 && c != k.eng) then some 0x03
    else if cls == some 6 && !isNop w && rest != [] then some 0x03
    else if closed && !isNop w then some 0x01
    else
      match wordUses (w :: rest) with
      | .error _ => some 0x01
      | .ok (u, rest') =>
        if !k.unit w then some 0x05
        else if u.named.any fun r => decide (k.alloc ≤ r) then some 0x02
        else wordsFault k (closed || isPool w) n rest'

/-- The check of a whole clause (R82). -/
def clauseFault (k : ClauseCheck) (hdr : Nat) (words : List Word) : Option Nat :=
  if !hdrOk hdr then some 0x01 else wordsFault k false 16 words

/-! ## Fetching (R176) -/

/-- What fetching a clause gives. -/
inductive Fetched where
  | ok (hdr : Nat) (words : List Word)
  /-- A page that is not there: its address. -/
  | replay (a : Nat)
  | fatal (code a : Nat)
  deriving DecidableEq, Repr

/-- What a fetch of a word by a group finds at an address: the published word or, where publications have replaced it since the launch of the
group, any of the words that stood there, the choice being free; `who` is the lane that is looked after, 32 for a clause that issues
(R176; log entry 24, DESIGN CHOICE). -/
def State.codeWord (s : State) (g : Group) (who a : Nat) : Nat :=
  let launch := ((s.ownerOf g).map (·.launch)).getD 0
  let now := s.image.nat a 4
  match (s.texts.filter fun x => x.addr == a && decide (launch < x.before)).map (·.word) with
  | [] => now
  | ws => (now :: ws).getD (Config.freeNat s.serial a (64 + who) % (ws.length + 1)) now

/-- Fetch one word of code, once L2 holds its line (R176, R316). -/
def State.fetchWord (s : State) (g : Group) (who a : Nat) : Fetched × State :=
  match s.translateCode g.core (s.ctxOfGroup g) a a with
  | (.ok f, s) =>
    let s : State := s.fillPublished (lineOf f.addr)
    (if s.lost.contains (lineOf f.addr) then .fatal 0x0F a else .ok (s.codeWord g who f.addr) [], s)
  | (.replay, s) => (.replay a, s)
  | (.fatal code, s) => (.fatal code a, s)

/-- Fetch n words. -/
def State.fetchWords (s : State) (g : Group) (who a : Nat) : Nat → Fetched × State
  | 0 => (.ok 0 [], s)
  | n + 1 =>
    match s.fetchWord g who a with
    | (.ok w _, s) =>
      match State.fetchWords s g who (a + 4) n with
      | (.ok _ ws, s) => (.ok w (BitVec.ofNat 32 w :: ws), s)
      | r => r
    | r => r

/-- Fetch a clause: its header, then as many words as it says. -/
def State.fetchClause (s : State) (g : Group) (who a : Nat) : Fetched × State :=
  match s.fetchWord g who a with
  | (.ok h _, s) =>
    match s.fetchWords g who (a + 4) (hdrN h) with
    | (.ok _ ws, s) => (.ok h ws, s)
    | r => r
  | r => r

/-- The header and words at a lane's vpc as the front of the machine sees them when it decides which lanes can issue; an address that cannot be
fetched holds no lane. -/
def State.peekClause (s : State) (g : Group) (l : Nat) : Nat × List Word :=
  match (s.fetchClause g l (g.lane l).vpc.toNat).1 with
  | .ok h ws => (h, ws)
  | _ => (0, [])

/-! ## States of lanes (R40 to R45) -/

/-- The state of a lane. -/
inductive LaneState where
  | exited | waiting | parked | ready
  deriving DecidableEq, Repr

/-- The lane stands in a clause in progress. -/
def Group.inRun (g : Group) (l : Nat) : Bool := g.runs.any fun r => inMask r.lanes l
/-- The lane stands in a clause in progress at a word in which it is blocked (R40). -/
def Group.blockedIn (g : Group) (l : Nat) : Bool := g.runs.any fun r => inMask r.lanes l && r.blocked

/-- The lanes that have not exited with that vpc. -/
def Group.lanesAt (g : Group) (a : DWord) : List Nat := g.alive.filter fun l => (g.lane l).vpc == a

/-- Every counter of the set is zero for a lane. -/
def Lane.clear (l : Lane) (w : List Nat) : Bool := w.all fun k => l.counter k == 0

/-- The state that a clause at its vpc gives a lane that is not in a clause in progress (R42 to R44, R61). The model's own choices (log entry 82, DESIGN CHOICE):
a lane at a collective clause that other lanes have not reached is parked whatever its counters; one that has come round to a collective clause in which others
still stand waits. -/
def Group.stateAt (g : Group) (l : Nat) (hdr : Nat) (words : List Word) : LaneState :=
  let a := (g.lane l).vpc
  let coll := (instrWords 16 words).any isCollective
  let w := hdrWait hdr
  if coll && g.alive.any fun k => (g.lane k).vpc != a then .parked
  else if hdrJ hdr && g.alive.any fun k => decide ((g.lane k).vpc.toNat < a.toNat) then .parked
  else if coll && g.alive.any g.inRun then .waiting
  else if hdrP hdr && !coll then (if (g.lane l).clear w then .ready else .waiting)
  else if (g.lanesAt a).all fun k => (g.lane k).clear w then .ready
  else .waiting

/-- The state of a lane (R40). A lane in a clause in progress waits where it is blocked in one of the words that R40, R241 and R311 name, and is ready
elsewhere; the lanes of a halted group wait once they stand between clauses (R289). -/
def State.laneState (s : State) (g : Group) (l : Nat) : LaneState :=
  if (g.lane l).exited then .exited
  else if g.blockedIn l then .waiting
  else if g.inRun l then .ready
  else if g.halted then .waiting
  else
    let c := s.peekClause g l
    g.stateAt l c.1 c.2

/-- The ready lanes. -/
def State.readyLanes (s : State) (g : Group) : List Nat := (List.range 32).filter fun l => s.laneState g l == .ready

/-- The least vpc of some lanes. -/
def Group.leastVpc (g : Group) (ls : List Nat) : Option Nat :=
  ls.foldl (fun acc l =>
    let a := (g.lane l).vpc.toNat
    match acc with
    | none => some a
    | some b => some (min a b)) none

/-- The issue address, which is the least vpc of the ready lanes, and the lanes that issue there (R41); none while ready lanes there or below are in a clause
(R51). -/
def State.issueLanes (s : State) (g : Group) : Option (Nat × List Nat) :=
  let ready := s.readyLanes g
  (g.leastVpc ready).bind fun a =>
    let ls := ready.filter fun l => (g.lane l).vpc.toNat == a && !g.inRun l
    if ls = [] || g.readyRuns.any fun r => decide (r.hdr.toNat ≤ a) then none else some (a, ls)

/-! ## CLAUSE_ISSUE -/

/-- No lease of the owner waits to be re-established; until it is, no group of the team issues anything (R279, R383). -/
def State.leaseOpen (s : State) (g : Group) : Bool :=
  match s.ownerOf g with
  | some t => match t.lease with | .saved _ _ _ _ _ => false | _ => true
  | none => true

/-- The group may issue a clause: it is resident, in the active set, and held by no fault, replay report, halt or lease (R40, R41, R174, R272, R288, R289,
R383). -/
def State.mayIssue (s : State) (g : Group) : Bool :=
  g.isResident && g.active && !g.halted && g.holds == [] && g.report.isNone && !g.ended && s.leaseOpen g &&
    match s.ownerOf g with
    | some t => t.state == .resident && !t.leaving
    | none => false

/-- Lanes start a clause: counters in its WAIT set have been waited for (R80, R189), and the clause is in progress. -/
def Group.startClause (g : Group) (a : Nat) (lanes : List Nat) (hdr : Nat) (words : List Word) (tick : Nat) : Group :=
  let w := hdrWait hdr
  let mask := maskOf lanes
  let g := g.modLanes lanes fun l => { l with pend := l.pend.filter fun p => !w.contains p.ctr }
  { g with
    spend := (g.spend.map fun (p : SPend) => if w.contains p.ctr then { p with lanes := maskMinus p.lanes mask } else p).filter
      fun p => p.lanes != 0
    runs := g.runs ++ [{ hdr := BitVec.ofNat 64 a, words := words, pos := 0, lanes := mask, yields := hdrY hdr, targets := [], wait := .none,
                          issue := tick, ran := [] }]
    lastIssue := tick }

/-- The check of a clause for a group. -/
def State.checkFor (s : State) (g : Group) (hdr : Nat) : ClauseCheck where
  eng := hdrEng hdr
  unit := s.hasUnitFor g.core
  alloc := g.alloc

/-- CLAUSE_ISSUE: the ready lanes at the issue address start their clause, once it is fetched and checked (R41, R46, R82, R176). -/
def execClauseIssue (gid : Nat) (s : State) : Host.Outcome State Fault Refusal :=
  .next (match s.group? gid with
    | none => s
    | some g =>
      if !s.mayIssue g then s
      else
        match s.issueLanes g with
        | none => s
        | some (a, lanes) =>
          match s.fetchClause g 32 a with
          | (.replay b, s) => s.holdGroup gid 3 (maskOf lanes) b
          | (.fatal code b, s) => s.killGroup gid code { vaddr := b, acc := 3 }
          | (.ok hdr words, s) =>
            match clauseFault (s.checkFor g hdr) hdr words with
            | some code => s.killGroup gid code
            | none => s.putGroup (g.startClause a lanes hdr words s.tick))

/-! ## COLLECTIVE_DEADLOCK (R45) -/

/-- Every lane that has not exited is parked, at least one at a collective clause. -/
def State.collectivelyStuck (s : State) (g : Group) : Bool :=
  g.alive != [] && (g.alive.all fun l => s.laneState g l == .parked)
    && g.alive.any fun l => (instrWords 16 (s.peekClause g l).2).any isCollective

/-- COLLECTIVE_DEADLOCK: the part has detected a group that can never issue again (R45). -/
def execCollectiveDeadlock (gid : Nat) (s : State) : Host.Outcome State Fault Refusal :=
  .next (match s.group? gid with
    | none => s
    | some g => if g.isResident && s.collectivelyStuck g then s.killGroup gid 0x0B else s)

/-! ## The active set (R272, R273) -/

/-- The run waits for what does not depend on its own group's progress: a halted group may stand there (R289). -/
def Run.rests (r : Run) : Bool :=
  match r.wait with
  | .monitor _ _ | .barrier _ _ _ | .claim _ _ _ | .regrp _ _ _ _ | .ldf _ | .held _ _ _ | .join => true
  | _ => false
/-- A group that has halted: at a clause boundary, or its lanes in a clause wait (R289). -/
def Group.stopped (g : Group) : Bool := g.halted && g.runs.all Run.rests
/-- Groups of a core that stand in a set: resident, not ended, not halted (R272). -/
def State.groupsOn (s : State) (core : Nat) : List Group :=
  s.groups.filter fun g => g.isResident && g.core == core && !g.ended && !g.stopped
/-- A group that has halted leaves its set (R272). -/
def Group.leaveSet (tick : Nat) (g : Group) : Group :=
  if g.stopped && g.active then
    { g with
      active := false
      pendingSince := tick }
  else g

/-- The group of the pending set that enters: with a ready lane, pending longest, the lowest slot on a tie. -/
def State.nextPending (s : State) (core : Nat) : Option Group :=
  (sortBy (fun (g : Group) => g.pendingSince * 64 + g.slot)
    ((s.groupsOn core).filter fun g => !g.active && s.readyLanes g != [])).head?

/-- A group of the active set that leaves: no ready lane, and at least one waiting. -/
def State.idleActive (s : State) (core : Nat) : Option Group :=
  (s.groupsOn core).find? fun g => g.active && s.readyLanes g == [] && g.alive.any fun l => s.laneState g l == .waiting

/-- ACTIVE_SET_EXCHANGE: a pending group with a ready lane enters the active set, in the place of one that waits where the set is full. -/
def execActiveSetExchange (core : Nat) (s : State) : Host.Outcome State Fault Refusal :=
  .next (match s.nextPending core with
    | none => s
    | some p =>
      let enter : State → State := fun s => s.modGroup p.gid fun g => { g with active := true }
      if ((s.groupsOn core).filter fun g => g.active).length < 8 then enter s
      else
        match s.idleActive core with
        | none => s
        | some g => enter (s.modGroup g.gid fun g => { g with active := false, pendingSince := s.tick }))

/-- A group that has yielded returns to the active set at once where no other pending group of its core has a ready lane (R273). -/
def State.settleYield (s : State) (g : Group) : State :=
  let back := g.isResident && !((s.groupsOn g.core).any fun h => h.gid != g.gid && !h.active && s.readyLanes h != [])
  s.modGroup g.gid fun g => { g with active := g.active || (back && !g.halted && !g.ended), yielded := false }

end Sys2Proof.Machine
end

