-- ==== Sys2Proof/Machine/Regroup.lean ====
section
/-!
DEFINITION. Regroup and the register pool (12_control R223 to R231), the ending of groups and the retirement of teams (02_execution R53, R54,
12_control R228).
-/
namespace Sys2Proof.Machine

/-! ## The register pool (R229 to R231) -/

/-- RGIVE: once every counter of the group is 0, registers go back to the reserve, and waiting claims are tried (R229, R230). -/
def execRgive (o : ArgsN) (s : State) : Host.Outcome State Fault Refusal :=
  s.joined none {} fun c =>
    let n := 4 * o.n4
    if c.g.alloc ≤ n then c.next c.g 1 1
    else if c.g.lanes.any fun l => !l.clear [0, 1, 2, 3] then c.hold
    else (c.next { c.g with alloc := n, lent := min c.g.lent (n / 4) } 1 1).claimPass c.g.owner

/-- RCLAIM: a claim of no more than the allotment succeeds; another waits until the reserve covers it (R230). -/
def execRclaim (o : ArgsNB) (s : State) : Host.Outcome State Fault Refusal :=
  s.joined none { sw := [o.base] } fun c =>
    let n := 4 * o.n4
    if n ≤ c.g.alloc then c.next (c.writeS 0 c.g o.base 0) 1 1
    else { s.putGroup (c.forkGroup c.g c.split (.claim n o.base s.fresh)) with fresh := s.fresh + 1 }.claimPass c.g.owner

/-- A lane waits in RCLAIM or REGRP, or is parked (R231). -/
def State.laneBlocked (s : State) (g : Group) (l : Nat) : Bool :=
  match g.runs.find? fun r => inMask r.lanes l with
  | some r => (match r.wait with | .claim _ _ _ => true | .regrp _ _ _ _ => true | _ => false)
  | none => s.laneState g l == .parked

/-- The groups of a team that have a lane left (R228). -/
def State.liveGroups (s : State) (tid : Nat) : List Group :=
  s.groups.filter fun g => g.alive != [] && (g.owner == tid || g.lanes.any fun l => !l.exited && l.team == tid)

/-- A claim deadlock of a team (R231). -/
def State.claimStuck (s : State) (t : Team) : Bool :=
  let cs := s.claims t.tid
  t.state == .resident && cs != []
    && (s.liveGroups t.tid).all (fun g => g.alive.all fun l => s.laneBlocked g l)
    && cs.all fun c => match s.group? c.1 with
      | some g => decide (s.reserve t < (c.2.1 - g.alloc) / 4)
      | none => true

/-- The status register of a run that waits in RCLAIM. -/
def Run.claims (r : Run) : Option Nat :=
  match r.wait with
  | .claim _ sreg _ => some sreg
  | _ => none

/-- The waiting claims of a group break: one record with their lanes, status 0x0D, and the lanes go on (R230, R231). -/
def State.breakClaim (s : State) (ctx gid : Nat) : State :=
  match s.group? gid with
  | none => s
  | some g =>
    let rs := g.runs.filter fun r => r.claims.isSome
    let lanes : Mask := rs.foldl (fun m r => m ||| r.lanes) 0
    let g' := rs.foldl (fun (g : Group) r => match r.claims with | some x => g.landS x 0x0D | none => g) g
    (s.event ctx (s.groupEvent g 1 0x0C 0xFF lanes 0)).putGroup
      ((g'.release (fun r => r.claims.isSome) fun r => maskLanes r.lanes).settle s.tick)

/-- CLAIM_DEADLOCK: every waiting claim of the team breaks, and the sticky error records 0x0C once (R231). -/
def execClaimDeadlock (tid : Nat) (s : State) : Host.Outcome State Fault Refusal :=
  .next (match s.team? tid with
    | none => s
    | some t =>
      if !s.claimStuck t then s
      else
        let ctx := s.ctxOfTeam t
        let s' : State := s.note ctx 0x0C t.index
        let gids := (s.claims tid).foldl (fun l c => addNew l c.1) []
        (gids.foldl (fun s gid => s.breakClaim ctx gid) s').modLaunch t.launch fun l => { l with bad := true })

/-! ## Arriving at a regroup (R223, R224) -/

/-- The tags of a group's lanes that have not exited. -/
def Group.tags (g : Group) : List Nat := g.alive.foldl (fun l i => addNew l (g.lane i).team) []

/-- The groups that hold a lane of a team whose tag any lane of some groups carries, an exited one too. -/
def State.sharing (s : State) (gs : List Group) : List Group :=
  let tags := gs.flatMap fun g => g.lanes.map (·.team)
  s.groups.filter fun g => gs.any (fun h => h.gid == g.gid) || g.tags.any tags.contains
/-- The closure of that relation. -/
def State.sharingClosure (s : State) : Nat → List Group → List Group
  | 0, gs => gs
  | n + 1, gs => State.sharingClosure s n (s.sharing gs)

/-- The participants of a regroup that a group is the first to reach: the groups of its teams, or those of its launch's teams on the core
(R224). -/
def State.participants (s : State) (g : Group) (core : Bool) : List Nat :=
  if core then
    let lid := (s.ownerOf g).map (·.launch)
    let ts := s.teams.filter fun t => some t.launch == lid && t.core == g.core && t.state == .resident
    (s.groups.filter fun h => h.tags.any fun x => ts.any fun t => t.tid == x).map (·.gid)
  else (s.sharingClosure s.groups.length [g]).map (·.gid)

/-- The regroup at which a group has arrived. -/
def Group.regrp? (g : Group) : Option (Bool × Nat × List (Nat × Nat) × List Nat) :=
  g.runs.findSome? fun r => match r.wait with | .regrp c p ks ps => some (c, p, ks, ps) | _ => none

/-- A regroup that waits for a group; of two, the first found in the order of the groups (R224; log entry 75, DESIGN CHOICE). -/
def State.awaitedIn (s : State) (gid : Nat) : Option (List Nat) :=
  s.groups.findSome? fun h => (h.regrp?.map (·.2.2.2)).bind fun ps => if h.gid != gid && ps.contains gid then some ps else none

/-- REGRP: the group arrives with its lanes' keys (R223, R224). -/
def State.regrpWord (s : State) (o : ArgsRegrp) (core : Bool) : Host.Outcome State Fault Refusal :=
  s.joined none { vr := [o.v] } fun c =>
    let keys := c.g.alive.map fun l => (l, field (c.v l o.v).toNat 0 8)
    let ps := (s.awaitedIn c.g.gid).getD (s.participants c.g core)
    s.putGroup (c.forkGroup c.g c.split (.regrp core o.p keys ps))

/-- REGRP.TEAM (R223). -/
def execRegrpTeam (o : ArgsRegrp) (s : State) : Host.Outcome State Fault Refusal := s.regrpWord o false

/-- REGRP.CORE (R223). -/
def execRegrpCore (o : ArgsRegrp) (s : State) : Host.Outcome State Fault Refusal := s.regrpWord o true

/-! ## Relocation (R225, R226) -/

/-- A lane that moves: its key, its group, its position, the lane. -/
structure Mover where
  key : Nat
  gid : Nat
  pos : Nat
  lane : Lane

/-- ceil(n / 32). -/
def groupsFor (n : Nat) : Nat := (n + 31) / 32

/-- The class of least size, the lowest key on a tie; classes are in ascending key. -/
def leastClass : List (Nat × Nat) → Option (Nat × Nat)
  | [] => none
  | c :: rest =>
    match leastClass rest with
    | none => some c
    | some d => if d.2 < c.2 then some d else some c

/-- Keys that keep groups of their own, of (key, count) in ascending key, for G groups; `mixed` lanes share the rest (R225). -/
def uniformKeys (groups : Nat) : Nat → List (Nat × Nat) → Nat → List Nat
  | 0, u, _ => u.map (·.1)
  | n + 1, u, mixed =>
    if groups < ((u.map fun c => groupsFor c.2).sum + groupsFor mixed) then
      match leastClass u with
      | none => []
      | some c => uniformKeys groups n (u.filter fun d => d.1 != c.1) (mixed + c.2)
    else u.map (·.1)

/-- A list padded with empty positions to a multiple of 32. -/
def padded (l : List Mover) : List (Option Mover) := l.map some ++ List.replicate (32 * groupsFor l.length - l.length) none

/-- The sequence of positions of R225 for lanes in order. -/
def regroupSequence (groups : Nat) (ms : List Mover) : List (Option Mover) :=
  let keys := ms.foldl (fun l m => addNew l m.key) []
  let classes := (sortBy id keys).map fun k => (k, (ms.filter fun m => m.key == k).length)
  let u := uniformKeys groups classes.length classes 0
  (u.flatMap fun k => padded (ms.filter fun m => m.key == k)) ++ padded (ms.filter fun m => !u.contains m.key)

/-- The lanes of the participants in the order of R225. -/
def moversOf (gs : List Group) : List Mover :=
  sortBy (fun m => m.key * 2 ^ 64 + m.lane.origin.toNat) (gs.flatMap fun g =>
    match g.regrp? with
    | none => []
    | some (_, _, keys, _) => g.alive.map fun l => { key := (assoc keys l).getD 0, gid := g.gid, pos := l, lane := g.lane l })

/-- The issue distance of every new group: the greatest of the participants', so that each earlier distance counts on. -/
def commonDist (gs : List Group) : Nat := (gs.map (·.dist)).foldl max 0

/-- A moved lane: at the fall-through address of the clause that it issued, with the predicate that its REGRP named, which says whether its new group is
uniform (R225, R226). Every result is written, and its issue distance is what it was (R81, R127). -/
def Mover.arrive (m : Mover) (g : Group) (dist : Nat) (uniform : Bool) : Lane :=
  let r := g.runs.find? fun r => inMask r.lanes m.pos
  let p := match r.map (·.wait) with | some (.regrp _ p _ _) => p | _ => 0
  let l := m.lane.written
  Lane.putP { l with
    vpc := (r.map Run.fallThrough).getD l.vpc
    fresh := l.fresh.map fun (f : Fresh) => { f with group0 := f.group0 + (dist - g.dist) } } p uniform

/-- The new content of slot j of the participants. Empty positions are no lanes and carry no team's tag (R216, R225). A clause with Y = 1 makes the group in the
slot yield in which a group stood that issued it (R61; log entry 83, DESIGN CHOICE). -/
def newGroup (gs : List Group) (first : Group) (flags : Flags) (sq : List (Option Mover)) (tick : Nat) (g : Group) (j : Nat) : Group :=
  let mine := (sq.drop (32 * j)).take 32
  let ms := mine.filterMap id
  let uniform := match ms with | [] => true | m :: rest => rest.all fun x => x.key == m.key
  let yields := g.runs.any (·.yields)
  let dist := commonDist gs
  let home : Mover → Group := fun m => (gs.find? fun h => h.gid == m.gid).getD g
  let lanes := (List.range 32).map fun i =>
    match mine.getD i none with
    | none => Lane.blank
    | some m => m.arrive (home m) dist uniform
  let from0 : Mask → Mask := fun x => maskOf ((List.range 32).filter fun i =>
    match mine.getD i none with
    | some m => m.gid == first.gid && inMask x m.pos
    | none => false)
  -- lanes that are to receive a replay report (R288)
  let told := (List.range 32).filterMap fun i => (mine.getD i none).bind fun m =>
    ((home m).report.filter fun x => inMask x.1 m.pos).map fun x => (i, x.2)
  { g with
    lanes := lanes, s := first.s, fpflags := flags, gang := 0, mmaCount := 0, former := [], runs := [], dist := dist
    sfresh := first.sfresh.map fun (f : SFresh) => { f with
      old := first.getS f.reg
      issuers := from0 f.issuers
      lane0 := (List.range 32).map fun i => ((mine.getD i none).map fun m => f.lane0.getD m.pos 0).getD 0
      group0 := f.group0 + (dist - first.dist) }
    spend := (first.spend.map fun e => { e with lanes := from0 e.lanes }).filter fun e => e.lanes != 0
    report := told.head?.map fun x => (maskOf (told.map (·.1)), x.2)
    active := g.active && !yields
    yielded := g.yielded || yields
    pendingSince := if yields then tick else g.pendingSince }

/-- The participants of a regroup that still have a lane, in ascending slot order. -/
def State.remaining (s : State) (ps : List Nat) : List Group :=
  sortBy (fun (g : Group) => g.slot) (s.groups.filter fun g => ps.contains g.gid && g.alive != [] && !g.ended)

/-- The relocation: every new group takes its positions (R225, R226). -/
def State.relocate (s : State) (gs : List Group) : State :=
  match gs with
  | [] => s
  | first :: _ =>
    let sq := regroupSequence gs.length (moversOf gs)
    let flags := gs.foldl (fun a g => a ||| g.fpflags) 0
    (gs.zipIdx.map fun (g, j) => (newGroup gs first flags sq s.tick g j).giveReport).foldl (fun s g => s.putGroup g) s

/-- The participants of the regroup at which a group waits, once collection has ended: all are resident and have arrived. -/
def State.collected (s : State) (gid : Nat) : List Group :=
  match (s.group? gid).bind Group.regrp? with
  | none => []
  | some (_, _, _, ps) =>
    let gs := s.remaining ps
    if gs.any fun g => !g.isResident || (g.regrp?.map (·.2.2.2)) != some ps then [] else gs

/-- The participants that differ from the first in their form or allotment (R224). -/
def oddOnes (gs : List Group) : List Group :=
  match gs with
  | [] => []
  | first :: _ => gs.filter fun g => (g.regrp?.map (·.1)) != (first.regrp?.map (·.1)) || g.alloc != first.alloc

/-- Relocation can begin: the participants are alike and every counter is 0 (R224). -/
def relocationDue (gs : List Group) : Bool := gs != [] && oddOnes gs == [] && gs.all fun g => g.lanes.all fun l => l.clear [0, 1, 2, 3]

/-- REGRP_RELOCATION: at the end of collection participants that differ from the first end with 0x01; once every counter is 0 the lanes move
(R224 to R227). -/
def execRegrpRelocation (gid : Nat) (s : State) : Host.Outcome State Fault Refusal :=
  let gs := s.collected gid
  .next (if oddOnes gs != [] then (oddOnes gs).foldl (fun s g => s.killGroup g.gid 0x01) s
    else if relocationDue gs then s.relocate gs
    else s)

/-! ## Ending (R53, R54) -/

/-- The group can end: every lane has exited and every counter is 0. -/
def Group.over (g : Group) : Bool := !g.ended && g.lanes.all fun l => l.exited && l.clear [0, 1, 2, 3]

/-- A group ends: its slot and its blocks are free, it belongs to no barrier, and waiting claims of the owner are tried (R53, R230). -/
def State.finishGroup (s : State) (g : Group) : State :=
  let s : State := s.modGroup g.gid fun g => { g with ended := true, runs := [], active := false }
  let s : State := s.opportunity (s.ctxOfGroup g)
  let s : State := { s with
    teams := s.teams.map fun (t : Team) =>
      { t with barriers := t.barriers.map fun (b : Barrier) => { b with groups := b.groups.filter fun x => x != g.gid } } }
  s.claimPass g.owner

/-- Every group that a team owns has ended, and every lane that carries its tag is exited (R228). -/
def State.canRetire (s : State) (t : Team) : Bool :=
  t.state == .resident && (s.groupsOwned t.tid).all (·.ended)
    && !(s.groups.any fun g => g.lanes.any fun l => !l.exited && l.team == t.tid)

/-- A step of retirement: the release at DEV for the team's slot with the publication of its remote stores everywhere, then, once that is
done, its resources and its slot are free, and its launch may be complete (R54, R251, R56). -/
def State.retireStep (s : State) (t : Team) : State :=
  if !s.canRetire t then s
  else if !t.released then
    if s.awaiting.any fun x => x.team == t.tid && x.kind == .sent then s
    else
      let s : State := s.releaseTeam t.slot false
      let s : State := s.askPublish 0 t.tid t.slot 7
      s.modTeam t.tid fun t => { t with released := true }
  else if s.awaiting.any fun x => x.team == t.tid && (x.kind == .publish || x.kind == .stray) then s
  else
    let s : State := ((s.endLease t).sealSegments fun g => g.slot == t.slot && !g.chisel).settleSegments
    let s : State := (s.freeTeam t.tid .retired).modTeam t.tid fun t => { t with lease := .none, wslot := none }
    let s : State := match t.wslot with
      | some w => s.freeSlot w
      | none => s
    s.checkLaunch t.launch

/-- GROUP_END: the group ends; a team of which nothing is left retires, in this event and, where it must wait for owners, in a later one of an
ended group of its own (R53, R54). -/
def execGroupEnd (gid : Nat) (s : State) : Host.Outcome State Fault Refusal :=
  .next (match s.group? gid with
    | none => s
    | some g =>
      let s : State := if g.over then s.finishGroup g else s
      let mine := s.teams.filter fun t => t.tid == g.owner || g.lanes.any fun l => l.team == t.tid
      mine.foldl (fun s t => ((s.team? t.tid).map s.retireStep).getD s) s)

end Sys2Proof.Machine
end

