-- ==== Sys2Proof/Machine/Place.lean ====
section
/-!
DEFINITION. Placement (02_execution R34, R36 to R38; 16_scheduling R266, R267, R269, R270): what a team needs, what a core has left, choosing
the cores of a crew, and placing a team afresh. Where the manual lets any be chosen, the choice is free (log entry 9, DESIGN CHOICE).
-/
namespace Sys2Proof.Machine

/-! ## Free choices -/

/-- Numbers in an order of free choice. -/
def State.freeOrder (s : State) (site : Nat) (l : List Nat) : List Nat := sortBy (fun x => Config.freeNat s.serial site x) l

/-! ## What is left (R36, R48, R274) -/

/-- The teams resident on a core. -/
def State.residentOn (s : State) (core : Nat) : List Team := s.teams.filter fun t => t.core == core && t.state == .resident

/-- The group slots of a core that groups stand in. -/
def State.slotsUsed (s : State) (core : Nat) : List Nat :=
  s.groups.filterMap fun g =>
    match g.place with
    | .resident c k => if c = core && !g.ended then some k else none
    | _ => none

/-- The free group slots of a core. -/
def State.slotsFree (s : State) (core : Nat) : List Nat :=
  (List.range Config.groupSlots).filter fun k => !(s.slotsUsed core).contains k

/-- Blocks of the register pool of a core that are taken: the budgets of its teams and the blocks of slots that no budget covers, without those of spilled
groups. -/
def State.blocksTaken (s : State) (core : Nat) : Nat :=
  ((s.residentOn core).map (·.budget)).sum + ((s.groups.filter fun g => g.core? == some core && !g.ended).map Group.loan).sum
    - ((s.groups.filter fun g => g.place == .spilled core && !g.ended).map fun g => g.alloc / 4).sum

/-- Scratchpad banks for a core that holds no team, when a team with a window of w bytes is placed there (R16). -/
def State.spadBanks (s : State) (core w : Nat) : Nat :=
  match ((s.partOfCluster (s.clusterOf core)).map (·.spk)).getD 0 with
  | 0 => max 4 (min 30 (4 * ((w + 32767) / 32768)))
  | k => k

/-- Banks of the scratchpad part of a core for the next team. -/
def State.banksFor (s : State) (core w : Nat) : Nat :=
  if s.residentOn core = [] then s.spadBanks core w else ((s.core? core).map (·.banks)).getD 0

/-- What a team needs on a core. -/
structure Need where
  lid : Nat
  feat : BitVec 32
  groups : Nat
  blocks : Nat
  window : Nat
  barriers : Nat
  /-- Lengths of the operand-buffer ranges of a saved team (R57). -/
  ranges : List Nat
  deriving DecidableEq, Repr

/-- A kernel slot of a core for a launch: its own, or a free one. -/
def CoreState.kernelSlots (c : CoreState) (lid : Nat) : List Nat :=
  let own := (List.range 4).filter fun k => c.kslots.getD k none == some lid
  if own = [] then (List.range 4).filter fun k => c.kslots.getD k none == none else own

/-- Bases for ranges, each at the first free run, none where one does not fit (R57). -/
def placeRanges : List (Nat × Nat) → List Nat → Option (List Nat)
  | _, [] => some []
  | used, n :: rest =>
    match ((List.range (Config.operandBuffer / 256)).map (256 * ·)).find? fun b =>
        decide (b + n ≤ Config.operandBuffer) && used.all fun r => decide (b + n ≤ r.1) || decide (r.1 + r.2 ≤ b) with
    | none => none
    | some b => (placeRanges ((b, n) :: used) rest).map (b :: ·)

/-- The ranges of the operand buffer of a core that are taken. -/
def State.rangesOn (s : State) (core : Nat) : List (Nat × Nat) := (s.reservationsOn core).map fun r => (r.base, r.len)

/-- A core has everything but group slots and register blocks for a team (R28, R36, R57). -/
def State.fitsElse (s : State) (core : Nat) (n : Need) : Bool :=
  let ts := s.residentOn core
  match s.core? core with
  | none => false
  | some c =>
    n.feat &&& s.featureOf core == n.feat
      && decide (ts.length < Config.teamSlots)
      && c.kernelSlots n.lid != []
      && decide ((ts.map (·.window)).sum + n.window ≤ 32768 * s.banksFor core n.window)
      && decide ((ts.map (·.barriers.length)).sum + n.barriers ≤ Config.coreBarriers)
      && decide ((s.reservationsOn core).length + n.ranges.length ≤ 64)
      && (placeRanges (s.rangesOn core) n.ranges).isSome

/-- A core can take a team now. -/
def State.fits (s : State) (core : Nat) (n : Need) : Bool :=
  s.fitsElse core n
    && decide (n.groups ≤ (s.slotsFree core).length)
    && decide (s.blocksTaken core + n.blocks ≤ Config.poolBlocks)

/-! ## Spillable groups (R274) -/

/-- When the last of a group's lanes began to wait in WAITC, if every lane that has not exited waits there. -/
def State.waitingSince (s : State) (g : Group) : Option Nat :=
  let ms := g.runs.filterMap fun r => match r.wait with | .monitor m _ => some (m, r.lanes) | _ => none
  if g.alive != [] && g.alive.all fun l => ms.any fun m => inMask m.2 l then
    some ((ms.filterMap fun m => (s.monitor? m.1).map (·.since)).foldl max 0)
  else none

/-- The spillable groups of a core, longest-waiting first. -/
def State.spillable (s : State) (core : Nat) : List Group :=
  let spn := ((s.partOfCluster (s.clusterOf core)).map (·.spn)).getD 0
  let due : Group → Option Nat := fun g =>
    match s.waitingSince g with
    | some t => if t + 2 ^ spn ≤ s.tick then some t else none
    | none => none
  sortBy (fun g => (due g).getD 0)
    (s.groups.filter fun g => g.isResident && g.core == core && !g.ended && (due g).isSome)

/-- A group leaves for shadow storage with every result written (R127, R274). -/
def Group.spill (core : Nat) (g : Group) : Group :=
  { g.written with
    place := .spilled core
    active := false }

/-- The writer slots of the teams whose tags a group's lanes carry. -/
def State.tagSlots (s : State) (g : Group) : List Nat := (s.teamsIn g).map Team.slot

/-- A group is spilled: the write-combining entries of its teams drain (R179), and its slot and blocks are free (R274). -/
def State.spillGroup (s : State) (core : Nat) (g : Group) : State :=
  let slots := s.tagSlots g
  let s : State := { s with wcb := s.wcb.map fun (e : WcbEntry) => if slots.contains e.slot then { e with drained := true } else e }
  (s.modGroup g.gid (Group.spill core)).opportunity (s.ctxOfGroup g)

/-! ## Shadow storage (R19, R274, R277, R278) -/

/-- The compute die of a core. -/
def State.coreDie (s : State) (core : Nat) : Nat := s.clusterOf core / 8
/-- Bytes of shadow storage that a team's saved state takes: its groups that have not ended, and its window. -/
def State.teamBytes (s : State) (t : Team) : Nat :=
  (((s.groupsOwned t.tid).filter fun g => !g.ended).map fun g => Config.stateBytes g.alloc).sum + t.window
/-- Bytes taken on a die: by spilled groups, and by saved teams whose state has not moved to their context's save area (R278). -/
def State.shadowUsed (s : State) (die : Nat) : Nat :=
  (s.groups.map fun g => match g.place with | .spilled c => if s.coreDie c = die then Config.stateBytes g.alloc else 0 | _ => 0).sum
    + (s.teams.map fun t => if t.state = .saved && !t.inArea && s.coreDie t.core == die then s.teamBytes t else 0).sum
/-- The shadow storage of a core's die has room for that many bytes (R19). -/
def State.shadowFits (s : State) (core n : Nat) : Bool := decide (s.shadowUsed (s.coreDie core) + n ≤ Config.shadowBytes)

/-- The bytes of a context's save area that saved state takes when it moves there: which of them, and their values, the manual leaves open (R278; log entry
7, DESIGN CHOICE). -/
def Context.areaBytes (c : Context) (serial : Nat) : Overlay :=
  cellsIf (fun a => decide (c.savex ≤ extentOf a) && decide (extentOf a < c.savex + c.saven))
    ((Config.savedBytes serial c.num).foldl (fun (o : Overlay) x => cellPut o (c.savex * 2 ^ 26 + x.1) x.2) [])

/-- Teams of a context whose saved state can move to its save area, and those whose state stands there. -/
def State.savedIn (s : State) (ctx : Nat) : List Team := s.teams.filter fun t => t.state == .saved && s.ctxOfTeam t == ctx
/-- A context, or crews of it, is saved, and its save area holds that state. -/
def State.areaFits (s : State) (c : Context) : Bool :=
  (c.saved || s.savedIn c.num != []) && decide (((s.savedIn c.num).map s.teamBytes).sum ≤ c.saven * 2 ^ 26)
/-- Saved state of a context goes to its save area, in its own extents only (R278). -/
def State.moveToArea (s : State) (c : Context) : State :=
  let b := s.definedBytes (c.areaBytes s.serial)
  { s with
    image := s.image.overlay b
    texts := s.textsBefore b
    l1 := s.l1.filter fun l => !(sectorsOf b).contains l.line
    teams := s.teams.map fun (t : Team) => if t.state == .saved && s.ctxOfTeam t == c.num then { t with inArea := true } else t
    ctxs := s.ctxs.map fun (x : Context) => if x.num = c.num then { x with inArea := x.inArea || x.saved } else x }
/-- Shadow storage of a core's die is needed for n bytes: while it lacks them, the state of contexts with state there moves to their save areas (R278). -/
def State.makeShadow (s : State) (core n : Nat) : State :=
  s.ctxs.foldl (fun (s : State) c =>
    if s.shadowFits core n || !s.areaFits c || !((s.savedIn c.num).any fun t => !t.inArea && s.coreDie t.core == s.coreDie core) then s
    else s.moveToArea c) s

/-- Spill groups until a test holds or none is left; a group for which shadow storage has no room, nor can be given any, stays (R19, R278; log entry 80, DESIGN
CHOICE). -/
def State.spillUntil (core : Nat) (ok : State → Bool) : List Group → State → State
  | [], s => s
  | g :: rest, s =>
    if ok s then s
    else
      let n := Config.stateBytes g.alloc
      let u := s.makeShadow core n
      State.spillUntil core ok rest (if u.shadowFits core n then u.spillGroup core g else s)

/-- Make room on a core for a team: its spillable groups are spilled until the team fits, or none remains (R274). -/
def State.makeRoom (s : State) (core : Nat) (n : Need) : State := State.spillUntil core (fun s => s.fits core n) (s.spillable core) s

/-- A core lacks only group slots or register blocks for a team (R274). -/
def State.lacksRoom (s : State) (core : Nat) (n : Need) : Bool := s.fitsElse core n && !s.fits core n && s.spillable core != []

/-! ## Choosing cores (R37, R269) -/

/-- Cores for several teams, all distinct, each fitting its team. -/
def assign (fit : Nat → Need → Bool) : List Need → List Nat → Option (List Nat)
  | [], _ => some []
  | n :: ns, cores => cores.findSome? fun c => if fit c n then (assign fit ns (cores.filter (· != c))).map (c :: ·) else none

/-- The cores of a cluster. -/
def State.clusterCores (s : State) (cl : Nat) : List Nat := (s.cores.map (·.rank)).filter fun r => s.clusterOf r == cl

/-- Clusters of a partition. -/
def Partition.clusters (p : Partition) : List Nat := (List.range 32).filter p.clmask.getLsbD
/-- A cluster is reserved for the latency class. -/
def Partition.reserved (p : Partition) (cl : Nat) : Bool := p.rsvmask.getLsbD cl

/-- The class of a team's launch. -/
def State.isLatency (s : State) (t : Team) : Bool := ((s.launchOf t).map (·.latency)).getD false
/-- Teams resident on a cluster. -/
def State.residentIn (s : State) (cl : Nat) : List Team := s.teams.filter fun t => t.state == .resident && s.clusterOf t.core == cl

/-- Clusters that a crew of a class may go to, in the order in which they are to be tried: a latency crew goes to reserved clusters first; a
bulk crew goes to a reserved cluster only where it holds no latency team and is not being vacated (R269). -/
def State.clustersFor (s : State) (p : Partition) (latency : Bool) (site : Nat) : List Nat :=
  if latency then s.freeOrder site (p.clusters.filter p.reserved) ++ s.freeOrder site (p.clusters.filter fun c => !p.reserved c)
  else
    s.freeOrder site (p.clusters.filter fun c =>
      !p.reserved c || (!((s.residentIn c).any s.isLatency) && !(s.vacations.any fun v => v.cluster == c)))

/-- Cores for a crew; `home` is the cluster of the crew's resident teams where it has some. -/
def State.findCrew (s : State) (p : Partition) (latency : Bool) (site : Nat) (home : Option Nat) (fit : Nat → Need → Bool)
    (needs : List Need) : Option (List Nat) :=
  ((s.clustersFor p latency site).filter fun c => home == none || home == some c).findSome? fun cl =>
    assign fit needs (s.freeOrder (site + 1) (s.clusterCores cl))

/-! ## The writer-slot pool (R36, R389) -/

/-- The fabric is in service (R29). -/
def State.fabric (s : State) : Bool := s.conf.features.any fun f => f.getLsbD 8

/-- Free writer slots of the pool. -/
def State.freeSlots (s : State) : List Nat :=
  (List.range (if s.fabric then Config.fabricSlotBase else Config.writerSlots)).filter fun w => (s.holder? w).isNone

/-- Take a slot for a holder, if one is free. -/
def State.takeSlot (s : State) (site : Nat) (h : Holder) : Option (Nat × State) :=
  let free := s.freeSlots
  (free[Config.freeNat s.serial site 0 % free.length]?).map fun w => (w, { s with holders := assocPut s.holders w h })

/-! ## Placing a team (R34, R36) -/

/-- A core that was idle ramps up; out of a down ramp it starts at the current rate, at a cycle of that rate that the manual leaves open (R408; log
entry 7). -/
def CoreState.rampUp (free : Nat) (c : CoreState) : CoreState :=
  { c with ramp := 1, rampCycles := if c.ramp = 2 then 256 * (7 - c.rampCycles / 256) + free % 256 else 0 }

/-- A team takes its places on a core: the division of the SRAM where the core is empty, and its launch's kernel slot. -/
def State.seat (s : State) (core lid window site : Nat) : Nat × State :=
  let banks := s.banksFor core window
  match s.core? core with
  | none => (0, s)
  | some c =>
    let ks := s.freeOrder site (c.kernelSlots lid)
    let k := ks.headD 0
    let idle := s.residentOn core = []
    let s : State := s.modCore core fun c => { c with banks := banks }
    let s : State := if idle then s.modCore core (CoreState.rampUp (Config.freeNat s.serial core 23)) else s
    if c.kslots.getD k none = some lid then (k, s)
    else (k, (s.modCore core fun c => { c with kslots := c.kslots.set k (some lid) }).rebuildTable core)

/-- Groups of a core in the active set. -/
def State.activeOn (s : State) (core : Nat) : Nat := (s.groups.filter fun g => g.isResident && g.core == core && !g.ended && g.active).length

/-- A lane at the start of its group (R34, R35). Its vpc entry is the kernel's ENTRY. -/
def Lane.start (entry : DWord) (tid index j lane : Nat) : Lane :=
  { Lane.blank with vpc := vpcOf entry, origin := originOf index j lane, exited := false, team := tid }

/-- A group at its start (R34). -/
def Launch.newGroup (l : Launch) (t : Team) (gid j core slot tick : Nat) (active : Bool) : Group where
  gid := gid
  owner := t.tid
  launchGrp := j
  lent := 0
  place := .resident core slot
  lastSlot := slot
  alloc := l.alloc
  lanes := (List.range 32).map fun i => Lane.start l.entry t.tid t.index j i
  s := (List.replicate 64 0).set 1 l.params
  fpflags := 0
  gang := 0
  mmaCount := 0
  former := []
  runs := []
  dist := 0
  sfresh := []
  spend := []
  active := active
  yielded := false
  overflowed := false
  lastIssue := 0
  pendingSince := tick
  holds := []
  report := none
  halted := false
  doomed := false
  ended := false

/-- A named barrier of a team of g groups at placement (R210). -/
def Barrier.start (g : Nat) : Barrier where
  broken := false
  mode := .all
  exp := 0
  ph := 0
  cnt := 32 * g
  members := []
  arrived := []
  groups := []

/-- Place a team afresh on a core (R34, R36, R281). The team has its writer slot. -/
def State.placeTeam (s : State) (l : Launch) (t : Team) (core : Nat) : State :=
  let site := t.tid * 8
  let (k, s) := s.seat core l.lid l.window site
  let slots := (s.freeOrder (site + 1) (s.slotsFree core)).take l.g
  let act := s.activeOn core
  let gs := slots.zipIdx.map fun (slot, j) => l.newGroup t (s.fresh + j) j core slot s.tick (decide (act + j < 8))
  let t : Team := { t with
    state := .resident, core := core, kslot := k, released := false, budget := l.g * l.alloc / 4 + l.reserve, window := l.window
    spad := [], full := [], barriers := List.replicate l.barriers (Barrier.start l.g), reservations := [], lease := .none, leaving := false }
  { s with
    fresh := s.fresh + l.g
    groups := (s.groups.filter fun g => g.owner != t.tid) ++ gs
    teams := (s.teams.filter fun x => x.tid != t.tid) ++ [t]
    launches := s.launches.map fun (x : Launch) => if x.lid = l.lid then { x with started := true } else x }

/-- What a team of a launch needs. -/
def Launch.need (l : Launch) : Need where
  lid := l.lid
  feat := l.feat
  groups := l.g
  blocks := l.g * l.alloc / 4 + l.reserve
  window := l.window
  barriers := l.barriers
  ranges := []

/-- The indices of the teams of crew k (R33). -/
def Launch.crewTeams (l : Launch) (k : Nat) : List Nat :=
  (List.range l.c).filterMap fun i => if l.c * k + i < l.gx * l.gy * l.gz then some (l.c * k + i) else none

/-- A team that has never been placed. -/
def Team.new (tid : Nat) (l : Launch) (index crew slot : Nat) : Team where
  tid := tid
  launch := l.lid
  index := index
  crew := crew
  state := .waiting
  core := 0
  kslot := 0
  wslot := some slot
  slotRec := slot
  released := false
  budget := 0
  window := 0
  spad := []
  full := []
  barriers := []
  reservations := []
  lease := .none
  lcode := 0
  pub := false
  att := 0
  leaving := false
  inArea := false

/-- Place one new team of a crew. -/
def State.placeNew (s : State) (l : Launch) (crew : Nat) (x : Nat × Nat) : State :=
  match s.takeSlot (s.fresh * 8 + 2) (.team s.fresh) with
  | none => s
  | some (w, s) =>
    let t := Team.new s.fresh l x.1 crew w
    let s : State := { s with fresh := s.fresh + 1 }
    s.placeTeam l t x.2

/-- The partition of a launch. -/
def State.partOfLaunch (s : State) (l : Launch) : Option Partition := (s.ctx? l.ctx).bind fun c => s.part? c.pnum

/-- Place the next crew of a launch, where one can be placed (R38). -/
def State.placeCrew (s : State) (l : Launch) : Option State :=
  match s.partOfLaunch l with
  | none => none
  | some p =>
    let idx := l.crewTeams l.placed
    let needs := idx.map fun _ => l.need
    if l.crews ≤ l.placed || s.freeSlots.length < idx.length then none
    else
      let place : State → List Nat → State := fun s cores =>
        ((idx.zip cores).foldl (fun s x => s.placeNew l l.placed x) s).modLaunch l.lid fun l => { l with placed := l.placed + 1 }
      (s.findCrew p l.latency (l.lid * 8 + 3) none s.fits needs).map (place s)

/-! ## Checks of LAUNCH that do not depend on what is resident (R28, R37, R266) -/

/-- A core of a partition contains the feature mask. -/
def State.featureFits (s : State) (p : Partition) (feat : BitVec 32) : Bool :=
  p.clusters.any fun cl => (s.clusterCores cl).any fun r => feat &&& s.featureOf r == feat

/-- A cluster of a partition could hold a crew of a launch were it empty. -/
def State.crewFits (s : State) (p : Partition) (l : Launch) : Bool :=
  let room := if p.spk = 0 then 30 else p.spk
  decide (l.window ≤ 32768 * room)
    && p.clusters.any fun cl => decide (l.c ≤ ((s.clusterCores cl).filter fun r => l.feat &&& s.featureOf r == l.feat).length)

end Sys2Proof.Machine
end

