-- ==== Sys2Proof/Machine/Save.lean ====
section
/-!
DEFINITION. Draining, forced save, resumption and restoration (16_scheduling R275 to R279, R282; 02_execution R57, R127; 14_ordering R255;
24_engines R383).
-/
namespace Sys2Proof.Machine

/-! ## When a team can be taken out (R127, R255, R277) -/

/-- A store of a team, or an LS access of a group, that a release waits for is held by a replayable fault, or a monitor of the group holds the release (R174, R255;
log entry 74). -/
def State.releaseHeld (s : State) (g : Group) (since : Nat) (tids : List Nat) : Bool :=
  (s.ops.any fun o => decide (o.id < since) && o.parts.any fun p =>
    p.isHeld && ((o.gid == g.gid && o.kind.path == 0) || tids.contains (s.partTeam o p.lane)))
    || s.monitors.any fun m => m.gid == some g.gid && decide (m.id < since)

/-- A run of a group can be taken out: it stands in a wait that is recorded, or waits for what a replayable fault holds; a release whose mark step has been
made completes first (R255, R277). -/
def State.runTakeable (s : State) (g : Group) (r : Run) : Bool :=
  match r.wait with
  | .none => false
  | .retry | .after _ | .look _ _ _ _ | .cast _ _ | .acq _ _ _ | .fence _ _ _ => g.holds != []
  | .rel _ _ _ since teams => s.releaseHeld g since teams
  | .relSeal _ _ _ _ | .relRemote _ _ _ _ _ _ => false
  | .acqr core kslot index _ since => s.releaseHeld g since (((s.victim (s.ctxOfGroup g) core kslot index).map (·.tid)).toList)
  | _ => true

/-- Kinds whose operations are recorded with their progress: waits on full bits, copies, calls, RFENCE, and MMX words that have not been
released. -/
def OpKind.recorded : OpKind → Bool
  | .ldf _ _ _ | .stsf | .copy _ _ _ | .send _ _ _ _ _ | .nmc _ _ _ | .rfence _ => true
  | .gang _ | .obres _ _ | .obrel _ | .accz _ _ | .tfetch _ | .mma _ _ _ _ => true
  | _ => false

/-- A part of an operation is over, held, or recorded as it stands. -/
def State.partSettled (s : State) (o : Op) (p : Part) : Bool :=
  match p.st with
  | .completed => true
  | .held _ => true
  | .remote _ _ _ => false
  | .done _ => o.kind.isCopy || (match o.kind with | .tfetch _ | .nmc _ _ _ | .obres _ _ => true | _ => false)
  | _ => o.kind.recorded || s.blocked o p

/-- No bank command writes a team's window any more, for lanes of whichever group (R336). -/
def State.banksSettled (s : State) (tid : Nat) : Bool :=
  s.ops.all fun o => o.kind.space != 3 || o.parts.all fun p => p.isDone || s.partTeam o p.lane != tid

/-- Steps 1 and 2 of R277 are over for a team, and a call that a sequencer has begun for it is finished (R383). -/
def State.saveReady (s : State) (t : Team) : Bool :=
  t.state == .resident && t.leaving && s.banksSettled t.tid && ((s.groupsOwned t.tid).filter fun g => !g.ended).all fun g =>
    (g.runs.all fun r => s.runTakeable g r)
      && (s.ops.filter fun o => o.gid == g.gid).all fun o => (o.parts.all fun p => s.partSettled o p) && (s.callRun? o.id).isNone

/-- A recorded part holds no translation, and bytes read and not landed are read again. -/
def recordPart (k : OpKind) (p : Part) : Part :=
  match p.st with
  | .ready _ => { p with st := .issued, dst := none }
  | .done _ => if k.isCopy then { p with st := .issued, dst := none } else p
  | _ => p

/-! ## Saving (R277, R383, R306) -/

/-- The lease of a team is saved with the DMU state, and the channel is free (R383). -/
def State.saveLease (s : State) (t : Team) : State :=
  match t.lease with
  | .held k c used =>
    let d := s.dmu (k, c)
    (s.zeroDmu (k, c)).modTeam t.tid fun t => { t with lease := .saved k c used d.bcast d.acc }
  | _ => s

/-- Steps 3 to 5 of R277; the accesses that it records are translated again, so no shootdown waits for them (R291). -/
def State.saveTeam (s : State) (t : Team) : State :=
  let s : State := s.landWhere fun e => e.slot == t.slot
  let s : State := (s.sealSegments fun g => g.slot == t.slot && !g.chisel).settleSegments
  let gids := ((s.groupsOwned t.tid).filter fun g => !g.ended).map (·.gid)
  let ids := (s.ops.filter fun o => gids.contains o.gid).map (·.id)
  let s : State := { s with
    calls := s.calls.filter fun c => !ids.contains c.2
    ops := s.ops.map fun (o : Op) => if ids.contains o.id then { o with parts := o.parts.map (recordPart o.kind) } else o
    shoots := s.shoots.map fun (h : Shoot) => { h with ops := h.ops.filter fun x => !ids.contains x.1 }
    groups := s.groups.map fun (g : Group) => if gids.contains g.gid then { g.written with place := .saved, active := false } else g }
  let s : State := (s.saveLease t).modTeam t.tid fun t => { t with state := .saved, leaving := false, inArea := false }
  ((s.unpin fun p => p.team == t.tid).leaveCore t.core).opportunity (s.ctxOfTeam t)

/-- Ask for the forced save of teams that a test picks. -/
def State.askSave (s : State) (p : Team → Bool) : State :=
  { s with teams := s.teams.map fun (t : Team) => if t.state == .resident && p t then { t with leaving := true } else t }

/-- SAVE completes when no team of the context remains resident (R276). -/
def State.checkSave (s : State) (ctx : Nat) : State :=
  match s.ctx? ctx with
  | none => s
  | some c =>
    if c.saving = [] || s.teams.any fun t => t.state == .resident && s.ctxOfTeam t == ctx then s
    else
      let s : State := s.modCtx ctx fun c => { c with saved := true, saving := [], drainSince := none, inArea := false }
      c.saving.foldl (fun s x => s.completeCommand x.1 x.2 0) s

/-- FORCED_SAVE of a team whose save has been asked for (R277). Where shadow storage has no room for it, saved state moves to save areas first (R278); it waits
while that does not make room (log entry 80, DESIGN CHOICE). -/
def execForcedSave (tid : Nat) (s : State) : Host.Outcome State Fault Refusal :=
  .next (match s.team? tid with
    | none => s
    | some t =>
      let u := s.makeShadow t.core (s.teamBytes t)
      if s.saveReady t && u.shadowFits t.core (s.teamBytes t) then (u.saveTeam t).checkSave (s.ctxOfTeam t) else s)

/-- The drain limit of a context's partition. -/
def State.drainLimit (s : State) (ctx : Nat) : Nat := 2 ^ (((s.ctx? ctx).bind fun c => s.part? c.pnum).map (·.drn)).getD 0

/-- A bulk team on a reserved cluster (R269). -/
def State.borrows (s : State) (t : Team) (cl : Nat) : Bool :=
  t.state == .resident && s.clusterOf t.core == cl && !s.isLatency t

/-- DRAIN_TIMEOUT: a drain that affects the context has lasted for 2^DRN cycles: its teams, or those on the cluster that is being vacated, are
force-saved (R276, R269). -/
def execDrainTimeout (ctx : Nat) (s : State) : Host.Outcome State Fault Refusal :=
  let limit := s.drainLimit ctx
  let drained := match (s.ctx? ctx).bind (·.drainSince) with
    | some d => decide (d + limit ≤ s.tick)
    | none => false
  .next (s.askSave fun t => s.ctxOfTeam t == ctx &&
    (drained || s.vacations.any fun v => decide (v.since + limit ≤ s.tick) && s.borrows t v.cluster))

/-- SAVE_AREA_MOVE: saved state of a context, or of crews of it that the front end has saved, goes from shadow storage to the context's save area (R278). -/
def execSaveAreaMove (ctx : Nat) (s : State) : Host.Outcome State Fault Refusal :=
  .next (match s.ctx? ctx with
    | none => s
    | some c => if s.areaFits c then s.moveToArea c else s)

/-! ## New slots (R35, R279, R347) -/

/-- A %gang value with its members' new slots; `move` gives the new slot of an old one. -/
def moveGang (move : Nat → Nat) (x : DWord) : DWord :=
  let n := field x.toNat 36 3
  BitVec.ofNat 64 (x.toNat / 2 ^ 36 * 2 ^ 36 + ((List.range n).map fun i => move (field x.toNat (6 * i) 6) * 2 ^ (6 * i)).sum)

/-- The new slot numbers in gang values: a slot that no group of the team occupied names none afterwards either, so that the number of a member that has ended
never comes to name another group (R362). -/
def slotMoves (pairs : List (Nat × Nat)) : List (Nat × Nat) :=
  let gone := (List.range 64).filter fun k => !(pairs.map (·.1)).contains k
  let free := (List.range 64).filter fun k => !(pairs.map (·.2)).contains k
  pairs ++ gone.zip free

/-- Every gang value that a group of a team carries is rewritten, that of a GANG which has not completed among them (R347, R362). -/
def State.moveGangs (s : State) (tid : Nat) (pairs : List (Nat × Nat)) : State :=
  let moves := slotMoves pairs
  let move : Nat → Nat := fun k => (assoc moves k).getD k
  let gids := (s.groupsOwned tid).map (·.gid)
  { s with
    groups := s.groups.map fun (g : Group) =>
      if g.owner = tid then { g with gang := moveGang move g.gang, former := g.former.map fun f => (moveGang move f.1, f.2) } else g
    ops := s.ops.map fun (o : Op) =>
      match o.kind with
      | .gang v => if gids.contains o.gid then { o with kind := .gang (moveGang move v) } else o
      | _ => o }

/-- A group is back in a slot of a core; a release restarts from its first step, for every team of the group (R255). -/
def Group.seat (core slot tick next : Nat) (teams : List Nat) (active : Bool) (g : Group) : Group :=
  Group.settle tick { g with
    place := .resident core slot, lastSlot := slot, active := active && !g.halted, pendingSince := tick
    runs := g.runs.map fun (r : Run) =>
      match r.wait with
      | .rel scope sealed acq _ _ => { r with wait := .rel scope sealed acq next teams }
      | .acqr c k i t _ => { r with wait := .acqr c k i t next }
      | _ => r }
/-- The same, with the teams of the group (R242). -/
def State.seatGroup (s : State) (core slot : Nat) (active : Bool) (g : Group) : State :=
  s.modGroup g.gid (Group.seat core slot s.tick s.fresh ((s.teamsIn g).map (·.tid)) active)

/-! ## Resumption (R57, R279) -/

/-- What a saved team needs (R57). -/
def State.savedNeed (s : State) (l : Launch) (t : Team) : Need where
  lid := l.lid
  feat := l.feat
  groups := ((s.groupsOwned t.tid).filter fun g => !g.ended).length
  blocks := t.budget + (((s.groupsOwned t.tid).filter fun g => !g.ended).map Group.loan).sum
  window := t.window
  barriers := t.barriers.length
  ranges := t.reservations.map (·.len)

/-- A saved team is placed on a core; a group whose fatal answer came while it was saved ends now (R279, R286). -/
def State.resumeTeam (s : State) (l : Launch) (t : Team) (core : Nat) : State :=
  let site := t.tid * 8
  let (k, s) := s.seat core l.lid t.window site
  let gs := (s.groupsOwned t.tid).filter fun g => !g.ended
  let slots := s.freeOrder (site + 1) (s.slotsFree core)
  let act := s.activeOn core
  let bases := (placeRanges (s.rangesOn core) (t.reservations.map (·.len))).getD []
  let s : State := s.moveGangs t.tid ((gs.map (·.lastSlot)).zip slots)
  let s : State := (gs.zip slots).zipIdx.foldl (fun (s : State) ((g, slot), j) =>
    s.seatGroup core slot (decide (act + j < 8)) g) s
  -- copies in this core's L1 that were stale before are none that the team's lanes may still read (R240, R248)
  let tags := (gs.flatMap s.tagSlots).foldl addNew [t.slot]
  let s : State := { s with l1 := s.l1.map fun (x : L1Line) =>
    if x.core = core && x.stale.isSome then { x with writers := tags.foldl addNew x.writers } else x }
  let s : State := s.modTeam t.tid fun t =>
    { t with
      state := .resident, core := core, kslot := k, inArea := false
      reservations := (t.reservations.zip bases).map fun ((r, b) : Reservation × Nat) => { r with base := b } }
  (gs.filter (·.doomed)).foldl (fun s g =>
    s.killGroup g.gid 0x08 { vaddr := ((g.holds.head?).map (·.vaddr)).getD 0, acc := ((g.holds.head?).map (·.acc)).getD 0xFF }) s

/-- The saved teams of a crew. -/
def State.savedOf (s : State) (lid crew : Nat) : List Team := s.teams.filter fun t => t.launch == lid && t.crew == crew && t.state == .saved
/-- The cluster on which teams of a crew are resident. -/
def State.homeOf (s : State) (lid crew : Nat) : Option Nat :=
  (s.teams.find? fun t => t.launch == lid && t.crew == crew && t.state == .resident).map fun t => s.clusterOf t.core

/-- The saved teams of a crew are placed in one step, if they can be (R37). -/
def State.resumeCrew (s : State) (l : Launch) (crew : Nat) : Option State :=
  match s.partOfLaunch l with
  | none => none
  | some p =>
    let ts := s.savedOf l.lid crew
    let needs := ts.map (s.savedNeed l)
    let place : State → List Nat → State := fun s cores => (ts.zip cores).foldl (fun s x => s.resumeTeam l x.1 x.2) s
    (s.findCrew p l.latency (l.lid * 8 + 4) (s.homeOf l.lid crew) s.fits needs).map (place s)

/-- Crews of a launch with a saved team, ascending. -/
def State.savedCrews (s : State) (lid : Nat) : List Nat :=
  sortBy id ((s.teams.filter fun t => t.launch == lid && t.state == .saved).foldl (fun l t => addNew l t.crew) [])

/-- Every saved team of a context is placed, or none (R279). -/
def State.resumeAll (s : State) (ctx : Nat) : Option State :=
  ((s.launches.filter fun l => l.ctx == ctx).flatMap fun l => (s.savedCrews l.lid).map fun k => (l, k)).foldl
    (fun (a : Option State) x => a.bind fun s => s.resumeCrew x.1 x.2) (some s)

/-- A context goes on. -/
def State.contextBack (s : State) (ctx : Nat) : State :=
  (s.modCtx ctx fun c => { c with saved := false, inArea := false }).opportunity ctx

/-! ## Restoration (R275) -/

/-- A spilled group that no longer waits whole. -/
def State.restorable (s : State) (g : Group) : Bool :=
  match g.place with
  | .spilled _ => !g.ended && g.alive != [] && (s.waitingSince g).isNone
  | _ => false

/-- The slot that a group had, and its blocks, are free on its core: %grpid changes only through a regroup and a resume (R35, R275; log entry 25,
DEDUCED). -/
def State.canRestore (s : State) (g : Group) : Bool :=
  (s.slotsFree g.core).contains g.lastSlot && decide (s.blocksTaken g.core + g.alloc / 4 ≤ Config.poolBlocks)

/-- It comes back to the slot that it had (R35, R275). -/
def State.restore (s : State) (g : Group) : State :=
  let act := s.activeOn g.core
  s.seatGroup g.core g.lastSlot (decide (act < 8)) g

/-- Restore the spilled groups that can come back without another being spilled, one after another. -/
def State.restoreFree (s : State) : State :=
  s.groups.foldl (fun s g => if s.restorable g && s.canRestore g then s.restore g else s) s

/-- Restore one (R275). -/
def State.restoreOne (s : State) : Option State :=
  ((s.groups.filter fun g => s.restorable g && s.canRestore g).head?).map s.restore

end Sys2Proof.Machine
end

