-- ==== Sys2Proof/Machine/Schedule.lean ====
section
/-!
DEFINITION. The front end's dispatch (16_scheduling R267, R269, R274, R275, R279, R281, R282): what is placed at a dispatch opportunity, and in which
order.
-/
namespace Sys2Proof.Machine

/-- Teams of a launch may be placed: a dispatch opportunity has arisen in its partition, and its context is neither saved nor being saved (R258, R267,
R276). -/
def State.mayPlace (s : State) (l : Launch) : Bool :=
  match s.ctx? l.ctx with
  | some c => !c.saved && c.saving == [] && s.dueIn.contains c.pnum
  | none => false

/-! ## Room for what is to be placed (R274) -/

/-- What a launch waits to place: the crew, its needs, and the cluster to which it is bound. -/
structure Placement where
  crew : Nat
  needs : List Need
  home : Option Nat

/-- A request that no core can take has the cores that lack only group slots or register blocks for it spill, one after another, until it fits or none
remains. -/
def State.spillFor (s : State) (l : Launch) (r : Placement) : State :=
  match s.partOfLaunch l with
  | none => s
  | some p =>
    let site := l.lid * 8 + 4
    let cores := ((s.clustersFor p l.latency site).filter fun c => r.home == none || r.home == some c).flatMap s.clusterCores
    cores.foldl (fun (s : State) c =>
      if (s.findCrew p l.latency site r.home s.fits r.needs).isSome then s
      else
        match r.needs.find? fun n => s.lacksRoom c n with
        | some n => s.makeRoom c n
        | none => s) s

/-- A crew to resume. -/
def State.crewToResume (s : State) (l : Launch) (k : Nat) : Placement :=
  { crew := k, needs := (s.savedOf l.lid k).map (s.savedNeed l), home := s.homeOf l.lid k }

/-- The saved crews of a context are placed one after another, with room made for each that lacks only group slots or register blocks; what is left after the first
that cannot be placed is not looked at. -/
def State.resumeSpilling (s : State) (ctx : Nat) : State :=
  (((s.launches.filter fun l => l.ctx == ctx).flatMap fun l => (s.savedCrews l.lid).map fun k => (l, k)).foldl
    (fun (a : State × Bool) x =>
      if !a.2 then a
      else
        let u := if (a.1.resumeCrew x.1 x.2).isSome then a.1 else a.1.spillFor x.1 (a.1.crewToResume x.1 x.2)
        match u.resumeCrew x.1 x.2 with
        | some u => (u, true)
        | none => (u, false)) (s, true)).1

/-- Before a context is resumed, the groups are spilled that stand in its way (R274). -/
def State.spillForResume (s : State) (ctx : Nat) : State :=
  if (s.resumeAll ctx).isSome then s
  else
    let u := s.resumeSpilling ctx
    (s.groups.filter fun g => g.isResident && u.groups.any fun h => h.gid == g.gid && h.place == .spilled g.core).foldl
      (fun (s : State) g => s.spillGroup g.core g) s

/-! ## Relaunches and resumptions (R281, R282) -/

/-- The drain of a vacation in which a borrowing team was killed goes on: its relaunch is not placed (R269, R276). -/
def State.heldByVacation (s : State) (t : Team) : Bool :=
  !s.isLatency t && s.vacations.any fun v =>
    v.cluster == s.clusterOf t.core && s.teams.any fun x => s.borrows x v.cluster

/-- A relaunch: the team is placed afresh, on the cluster of its crew's other resident teams (R281). -/
def State.relaunchTeam (s : State) (l : Launch) (t : Team) : Option State :=
  match s.partOfLaunch l with
  | none => none
  | some p =>
    if s.heldByVacation t then none
    else
      match s.findCrew p l.latency (t.tid * 8 + 6) (s.homeOf l.lid t.crew) s.fits [l.need] with
      | some (c :: _) => some (s.placeTeam l t c)
      | _ => none

/-- What awaits relaunch or resumption by the front end: the launch, the crew, and the team where it is a relaunch. -/
structure Awaited where
  launch : Launch
  crew : Nat
  relaunch : Option Team

/-- All that awaits it, launches in their order, crews ascending. -/
def State.awaited (s : State) : List Awaited :=
  (s.launches.filter s.mayPlace).flatMap fun l =>
    sortBy (fun (a : Awaited) => a.crew)
      (((s.teams.filter fun t => t.launch == l.lid && t.state == .waiting).map fun t =>
          { launch := l, crew := t.crew, relaunch := some t : Awaited })
        ++ (s.savedCrews l.lid).map fun k => { launch := l, crew := k, relaunch := none : Awaited })

/-- A crew is not resumed while a lower one of its launch awaits relaunch or resumption (R282). -/
def inTurn (all : List Awaited) (a : Awaited) : Bool :=
  a.relaunch.isSome || !(all.any fun b => b.launch.lid == a.launch.lid && decide (b.crew < a.crew))

/-- The crew of a vacation has been placed, or its launch is over (R269). -/
def State.vacationOver (s : State) (v : Vacation) : Bool :=
  match s.launch? v.launch with
  | none => true
  | some l =>
    decide (v.crew < l.placed)
      && !(s.teams.any fun t => t.launch == l.lid && t.crew == v.crew && (t.state == .waiting || t.state == .saved))
/-- Vacations whose crew has been placed, or whose launch is over, end (R269). -/
def State.endVacations (s : State) : State := { s with vacations := s.vacations.filter fun v => !s.vacationOver v }

/-- Place one of them. -/
def State.placeAwaited (s : State) (a : Awaited) : Option State :=
  (match a.relaunch with
   | some t => s.relaunchTeam a.launch t
   | none => s.resumeCrew a.launch a.crew).map State.endVacations

/-- Contexts whose RESUME waits to be tried again are resumed where they can be (R279). -/
def State.retryResume (s : State) : Option State :=
  s.ctxs.findSome? fun c =>
    if c.resuming = [] || !s.dueIn.contains c.pnum then none
    else
      (s.resumeAll c.num).map fun s =>
        let s : State := (s.contextBack c.num).modCtx c.num fun c => { c with resuming := [] }
        c.resuming.foldl (fun s x => s.completeCommand x.1 x.2 0) s

/-- The first relaunch or resumption that can be placed. -/
def State.serveAwaited (s : State) : Option State :=
  match s.retryResume with
  | some s => some s
  | none =>
    let all := s.awaited
    (all.filter (inTurn all)).findSome? s.placeAwaited

/-- The highest resident crew of a launch above a crew, unless one is being saved already. -/
def State.crewAbove (s : State) (a : Awaited) : Option Nat :=
  let ts := s.teams.filter fun t => t.launch == a.launch.lid && t.state == .resident
  if ts.any (·.leaving) then none
  else
    let top := (ts.map (·.crew)).foldl max 0
    if decide (a.crew < top) then some top else none

/-- Precedence (R282): what still waits has the highest resident crew of its launch above it force-saved. -/
def State.preempt (s : State) : State :=
  let all := s.awaited
  (all.filter (inTurn all)).foldl (fun (s : State) a =>
    match s.crewAbove a with
    | some k => s.askSave fun t => t.launch == a.launch.lid && t.crew == k
    | none => s) s

/-! ## New crews and vacations (R267, R269) -/

/-- The first launch of a class that can place its next crew does so; a vacation made for the crew ends. -/
def State.serveList (s : State) (latency : Bool) : Option State :=
  (s.launches.filter fun l => l.latency == latency && s.mayPlace l).findSome? fun l =>
    (s.placeCrew l).map State.endVacations

/-- The teams that borrow a cluster. -/
def State.borrowers (s : State) (cl : Nat) : List Team := s.teams.filter fun t => s.borrows t cl

/-- The state without the borrowers of a cluster, to see what would then fit. -/
def State.withoutBorrowers (s : State) (cl : Nat) : State :=
  let tids := (s.borrowers cl).map (·.tid)
  let s : State := { s with
    teams := s.teams.filter fun t => !tids.contains t.tid
    groups := s.groups.filter fun g => !tids.contains g.owner }
  (s.clusterCores cl).foldl (fun s r => s.freeKernelSlots r) s

/-- Relaunches, crews to resume, and the next new crew of a launch. -/
def State.requests (s : State) (l : Launch) : List Placement :=
  let waiting := s.teams.filter fun t => t.launch == l.lid && t.state == .waiting && !s.heldByVacation t
  (waiting.map fun t => { crew := t.crew, needs := [l.need], home := s.homeOf l.lid t.crew : Placement })
    ++ ((s.savedCrews l.lid).map fun k => s.crewToResume l k)
    ++ if l.placed < l.crews then [{ crew := l.placed, needs := (l.crewTeams l.placed).map fun _ => l.need, home := none }] else []

/-- A cluster could take a crew if the bulk teams that borrow it were gone. -/
def State.couldTake (s : State) (r : Placement) (cl : Nat) : Bool :=
  (r.home == none || r.home == some cl) && (assign (s.withoutBorrowers cl).fits r.needs (s.clusterCores cl)).isSome

/-- The cluster that is vacated for a latency crew that cannot be placed: of those that could then take it, the one with the fewest borrowers, the lowest on a
tie. -/
def State.toVacate (s : State) (p : Partition) (r : Placement) : Option Nat :=
  let could := p.clusters.filter fun cl =>
    p.reserved cl && s.borrowers cl != [] && !(s.vacations.any fun v => v.cluster == cl) && s.couldTake r cl
  (sortBy (fun cl => (s.borrowers cl).length) could).head?

/-- A vacation begins for a latency crew that cannot be placed, unless one for it goes on that could let it be placed (R269). -/
def State.vacateFor (l : Launch) (s : State) (r : Placement) : State :=
  match s.partOfLaunch l with
  | none => s
  | some p =>
    if s.vacations.any fun v => v.launch == l.lid && v.crew == r.crew && s.couldTake r v.cluster then s
    else
      match s.toVacate p r with
      | some cl => { s with vacations := s.vacations ++ [{ cluster := cl, launch := l.lid, crew := r.crew, since := s.tick }] }
      | none => s

/-- Vacations begin for latency crews that cannot be placed, new ones and those to be relaunched or resumed (R269). -/
def State.vacate (s : State) : State :=
  (s.launches.filter fun l => l.latency && s.mayPlace l).foldl (fun (s : State) l => (s.requests l).foldl (State.vacateFor l) s) s

/-! ## Spilling (R274) -/

/-- A restoration that lacks only its slot or blocks has its core's spillable groups spilled. -/
def State.spillForRestore (s : State) (g : Group) : State :=
  if s.canRestore g then s else State.spillUntil g.core (fun s => s.canRestore g) (s.spillable g.core) s

/-- The front end spills for the first of the requests that could not be placed, in their order (R267, R274); none where nothing could be spilled. -/
def State.spillBlocked (s : State) : Option State :=
  let spilled : State → Option State := fun t => if t.groups = s.groups then none else some t
  let mine : Bool → List Launch := fun lat => s.launches.filter fun l => l.latency == lat && s.mayPlace l
  let tries := ((s.ctxs.filter fun c => c.resuming != [] && s.dueIn.contains c.pnum).map fun c => fun () => s.spillForResume c.num)
    ++ ((mine true ++ mine false).flatMap fun l => (s.requests l).map fun r => fun () => s.spillFor l r)
    ++ (s.groups.filter s.restorable).map fun g => fun () => s.spillForRestore g
  tries.findSome? fun f => spilled (f ())

/-! ## Whole crews that wait (R275) -/

/-- Every group of a team is spilled or has ended, and one is spilled. -/
def State.allSpilled (s : State) (t : Team) : Bool :=
  let gs := (s.groupsOwned t.tid).filter fun g => !g.ended
  gs != [] && gs.all fun g => match g.place with | .spilled _ => true | _ => false

/-- Crews that may be saved whole because every group is spilled are, or are not: a free choice (R275; log entry 7, DESIGN CHOICE). -/
def State.saveSpilledCrews (s : State) : State :=
  s.askSave fun t =>
    Config.freeBit s.serial t.launch (t.crew * 8 + 7)
      && s.teams.all fun x => x.launch != t.launch || x.crew != t.crew || x.state != .resident || s.allSpilled x

/-! ## A dispatch opportunity (R267) -/

/-- One placement in the order of R267. -/
def State.dispatchOne (s : State) : Option State :=
  match s.serveAwaited with
  | some s => some s
  | none =>
    match s.restoreOne with
    | some s => some s
    | none =>
      match s.serveList true with
      | some s => some s
      | none =>
        match s.serveList false with
        | some s => some s
        | none => s.spillBlocked

/-- Placements until nothing more can be placed. -/
def State.dispatchMany : Nat → State → State
  | 0, s => s
  | n + 1, s =>
    match s.dispatchOne with
    | some s' => State.dispatchMany n s'
    | none => s

/-- A dispatch opportunity, in the partitions in which it has arisen. Saves that are over complete first, and vacations whose launch is over end (R269); no
more than 2^14 teams and groups stand on the part. -/
def State.dispatch (s : State) : State :=
  let s : State := s.ctxs.foldl (fun s c => s.checkSave c.num) { s with dispatchDue := false }
  let s : State := State.dispatchMany 32768 s.endVacations
  { s.preempt.vacate.saveSpilledCrews with
    dispatchDue := false
    dueIn := [] }

end Sys2Proof.Machine
end

