-- ==== Sys2Proof/Machine/Clock.lean ====
section
/-!
DEFINITION. What every step adds (log entry 5, DESIGN CHOICE): one core cycle passes, and the front end uses a dispatch opportunity that has arisen (16_scheduling
R267, R275).
-/
namespace Sys2Proof.Machine

/-- A cycle of a core: its table pointer advances (R270), and a ramp goes on until its 2,048 cycles are over (R408). -/
def CoreState.cycle (c : CoreState) : CoreState :=
  { c with
    pointer := (c.pointer + 1) % 64
    rampCycles := if c.ramp = 0 then c.rampCycles else min 2048 (c.rampCycles + 1) }.endRamp

/-- The step that the part has chosen takes effect on a core: at a cycle that the manual leaves open, and within 4,096 cycles (R405; log entry 90, DESIGN CHOICE). -/
def State.follow (s : State) (c : CoreState) : CoreState :=
  if c.step ≠ s.throttle && (decide (s.throttleSince + 4095 ≤ s.tick) || Config.freeBit s.serial c.rank 59) then { c with step := s.throttle } else c

/-- A cycle of a launch: its elapsed cycles and its energy count while its context is not saved; the energy stops at the greatest reading, so that no reading is
less than one before (R159, R409; log entry 91, DESIGN CHOICE). -/
def State.cycleLaunch (s : State) (l : Launch) : Launch :=
  if l.started && !((s.ctx? l.ctx).map (·.saved)).getD false then
    { l with elapsed := l.elapsed + 1, energy := min (2 ^ 64 - 1) (l.energy + Config.energyStep l.lid s.tick) }
  else l

/-- A cycle of a team: 16 twenty-sevenths of a memory cycle count toward its lease (R22, R25, R382). -/
def Team.cycle (t : Team) : Team :=
  match t.lease with
  | .held k c used => { t with lease := .held k c (used + 16) }
  | _ => t

/-- A cycle of a call in progress: 16 twenty-sevenths of a memory cycle, in which a micro-word may retire (R384; log entry 7, DESIGN CHOICE). -/
def State.cycleCall (s : State) (r : CallRun) : CallRun :=
  { r with
    ran := r.ran + 16
    quiet := if Config.freeBit s.serial r.stack 52 then 0 else r.quiet + 16 }

/-- One core cycle passes. -/
def State.cycle (s : State) : State :=
  { s with
    tick := s.tick + 1
    serial := s.serial + 1
    cores := s.cores.map fun c => (s.follow c).cycle
    launches := s.launches.map s.cycleLaunch
    teams := s.teams.map Team.cycle
    seqs := (s.seqs.filter fun r => (s.op? r.op).isSome).map s.cycleCall }

/-- A spilled group stands on the part. -/
def State.hasSpilled (s : State) : Bool :=
  s.groups.any fun g => match g.place with | .spilled _ => true | _ => false

/-- What belongs to the step that was made: a group whose replay report met a full call stack ends (R288), one that has halted leaves its set (R272), a group that has yielded may return at
once (R273), spilled groups that can come back do (R275), a source that holds a demand is granted its next unit as memory accepts data (R390; log entry 7,
DESIGN CHOICE), the caches keep to their sizes (R16, R19), and a dispatch opportunity is used (R267). -/
def State.serve (s : State) : State :=
  let s : State := (s.groups.filter fun g => g.overflowed && g.isResident).foldl (fun s g => s.killGroup g.gid 0x0A) s
  let s : State := if s.groups.any fun g => g.stopped && g.active then { s with groups := s.groups.map (Group.leaveSet s.tick) } else s
  let s : State := (s.groups.filter (·.yielded)).foldl State.settleYield s
  let s : State := if s.hasSpilled then s.restoreFree else s
  let s : State := if s.demands != [] && Config.freeBit s.serial 0 51 then s.grantNext else s
  let s : State := s.trim
  if s.dispatchDue then s.dispatch else s

/-- What a step adds to the move that it made. -/
def State.advance (s : State) : State := s.cycle.serve

end Sys2Proof.Machine
end

