-- ==== Sys2Proof/Machine/Control.lean ====
section
/-!
DEFINITION. Control flow (12_control R204 to R209, R73): branches, calls, returns, EXIT, YIELD, TRAP, BRK, NOP.
-/
namespace Sys2Proof.Machine

/-- Replace the run of a word and go on past the word. -/
def Ctx.nextWith (c : Ctx) (g : Group) (r : Run) (contrib : Nat) : State :=
  let g := g.setRun c.r (some r)
  { c with g := g, r := r }.next g 1 contrib

/-- Lanes take targets when the clause completes (R204). -/
def Ctx.jump (c : Ctx) (g : Group) (ts : List (Nat × DWord)) (contrib : Nat) : State :=
  c.nextWith g { c.r with targets := ts ++ c.r.targets } contrib

/-- The target of BRA and CALL: a displacement in words from the header (R204). -/
def Ctx.relative (c : Ctx) (disp : BitVec 21) : DWord := c.r.hdr + (disp.signExtend 64 <<< 2)

/-- A call stack of the lanes of Issue is full. -/
def Ctx.anyFull (c : Ctx) : Bool := c.issue.any fun l => (c.g.lane l).full

/-- BRA (R204). -/
def execBra (o : ArgsJ) (s : State) : Host.Outcome State Fault Refusal :=
  s.word (some o.g) {} fun c => c.jump c.g (c.issue.map fun l => (l, c.relative o.disp)) 1

/-- CALL (R204). -/
def execCall (o : ArgsJ) (s : State) : Host.Outcome State Fault Refusal :=
  s.word (some o.g) {} fun c =>
    if c.anyFull then s.killGroup c.g.gid 0x0A
    else c.jump (c.g.modLanes c.issue fun l => l.push c.r.fallThrough) (c.issue.map fun l => (l, c.relative o.disp)) 1

/-- BRX and CALLX take their targets from a register pair; a target that is not word aligned ends the group (R207). -/
def Ctx.indirect (c : Ctx) (a contrib : Nat) (call : Bool) : State :=
  let ts := c.issue.map fun l => (l, c.v64 l a)
  if ts.any fun t => field t.2.toNat 0 2 != 0 then c.s.killGroup c.g.gid 0x06
  else if call && c.anyFull then c.s.killGroup c.g.gid 0x0A
  else c.jump (if call then c.g.modLanes c.issue fun l => l.push c.r.fallThrough else c.g) ts contrib

/-- BRX (R207). -/
def execBrx (o : ArgsBx) (s : State) : Host.Outcome State Fault Refusal :=
  s.word (some o.g) { vr := pairOf o.a } fun c => c.indirect o.a (1 + o.stall) false

/-- CALLX (R207). -/
def execCallx (o : ArgsBx) (s : State) : Host.Outcome State Fault Refusal :=
  s.word (some o.g) { vr := pairOf o.a } fun c => c.indirect o.a (1 + o.stall) true

/-- Lanes exit: with the word they leave the run, and together the barriers of their teams (R53, R207, R216). -/
def Ctx.exitLanes (c : Ctx) (g : Group) (lanes : List Nat) (r : Run) (contrib : Nat) : State :=
  let gone := lanes.map fun l => ((c.g.lane l).team, (c.g.lane l).origin)
  let g := g.modLanes lanes fun l => { l with exited := true }
  (c.nextWith g r contrib).departLanes gone

/-- RET: the newest entry of the call stack, or exit where there is none (R207). -/
def execRet (o : ArgsC) (s : State) : Host.Outcome State Fault Refusal :=
  s.word (some o.g) {} fun c =>
    let ts := c.issue.filterMap fun l => ((c.g.lane l).pop).map fun x => (l, x.1)
    let out := c.issue.filter fun l => ((c.g.lane l).pop).isNone
    let g := c.g.modLanes c.issue fun l => ((l.pop).map (·.2)).getD l
    let r : Run := { c.r with targets := ts ++ c.r.targets }
    if out = [] then c.nextWith g r (1 + o.stall) else c.exitLanes g out r (1 + o.stall)

/-- EXIT (R207, R53). -/
def execExit (o : ArgsC) (s : State) : Host.Outcome State Fault Refusal :=
  s.word (some o.g) {} fun c => if c.issue = [] then c.next c.g 1 (1 + o.stall) else c.exitLanes c.g c.issue c.r (1 + o.stall)

/-- YIELD: the group yields when its clause completes (R208, R59). -/
def execYield (o : ArgsC) (s : State) : Host.Outcome State Fault Refusal :=
  s.word none {} fun c => c.nextWith c.g { c.r with yields := true } (1 + o.stall)

/-- NOP (R73). -/
def execNop (o : ArgsC) (s : State) : Host.Outcome State Fault Refusal := s.word none {} fun c => c.next c.g 1 (1 + o.stall)

/-- Halt the groups of a context at their next clause boundary (R289, R290). -/
def State.haltAll (s : State) (ctx : Nat) : State :=
  { s with groups := s.groups.map fun (g : Group) => if s.ctxOfGroup g = ctx && !g.ended then { g with halted := true } else g }

/-- The clause is over for the split, which takes its fall-through address; the word counts like any other (R209, R76, R206). -/
def Ctx.endClause (c : Ctx) (contrib : Nat) : Group :=
  Group.completeRun c.s.tick { c.pace c.g contrib with runs := c.g.runs.filter fun x => x != c.r } { c.r with targets := [] }

/-- TRAP and BRK with a lane in Issue: the debug halt, the trap handler, or the end of the group (R209). -/
def Ctx.takeTrap (c : Ctx) (cause arg contrib : Nat) : State :=
  let s : State := c.s.putGroup (c.endClause contrib)
  let armed := ((s.ctx? c.ctx).map (·.armed)).getD false
  let all := ((s.ctx? c.ctx).map (·.allstop)).getD false
  if cause = 0x12 && armed then
    let s : State := s.modGroup c.g.gid fun g => { g with halted := true }
    if all then s.haltAll c.ctx else s
  else if s.handlerOf c.g ≠ 0 then s.enterHandler c.g.gid cause arg c.issue 0
  else s.killGroup c.g.gid cause

/-- TRAP (R209). -/
def execTrap (o : ArgsTrap) (s : State) : Host.Outcome State Fault Refusal :=
  s.word (some o.g) {} fun c => if c.issue = [] then c.next c.g 1 (1 + o.stall) else c.takeTrap 0x11 o.n (1 + o.stall)

/-- BRK (R209). -/
def execBrk (o : ArgsTrap) (s : State) : Host.Outcome State Fault Refusal :=
  s.word (some o.g) {} fun c => if c.issue = [] then c.next c.g 1 (1 + o.stall) else c.takeTrap 0x12 o.n (1 + o.stall)

end Sys2Proof.Machine
end

