-- ==== Sys2Proof/Machine/LogEvents.lean ====
section
/-!
DEFINITION. The log's own events (18_log R305 to R307, R314 to R319) and uncorrectable copies of sectors (R317). An event that is not due leaves the state as
it is.
-/
namespace Sys2Proof.Machine

/-! ## Appending and the chisels -/

/-- LOG_APPEND: a dirty line leaves L2 for the open segment of its slot (R305, R306); it waits while no segment is free (R315) or a pin holds it (R346). -/
def execLogAppend (line slot : Nat) (s : State) : Host.Outcome State Fault Refusal :=
  .next (match s.dirty.find? fun d => d.line == line && d.slot == slot with
    | none => s
    | some d => if s.appendBlocked d || s.pinned line then s else
      ({ s with l2 := s.l2.filter fun x => !(x.line == line && x.held == d.version) }.appendLine d).settleSegments)

/-! ## Uncorrectable sectors (R203, R317) -/

/-- The team whose pending copy of a sector stands at its home slice or in the log. -/
def State.pendingTeam (s : State) (sector : Nat) : Option Team :=
  s.teams.find? fun t => t.wslot.isSome && (s.stands t.slot none sector || (s.pendingEntry t.slot none (sector / 2 ^ 19) (sector % 2 ^ 19)).isSome)

/-- A copy of the sector stands in L2 or in the log, or in place. -/
def State.hasCopy (s : State) (sector : Nat) : Bool := s.image.any fun c => lineOf c.1 == sector

/-- A repair of the published copy of a sector from a replica succeeds: one holds the writer slot and mark of its latest publication (R317). -/
def State.repairs (s : State) (sector : Nat) : Bool :=
  (s.tagOf sector).any fun t => s.repairsFrom sector t (s.image.bytes (sector * 128) 128)

/-- The published line of a sector is dirty in L2: no copy in the log holds it. -/
def State.isDirty (s : State) (sector : Nat) : Bool := s.dirty.any fun d => d.line == sector && !d.pending
/-- The published copy of a sector is lost: the one in the log, or the dirty line over it (R317). -/
def State.losePublished (s : State) (e : Extent) (sector : Nat) : State :=
  let idx := sector % 2 ^ 19
  let x := s.published e.num idx
  if x.hasCopy && !s.isDirty sector then s.loseCopy e.num idx x.stack x.sector
  else
    { s.putChain e.num e.home idx ((s.chain e.num idx).dropLast ++ [LeafEntry.lost idx]) with
      lost := addNew s.lost sector
      dirty := s.dirty.filter fun d => d.pending || d.line != sector
      l2 := s.l2.filter fun y => !(y.line == sector && y.held == none) }

/-- The reading group ends, or, where none reads, the context of the extent is told (R317, R203). -/
def State.endReader (s : State) (gid sector : Nat) : State :=
  match s.group? gid with
  | some _ => s.killGroup gid 0x0F
  | none => s.reportLoss (sector / 2 ^ 19)

/-- An uncorrectable published copy of a sector: repaired from a replica, or lost, and the reading group ends (R317, R203). -/
def State.badPublished (s : State) (sector gid : Nat) : State :=
  let x := s.published (sector / 2 ^ 19) (sector % 2 ^ 19)
  if !s.hasCopy sector then s
  else if s.repairs sector then
    match s.indexed sector, s.recAt x.stack x.sector with
    | some e, some (_, r) =>
      if x.hasCopy && !s.isDirty sector then s.repairCopy e x.stack x.sector r (s.image.bytes (sector * 128) 128) else s
    | _, _ => s
  else
    let s : State := match s.indexed sector with
      | none => s
      | some e => s.losePublished e sector
    s.endReader gid sector

/-- An uncorrectable copy of a sector: a pending copy ends its team; a published one is repaired or lost. Where both stand, which copy it is is a
free choice (R317; log entry 7, DESIGN CHOICE). -/
def State.badSector (s : State) (sector gid : Nat) : State :=
  match s.pendingTeam sector with
  | some t => if !s.hasCopy sector || Config.freeBit s.serial sector 21 then s.killTeam t.tid 0x0F else s.badPublished sector gid
  | none => s.badPublished sector gid

/-- The published copy of a sector in the log fails the check of its CRC (R316). -/
def State.failsCheck (s : State) (sector : Nat) : Bool := s.fails sector none
/-- The team whose pending copy of a sector, in the log and not in L2, fails it. -/
def State.failingTeam (s : State) (sector : Nat) : Option Team :=
  s.teams.find? fun t => t.wslot.isSome && !s.inL2 sector (some (t.slot, none)) && s.fails sector (some (t.slot, none))
/-- The copies of a sector come into L2: the published one, and what teams hold pending of it. -/
def State.fillSector (s : State) (sector : Nat) : State :=
  let held := (s.teams.filter fun t => t.wslot.isSome && s.stands t.slot none sector).map fun t => t.slot
  (held.foldl (fun s w => s.holdLine sector (some (w, none))) (s.holdLine sector none)).fillIlc sector

/-- L2_FILL: the copies of a sector are read into L2 and their ECC and CRC are checked; `bad` where a check fails (R316, R317). -/
def execL2Fill (sector gid : Nat) (bad : Bool) (s : State) : Host.Outcome State Fault Refusal :=
  .next (if bad then s.badSector sector gid
    else if s.failsCheck sector then s.badPublished sector gid
    else
      match s.failingTeam sector with
      | some t => s.killTeam t.tid 0x0F
      | none => s.fillSector sector)

/-! ## The chisels (R314) -/

/-- The copy of record i of a segment is live: the current root or a held cast references it. -/
def State.recLive (s : State) (g : Segment) (i : Nat) (r : SumRec) : Bool := r.live && !r.pending && s.references g.stack (g.base + i)
/-- The live records of a segment, with their places. -/
def State.liveRecs (s : State) (g : Segment) : List (SumRec × Nat) := g.recs.zipIdx.filter fun (r, i) => s.recLive g i r

/-- A segment is eligible for its stack's chisel; of a destroyed extent nothing is live. -/
def State.eligible (s : State) (g : Segment) : Bool :=
  g.state == .settled &&
    match s.extent? g.ext with
    | some e => decide (g.seq + e.cold ≤ (assoc s.seals g.stack).getD 0) && decide (100 * (s.liveRecs g).length ≤ e.thr * dataSectors g.size)
    | none => true

/-- A live sector moves to the chisel's destination segment with its record, and every entry that references it is repointed, those of casts included. A copy that
fails its check is handled as R317 says, with no reading group (R316, R322). -/
def State.chiselMove (s : State) (e : Extent) (g : Segment) (r : SumRec) (i : Nat) : State :=
  if !r.intact then s.badCopyAlone e.num r.idx g.stack (g.base + i)
  else
    let a := s.appendRec e g.slot true r
    a.1.mapCopy g.stack (g.base + i) fun x => { x with stack := e.home, sector := a.2 }

/-- CHISEL_MOVE: the live sectors of an eligible segment move, and the segment is reclaimed; no value, mark or handle changes. -/
def execChiselMove (seg : Nat) (s : State) : Host.Outcome State Fault Refusal :=
  .next (match s.segments.find? fun g => g.num == seg with
    | none => s
    | some g =>
      if !s.eligible g then s
      else
        let s : State := match s.extent? g.ext with
          | some e => (s.liveRecs g).foldl (fun s (r, i) => s.chiselMove e g r i) s
          | none => s
        { s with segments := s.segments.filter fun x => x.num != seg })

/-! ## Replication (R319) -/

/-- A segment brings a peer the copy that a ship waits for in a sector: a published one of that point or a later one. -/
def Segment.brings (g : Segment) (h : Ship) (sector : Nat) : Bool :=
  g.recs.any fun r => r.live && !r.pending && g.ext * 2 ^ 19 + r.idx == sector && decide (h.point ≤ r.point)

/-- The published copies of a segment that fail the check of the shipper's read (R316). -/
def Segment.badRecs (g : Segment) : List (SumRec × Nat) := g.recs.zipIdx.filter fun (r, _) => r.live && !r.pending && !r.intact
/-- They are handled as R317 says, with no reading group (R322); the record itself is dead. -/
def State.shipperFinds (s : State) (g : Segment) : State :=
  g.badRecs.foldl (fun s (r, i) => (s.badCopyAlone g.ext r.idx g.stack (g.base + i)).killRecord g.stack (g.base + i)) s

/-- SEGMENT_SHIP: the shipper of the home stack sends a settled segment of a replicated extent to a peer, in seal order for its slot (R319,
R320). -/
def execSegmentShip (seg peer : Nat) (s : State) : Host.Outcome State Fault Refusal :=
  .next (match s.segments.find? fun g => g.num == seg with
    | none => s
    | some g =>
      match s.extent? g.ext with
      | none => s
      | some e =>
        match s.peer? e.ctx peer with
        | none => s
        | some p =>
          let earlier := s.segments.any fun x => x.slot == g.slot && x.stack == g.stack && x.state != .opened && decide (x.seq < g.seq)
            && !x.chisel && !x.shipped.contains peer && ((s.extent? x.ext).map fun y => y.ctx == e.ctx && decide (peer < y.nrep)).getD false
          if !e.shipsTo p || g.state != .settled || g.shipped.contains peer || earlier || (s.flow p.dev).unreachable then s
          else if g.badRecs != [] then s.shipperFinds g
          else
            { s with
              segments := s.segments.map fun (x : Segment) => if x.num = seg then { x with shipped := x.shipped ++ [peer] } else x
              ships := s.ships.map fun (h : Ship) =>
                if h.ctx = e.ctx && h.which == peer then { h with left := h.left.filter fun n => !g.brings h n } else h })

/-- The address of a byte of a replicated extent at its peer. -/
def State.replicaAddr (s : State) (which a : Nat) : Nat :=
  match s.extent? (extentOf a) with
  | some e => (if which = 0 then e.pext0 else e.pext1) * 2 ^ 26 + a % 2 ^ 26
  | none => a

/-- Bytes of replica extents of this device take the place of what they held, in one step of the publication order (R293, R319, R321). -/
def State.applyHere (s : State) (b : Overlay) : State :=
  s.commitImage (cellsIf (fun a => ((s.extent? (extentOf a)).map (·.kind)) == some 3) b) Config.writerSlots 0 0 false

/-- Bytes are installed at a peer, with the tags of their sectors; a peer that is this device takes them into its replica extents (R293, R317, R319). -/
def State.install (s : State) (p : Peer) (b : Overlay) (tags : List (Nat × Nat × BitVec 32)) : State :=
  let s : State := s.modPeer p.ctx p.which fun p =>
    { p with
      image := p.image.overlay b
      tags := p.tags.filter (fun x => !(sectorsOf b).contains x.1) ++ tags }
  if p.dev ≠ s.conf.devid then s
  else s.applyHere ((b.map fun c => (s.replicaAddr p.which c.1, c.2)).foldl (fun (o : Overlay) c => cellPut o c.1 c.2) [])

/-- The tags under which a publication stands at its peer: its writer slot and its mark, which is one below the step that it counts toward where it is no mark
step (R305, R319). -/
def Ship.tags (h : Ship) : List (Nat × Nat × BitVec 32) := (sectorsOf h.bytes).map fun n => (n, h.slot, if h.step then h.mark else h.mark - 1)

/-- A publication of this device is applied at the peer in one step, after the slot's earlier publications and after the images that precede it (R319, R313). -/
def State.applyShip (s : State) (ship : Nat) : State :=
  match s.ships.find? fun h => h.id == ship with
  | none => s
  | some h =>
    match s.peer? h.ctx h.which with
    | none => s
    | some p =>
      let first := (s.ships.find? fun x => x.ctx == h.ctx && x.which == h.which && x.slot == h.slot).map (·.id)
      if h.left != [] || first != some h.id || (p.behind.any fun b => decide (b.ship < h.id)) || (s.flow p.dev).unreachable then s
      else
        let s : State := { s with ships := s.ships.filter fun x => x.id != ship }
        (s.modPeer h.ctx h.which fun p => { p with valid := addNew p.valid h.slot }).install p h.bytes h.tags

/-- An extent takes a whole image in the place of what it held. -/
def wholeImage (ext : Nat) (old m : Overlay) : Overlay :=
  Overlay.overlay ((cellsIf (fun a => extentOf a == ext) old).map fun c => (c.1, 0)) (cellsIf (fun a => extentOf a == ext) m)

/-- REPLICA_APPLY: what one publication of a slot brings is applied at the peer in one step; what another device's shipper brings is applied here (R319). -/
def execReplicaApply (what : Shipment) (s : State) : Host.Outcome State Fault Refusal :=
  .next (match what with
    | .own ship => s.applyShip ship
    | .publication b => s.applyHere (b.foldl (fun (o : Overlay) c => cellPut o c.1 c.2) [])
    | .image ext b => s.applyHere (wholeImage ext s.image (b.foldl (fun (o : Overlay) c => cellPut o c.1 c.2) [])))

/-- Ships to a peer that a test picks lose their bytes in an extent; one with no bytes left is over. -/
def State.dropShips (s : State) (ctx which ext : Nat) (p : Ship → Bool) : State :=
  { s with
    ships := (s.ships.map fun (h : Ship) =>
      if h.ctx = ctx && h.which == which && p h then
        { h with bytes := cellsIf (fun a => extentOf a != ext) h.bytes, left := h.left.filter fun n => n / 2 ^ 19 != ext }
      else h).filter fun h => h.bytes != [] }

/-- A ship lags: a sector that it waits for stands, published, in no dirty line and in no segment of its writer's any more; a chisel has reclaimed what held it. -/
def State.lags (s : State) (h : Ship) (ext : Nat) : Bool :=
  h.left.any fun n => n / 2 ^ 19 == ext && !(s.dirty.any fun d => d.line == n && !d.pending) && !(s.segments.any fun g => !g.chisel && g.brings h n)

/-- An image is installed whole at a peer in the place of what it held of the extent (R319). -/
def State.installImage (s : State) (p : Peer) (ext : Nat) (m : Memory) (tags : List (Nat × Nat × BitVec 32)) : State :=
  (s.modPeer p.ctx p.which fun p => { p with tags := p.tags.filter fun x => x.1 / 2 ^ 19 != ext }).install p (wholeImage ext p.image m) tags

/-- REPLICA_CATCH_UP: a peer installs the next whole image of an extent: the reverted or first image that it must install, or the image at an
internal cast where it lags; the applied marks become those of that point (R319, R313, R320). -/
def execReplicaCatchUp (ext peer : Nat) (s : State) : Host.Outcome State Fault Refusal :=
  .next (match s.extent? ext with
    | none => s
    | some e =>
      match s.peer? e.ctx peer with
      | none => s
      | some p =>
        if !e.shipsTo p || (s.flow p.dev).unreachable then s
        else
          match p.behind.find? fun b => b.ext == ext with
          | some b =>
            let s : State := s.dropShips e.ctx peer ext fun h => decide (h.id < b.ship)
            (s.modPeer e.ctx peer fun p =>
              { p with
                caught := true
                behind := p.behind.filter fun x => x.ship != b.ship }).installImage p ext b.image b.tags
          | none =>
            if s.ships.any fun h => h.ctx == e.ctx && h.which == peer && s.lags h ext then
              ((s.dropShips e.ctx peer ext fun _ => true).modPeer e.ctx peer fun p => { p with caught := true }).installImage p ext
                (s.extentImage ext) (s.tagsNow ext)
            else s)

end Sys2Proof.Machine
end

