-- ==== Sys2Proof/Machine/Fabric.lean ====
section
/-!
DEFINITION. Tuihel packets that arrive (26_fabric R387 to R394, 14_ordering R251, 10_memory R199), unreachable devices, and Ultra Ethernet messages
that arrive (R399, R400). What the manual does not lay out of the payloads is as log entry 15, PRESUMED, says.
-/
namespace Sys2Proof.Machine

/-! ## Loads (R182, R388) -/

/-- LDREQ: the published image is read, once L2 holds the line (R316), and its 16-byte granule goes back; what a lost sector gives a peer is free (log entries 7, 15, DESIGN CHOICE and PRESUMED). -/
def State.onLdreq (s : State) (p : Packet) : State :=
  let a := p.laddr / 16 * 16
  let s : State := s.fillAlone (lineOf a)
  let x := if s.lost.contains (lineOf a) then (List.range 4).foldl (fun n i => n * 2 ^ 32 + (Config.freeWord s.serial a i).toNat) 0
    else s.image.nat a 16
  s.post (s.packet p.sdev kLdrsp p.sws 0 p.laddr [BitVec.ofNat 128 x])

/-- A part waits for that piece from a device. -/
def Part.awaits (p : Part) (dev k : Nat) : Bool :=
  match p.st with
  | .remote f left _ => f.tgt == 2 && f.dev == dev && left.contains k
  | _ => false

/-- An answer completes what its request was sent for, if the operation that asked is still there (R388, R55). -/
def State.answer (s : State) (p : Packet) (k : State → SentRequest → Op → Part → State) : State :=
  match s.takeAsked p with
  | none => s
  | some (q, s) =>
    match s.op? q.op with
    | none => s
    | some o =>
      match o.part? q.lane with
      | none => s
      | some x => if x.awaits p.sdev q.piece then k s q o x else s

/-- LDRSP: a piece of a load or of a copy's source has come; with the last one the load completes, or the bytes are read (R388). -/
def State.onLdrsp (s : State) (p : Packet) : State :=
  s.answer p fun s a o q =>
    match q.st with
    | .remote f left got =>
      let n := (((pieces f.addr q.len).find? fun x => x.1 == a.piece).map (·.2)).getD 0
      let x := (p.beats.headD 0).toNat / 256 ^ (p.laddr % 16) % 256 ^ n
      let got : BitVec 128 := got ||| BitVec.ofNat 128 (x * 256 ^ a.piece)
      let rest := left.filter (· != a.piece)
      if rest != [] then s.modOp o.id fun o => o.modPart q.lane fun q => { q with st := .remote f rest got }
      else if o.kind.isCopy then s.setDone o.id q.lane got
      else s.deliverLoad o q got.toNat
    | _ => s

/-! ## Stores and publications (R251, R389) -/

/-- The bytes of a STORE: those of the line whose mask bit is set (R388). -/
def packetBytes (p : Packet) : Overlay :=
  let mask := p.beats.headD 0
  ((List.range 128).filter mask.getLsbD).map fun i =>
    (p.laddr / 128 * 128 + i, BitVec.ofNat 8 ((p.beats.getD (1 + i / 16) 0).toNat / 256 ^ (i % 16)))

/-- What stands pending under a tag, at whatever port it arrived (R389). -/
def State.tagged (s : State) (p : Packet) : Overlay :=
  (s.pending.filter fun x => x.tag == some (p.sdev, p.sws)).foldl (fun o x => Overlay.overlay o x.bytes) []
/-- The writer slot of the port at which a packet arrives (R389). -/
def portSlot (p : Packet) : Nat := Config.fabricSlotBase + p.port % Config.ports
/-- Take it away. -/
def State.untag (s : State) (p : Packet) : State := { s with pending := s.pending.filter fun x => x.tag != some (p.sdev, p.sws) }

/-- STORE: its bytes stand pending under the slot of the port at which it arrived, tagged with its source team, in the place of what the tag holds there under
any port, and their lines are dirty (R305, R389); bytes for a replica extent are discarded (R293; log entry 86, DESIGN CHOICE). STACK goes back. -/
def State.onStore (s : State) (p : Packet) : State :=
  let new := s.storableBytes (packetBytes p)
  let mine : Pending → Bool := fun x => x.tag == some (p.sdev, p.sws)
  let left := s.pending.map fun (x : Pending) => if mine x then { x with bytes := cellsIf (fun a => (cellAt new a).isNone) x.bytes } else x
  let here := (left.filter fun x => mine x && x.slot == portSlot p).foldl (fun o x => Overlay.overlay o x.bytes) []
  let rest := left.filter fun x => !mine x || (x.slot != portSlot p && x.bytes != [])
  let b := Overlay.overlay here new
  let s : State := { s with pending := if b = [] then rest else rest ++ [{ slot := portSlot p, tag := some (p.sdev, p.sws), bytes := b }] }
  let lines := sectorsOf new
  let s : State := lines.foldl (fun s line => s.soil (portSlot p) (some (p.sdev, p.sws)) line) (s.dropGone lines)
  s.post (s.packet p.sdev kStack p.sws 0 p.laddr [])

/-- PUBLISH: everything pending under the tag is published in one step, with no mark advance, under the slot of the first of the ports that hold it (log entry 9,
DESIGN CHOICE); PUBACK goes back. -/
def State.onPublish (s : State) (p : Packet) : State :=
  let b := s.storableBytes (s.tagged p)
  let slot := ((s.pending.find? fun x => x.tag == some (p.sdev, p.sws)).map (·.slot)).getD Config.fabricSlotBase
  let s : State := s.untag p
  let s : State := if b = [] then s else s.commitImage b slot (s.mark slot) (s.mark slot + 1) false
  s.post (s.packet p.sdev kPuback p.sws 0 p.laddr [])

/-- DISCARD: it is discarded in one step; PUBACK goes back (R394). -/
def State.onDiscard (s : State) (p : Packet) : State :=
  let s : State := (s.untag p).dropGone (sectorsOf (s.tagged p))
  s.post (s.packet p.sdev kPuback p.sws 0 p.laddr [])

/-- The team that a slot stands for in an answer: its holder, or the dead team whose discards are awaited. -/
def State.answersFor (s : State) (sws : Nat) : Option Nat :=
  match s.holder? sws with
  | some (.discarding tid) => some tid
  | _ => (s.teamOfSlot sws).map (·.tid)

/-- STACK: the owner has accepted a store (R251). -/
def State.onStack (s : State) (p : Packet) : State :=
  match s.answersFor p.sws with
  | none => s
  | some tid =>
    let hit : Await → Bool := fun x => x.team == tid && x.dev == p.sdev && x.kind == .sent && x.addr % 2 ^ 39 == p.laddr
    match s.awaiting.find? hit with
    | none => s
    | some x => { s with awaiting := dropFirst hit s.awaiting ++ [{ x with kind := .held }] }

/-- PUBACK: an owner has published or discarded; with the last discard a dead team's slot is free (R251, R394). -/
def State.onPuback (s : State) (p : Packet) : State :=
  match s.answersFor p.sws with
  | none => s
  | some tid =>
    let s : State := { s with
      awaiting := dropFirst (fun (x : Await) => x.team == tid && x.dev == p.sdev && (x.kind == .publish || x.kind == .stray || x.kind == .discard)) s.awaiting }
    if s.holder? p.sws == some (.discarding tid) && !(s.awaiting.any fun x => x.team == tid && (x.kind == .stray || x.kind == .discard)) then s.freeSlot p.sws
    else s

/-! ## Atomics (R199) -/

/-- The packets of one atomic operation whose last packet has come: each but the last has nine beats (log entry 15, PRESUMED). -/
def sameAtomic (p q : Packet) : Bool := q.sws == p.sws && q.laddr == p.laddr && q.op == p.op

/-- ATOMIC: with the last packet of the operation, one indivisible operation on the published element, which publishes it; the old value goes back (R199; log
entry 26, DEDUCED). -/
def State.onAtomic (s : State) (p : Packet) : State :=
  let f := s.flow p.sdev
  if p.beats.length = 9 then s.putFlow { f with atoms := f.atoms ++ [p] }
  else
    let beats := (f.atoms.filter (sameAtomic p)).flatMap (·.beats) ++ p.beats
    let s : State := if f.atoms = [] then s else s.putFlow { f with atoms := f.atoms.filter fun q => !sameAtomic p q }
    let (op, size) := atomOfCode p.op
    let a := p.laddr / size * size
    let s : State := s.fillAlone (lineOf a)
    let m := s.image.nat a size
    let r := atomAll op size m (beats.map fun b => (b.toNat % 2 ^ (8 * size), b.toNat / 2 ^ 64 % 2 ^ (8 * size)))
    let s : State := s.commitImage (s.storableBytes (cellsOf a size r.2)) (portSlot p) (s.mark (portSlot p)) (s.mark (portSlot p) + 1) false
    s.post (s.packet p.sdev kAtrsp p.sws 0 p.laddr [BitVec.ofNat 128 m])

/-- The lanes of a word that wait, with one of them, for the answer to one aggregated operation. -/
def Part.withIt (p q : Part) : Bool :=
  match p.st, q.st with
  | .remote f [0] _, .remote h [0] _ => f.tgt == h.tgt && f.dev == h.dev && f.addr == h.addr
  | _, _ => false

/-- ATRSP: every lane of the aggregated operation has its old value (R197, R199). -/
def State.onAtrsp (s : State) (p : Packet) : State :=
  s.answer p fun s _ o q =>
    match o.kind with
    | .atomic op size _ =>
      let ps := o.parts.filter fun x => q.withIt x
      let r := atomAll op size ((p.beats.headD 0).toNat % 2 ^ (8 * size)) (ps.map fun x => (x.data.toNat, x.data2.toNat))
      s.setOlds o.id ((ps.map (·.lane)).zip r.1)
    | _ => s

/-! ## Pacing (R390) -/

/-- DEMAND: the source holds a demand for the bytes that it wants, and is served in its turn (R390). -/
def State.onDemand (s : State) (p : Packet) : State :=
  let n := (p.beats.headD 0).toNat
  if n = 0 then s else { s with demands := s.demands ++ [(p.sdev, n)] }.grantNext

/-- GRANT: more bytes may go. -/
def State.onGrant (s : State) (p : Packet) : State :=
  let f := s.flow p.sdev
  (s.putFlow { f with granted := f.granted + (p.beats.headD 0).toNat, demanded := 0 }).drainFlow p.sdev

/-! ## Delivery in order (R391) -/

/-- A packet that is never sent: its kind, or its atomic operation (R388). -/
def unknownPacket (p : Packet) : Bool := p.kind == 0 || decide (kDiscard < p.kind) || (p.kind == kAtomic && decide (0x12 ≤ p.op))

/-- The effect of a packet at its destination (R388). -/
def State.deliver (s : State) (p : Packet) : State :=
  match p.kind with
  | 0x01 => s.onLdreq p
  | 0x02 => s.onLdrsp p
  | 0x03 => s.onStore p
  | 0x04 => s.onStack p
  | 0x05 => s.onAtomic p
  | 0x06 => s.onAtrsp p
  | 0x07 => s.onPublish p
  | 0x08 => s.onPuback p
  | 0x09 => s.onDemand p
  | 0x0A => s.onGrant p
  | 0x0B => s.onDiscard p
  | _ => s

/-- Deliver the early packets of a flow that are now in turn. -/
def State.deliverEarly (dev : Nat) : Nat → State → State
  | 0, s => s
  | n + 1, s =>
    let f := s.flow dev
    match f.early.find? fun p => p.seq == f.recvSeq with
    | none => s
    | some p =>
      let s : State := s.putFlow { f with early := f.early.filter fun q => q != p, recvSeq := (f.recvSeq + 1) % 2 ^ 20 }
      State.deliverEarly dev n (s.deliver p)

/-- A packet arrives: it is delivered in its turn of the flow, and held until then (R391). -/
def State.receive (s : State) (kind : Nat) (p : Packet) : State :=
  if p.kind ≠ kind || p.ddev != s.conf.devid || unknownPacket p then s
  else
    let f := s.flow p.sdev
    if p.seq = f.recvSeq then
      let s : State := s.putFlow { f with recvSeq := (f.recvSeq + 1) % 2 ^ 20 }
      State.deliverEarly p.sdev f.early.length (s.deliver p)
    else if f.early.any fun q => q.seq == p.seq then s
    else s.putFlow { f with early := f.early ++ [p] }

/-- The error counter of the link of a port. -/
def State.linkError (s : State) (port : Nat) : Nat := (assoc s.linkErrors port).getD 0

/-- PACKET_DROP: an unknown packet is dropped and counted in the error counter of its link (R388). -/
def execPacketDrop (p : Packet) (s : State) : Host.Outcome State Fault Refusal :=
  .next (if unknownPacket p then { s with linkErrors := assocPut s.linkErrors p.port (s.linkError p.port + 1) } else s)

/-- LDREQ arrives (R388). -/
def execLdreq (p : Packet) (s : State) : Host.Outcome State Fault Refusal := .next (s.receive kLdreq p)

/-- LDRSP arrives (R388). -/
def execLdrsp (p : Packet) (s : State) : Host.Outcome State Fault Refusal := .next (s.receive kLdrsp p)

/-- STORE arrives (R388). -/
def execStore (p : Packet) (s : State) : Host.Outcome State Fault Refusal := .next (s.receive kStore p)

/-- STACK arrives (R388). -/
def execStack (p : Packet) (s : State) : Host.Outcome State Fault Refusal := .next (s.receive kStack p)

/-- ATOMIC arrives (R388). -/
def execAtomic (p : Packet) (s : State) : Host.Outcome State Fault Refusal := .next (s.receive kAtomic p)

/-- ATRSP arrives (R388). -/
def execAtrsp (p : Packet) (s : State) : Host.Outcome State Fault Refusal := .next (s.receive kAtrsp p)

/-- PUBLISH arrives (R388). -/
def execPublish (p : Packet) (s : State) : Host.Outcome State Fault Refusal := .next (s.receive kPublish p)

/-- PUBACK arrives (R388). -/
def execPuback (p : Packet) (s : State) : Host.Outcome State Fault Refusal := .next (s.receive kPuback p)

/-- DEMAND arrives (R390). -/
def execDemand (p : Packet) (s : State) : Host.Outcome State Fault Refusal := .next (s.receive kDemand p)

/-- GRANT arrives (R390). -/
def execGrant (p : Packet) (s : State) : Host.Outcome State Fault Refusal := .next (s.receive kGrant p)

/-- DISCARD arrives (R394). -/
def execDiscard (p : Packet) (s : State) : Host.Outcome State Fault Refusal := .next (s.receive kDiscard p)

/-! ## Unreachable devices (R393) -/

/-- A part waits on a device. -/
def Part.waitsOn (p : Part) (dev : Nat) : Bool :=
  match p.st with
  | .remote f _ _ => f.tgt == 2 && f.dev == dev
  | .ready f => f.tgt == 2 && f.dev == dev
  | _ => false

/-- End the groups of the entries, among those that are still awaited, that a test picks: each once, since a group that ends waits no more (R55, R393). -/
def State.endWaiters (s : State) (p : Await → Bool) (f : FaultInfo) : State :=
  (s.awaiting.filter p).foldl (fun (s : State) (x : Await) => if s.awaiting.contains x then s.killGroup x.gid 0x08 f else s) s

/-- UNREACHABLE: loads, atomics, copies and stores not yet accepted end their groups with 0x08, and so do releases that wait for the device;
accepted stores stay (R393). -/
def execUnreachable (dev : Nat) (s : State) : Host.Outcome State Fault Refusal :=
  let f := s.flow dev
  let s : State := s.putFlow { f with unreachable := true }
  let waits := s.ops.filterMap fun o => (o.parts.find? fun p => p.waitsOn dev).map fun p => (o, p)
  let s : State := waits.foldl (fun (s : State) ((o, p) : Op × Part) =>
    if (s.op? o.id).isNone then s
    else
      match o.kind with
      | .copyCommand q k _ => s.failCopyCommand o.id q k
      | k => s.killGroup o.gid 0x08 { vaddr := p.addr, acc := k.acc }) s
  let s : State := s.endWaiters (fun x => x.dev == dev && x.kind == .sent && x.gid != 0) { acc := 1 }
  .next (s.endWaiters (fun x => x.dev == dev && x.kind == .publish) {})

/-- LINK_LEVEL_ACKNOWLEDGEMENT: a device that was unreachable can be reached again, and what waited on it can go on (R393, R320). -/
def execLinkLevelAcknowledgement (dev : Nat) (s : State) : Host.Outcome State Fault Refusal :=
  let f := s.flow dev
  .next ((s.putFlow { f with unreachable := false }).drainFlow dev)

/-! ## Ultra Ethernet messages (R399, R400) -/

/-- EXT of a receive queue's register. -/
def rqExt (r : BitVec 128) : Nat := field r.toNat 115 13
/-- CTX. -/
def rqCtx (r : BitVec 128) : Nat := field r.toNat 103 12
/-- PORT. -/
def rqPort (r : BitVec 128) : Nat := field r.toNat 100 3
/-- RECOFF. -/
def rqOff (r : BitVec 128) : Nat := field r.toNat 74 26
/-- RN. -/
def rqN (r : BitVec 128) : Nat := field r.toNat 69 5

/-- The bytes of a list from an address on. -/
def cellsFromList (a : Nat) (l : List Byte) : Overlay := l.zipIdx.map fun (x, i) => (a + i, x)

/-- RECEIVE_MESSAGE: a message for a bound queue at its port, within its extent, lands under the queue's slot, is published on its last byte, and
its record after it; any other is answered with a transport error and leaves nothing else (R399, R400). -/
def execReceiveMessage (m : NetMessage) (s : State) : Host.Outcome State Fault Refusal :=
  let refused : State := { s with refusals := m :: s.refusals }
  .next (match s.recvq.find? fun q => q.num == m.rq && q.reg.getLsbD 0 with
    | none => refused
    | some q =>
      if rqPort q.reg ≠ m.port || decide (2 ^ 26 < m.off.toNat + m.data.length) then refused
      else
        let base := rqExt q.reg * 2 ^ 26
        let mark := s.mark q.slot
        let s : State := s.landBytes q.slot (cellsFromList (base + m.off.toNat) m.data)
        let s : State := s.publishPart q.slot (fun _ => true) []
        let rec_ := m.data.length % 2 ^ 32 + m.tag.toNat * 2 ^ 32
        let s : State := s.commitImage (cellsOf (base + rqOff q.reg + 8 * (q.count % 2 ^ rqN q.reg)) 8 rec_) q.slot mark (mark + 1) false
        { s with recvq := s.recvq.map fun (x : RecvQueue) => if x.num = q.num then { x with count := x.count + 1 } else x })

end Sys2Proof.Machine
end

