-- ==== Sys2Proof/Machine/Registers.lean ====
section
/-!
DEFINITION. The register window of the host link (26_fabric R396): doorbells (16_scheduling R256, R284), Q0RING, send and receive queue bindings (R398,
R400), and what the window reads.
-/
namespace Sys2Proof.Machine

/-- QDB: the new tail of a bound queue, of queue 0 through the privileged function only (R256, R396). -/
def execQdb (q : Nat) (v : HostWrite) (s : State) : Host.Outcome State Fault Refusal :=
  .next (if q = 0 && !v.privileged then s
    else s.modQueue q fun x => if v.value.toNat < 2 ^ x.n then { x with tail := v.value.toNat } else x)

/-- Replayable-fault records that have waited are written while there is room (R284). -/
def State.flushEvents (ctx : Nat) : Nat → State → State
  | 0, s => s
  | n + 1, s =>
    match s.ctx? ctx with
    | none => s
    | some c =>
      match c.evwait with
      | [] => s
      | r :: rest =>
        if c.ringFull then s
        else State.flushEvents ctx n ((s.ringPut c r.toNat).modCtx ctx fun c => { c with evwait := rest })

/-- EVDB: the new head of an event ring (R284). -/
def execEvdb (ctx v : Nat) (s : State) : Host.Outcome State Fault Refusal :=
  .next (match s.ctx? ctx with
    | none => s
    | some c => if v < 2 ^ c.evn then State.flushEvents ctx c.evwait.length (s.modCtx ctx fun c => { c with evhead := v }) else s)

/-- A queue holds a command that has not completed. -/
def Queue.busy (q : Queue) : Bool := q.running != [] || q.head != q.tail

/-- A queue as binding leaves it. -/
def Queue.bound (num ctx : Nat) (latency : Bool) (ring n : Nat) : Queue where
  num := num
  ctx := ctx
  latency := latency
  ring := ring
  n := n
  head := 0
  tail := 0
  running := []

/-- Replace a queue, or remove it. -/
def State.putQueue (s : State) (num : Nat) (q : Option Queue) : State :=
  { s with queues := (s.queues.filter fun x => x.num != num) ++ q.toList }

/-- Q0RING, through the privileged function (R396): queue 0 is bound to the ring, or unbound; a write while it holds a command that has not completed is ignored
(R256). -/
def execQ0ring (v : HostWrite) (s : State) : Host.Outcome State Fault Refusal :=
  .next (if !v.privileged || ((s.queue? 0).map Queue.busy).getD false then s
    else
      let n := field v.value.toNat 0 5
      let ring := field v.value.toNat 10 39 * 2 ^ 10
      { s.putQueue 0 (if 4 ≤ n ∧ n ≤ 16 then some (Queue.bound 0 0 false ring n) else none) with q0ring := BitVec.ofNat 64 (ring + n) })

/-- One half of a 128-bit field is written. -/
def intoHalf (w : HalfWrite) (old : BitVec 128) : BitVec 128 :=
  if w.high then w.value ++ old.setWidth 64 else (old >>> 64).setWidth 64 ++ w.value

/-- SQBIND, through the privileged function: one half of a send queue's register; reserved bits read 0 (R396, R398). -/
def execSqbind (n : Nat) (v : HalfWrite) (s : State) : Host.Outcome State Fault Refusal :=
  .next (if v.privileged && decide (n < 1024) then
      { s with sendq := assocPut s.sendq n (intoHalf v ((assoc s.sendq n).getD 0) &&& ~~~(0xFFFFFFFFFFFE : BitVec 128)) }
    else s)

/-- V is written 0: the queue's writer slot is free (R400); a message is taken in one step, so none is in progress. -/
def State.unbindReceive (s : State) (n : Nat) : State :=
  { s with
    holders := s.holders.filter fun h => h.2 != .receiveQueue n
    recvq := s.recvq.map fun (q : RecvQueue) => if q.num = n then { q with reg := q.reg &&& ~~~1#128 } else q }

/-- What RQBIND keeps of a value: reserved bits read 0. -/
def rqField (v : BitVec 128) : BitVec 128 := v &&& ~~~(0x1FFFFFFFFFFFFFFFFE : BitVec 128)
/-- The register of a receive queue. -/
def State.receiveReg (s : State) (n : Nat) : BitVec 128 := ((s.recvq.find? fun (q : RecvQueue) => q.num == n).map (·.reg)).getD 0
/-- The register of a receive queue is written; no message has been received since. -/
def State.putReceive (s : State) (n : Nat) (reg : BitVec 128) (slot : Nat) : State :=
  { s with recvq := (s.recvq.filter fun (q : RecvQueue) => q.num != n) ++ [{ num := n, reg := reg, slot := slot, count := 0 }] }
/-- Its fields are written, and its binding stays as it is. -/
def State.rewriteReceive (s : State) (n : Nat) (reg : BitVec 128) : State :=
  if s.recvq.any fun (q : RecvQueue) => q.num == n then
    { s with recvq := s.recvq.map fun (q : RecvQueue) => if q.num = n then { q with reg := reg } else q }
  else s.putReceive n reg Config.writerSlots

/-- The conditions on a binding, but for a free writer slot (R400). -/
def State.bindOk (s : State) (v : BitVec 128) : Bool :=
  let rn := rqN v
  decide (4 ≤ rn) && decide (rn ≤ 16) && decide (rqOff v + 8 * 2 ^ rn ≤ 2 ^ 26) &&
    match s.extent? (rqExt v) with
    | some e => (e.kind == 1 || e.kind == 2) && e.ctx == rqCtx v
    | none => false

/-- A write of V = 1: a queue that is not bound is bound and takes a writer slot where the conditions hold, and one that is bound keeps its slot and its count where
they hold; else V reads 0 (R400; log entry 89, DESIGN CHOICE). -/
def State.bindReceive (s : State) (n : Nat) (reg : BitVec 128) : State :=
  if !s.bindOk reg then (s.unbindReceive n).putReceive n (reg &&& ~~~1#128) Config.writerSlots
  else if (s.receiveReg n).getLsbD 0 then s.rewriteReceive n reg
  else
    match s.takeSlot (n * 8 + 7) (.receiveQueue n) with
    | some (w, s) => s.putReceive n reg w
    | none => s.putReceive n (reg &&& ~~~1#128) Config.writerSlots

/-- RQBIND through the privileged function, its upper half, whose fields are as they are written and are looked at when V is written 1 (log entry 89, DESIGN CHOICE),
or its lower half with V = 1 (R396, R400). -/
def execRqbindBind (n : Nat) (v : HalfWrite) (s : State) : Host.Outcome State Fault Refusal :=
  let reg := rqField (intoHalf v (s.receiveReg n))
  .next (if 1024 ≤ n || !v.privileged then s
    else if v.high then s.rewriteReceive n reg
    else if v.value.getLsbD 0 then s.bindReceive n reg
    else s)

/-- RQBIND through the privileged function, its lower half with V = 0: the queue's slot is free, and the register takes the bits written (R400, R7). -/
def execRqbindUnbind (n : Unbinding) (s : State) : Host.Outcome State Fault Refusal :=
  .next (if 1024 ≤ n.queue || !n.write.privileged || n.write.value.getLsbD 0 then s
    else
      (s.unbindReceive n.queue).putReceive n.queue
        (rqField (intoHalf { high := false, value := n.write.value, privileged := true } (s.receiveReg n.queue))) Config.writerSlots)

/-- REGISTER_WRITE: a write to a read-only or unlisted offset is ignored (R396). -/
def execRegisterWrite (_off : Nat) (_v : BitVec 64) (s : State) : Host.Outcome State Fault Refusal := .next s

/-- What the host reads at an offset of the window; a write-only or unlisted register reads 0 (R396). -/
def State.windowRead (s : State) (off : Nat) : Nat :=
  if off = 0x0A000 then s.boot.word
  else if 0x0A100 ≤ off ∧ off < 0x0A120 ∧ off % 8 = 0 then field s.conf.record.toNat (8 * (off - 0x0A100)) 64
  else if 0x0A200 ≤ off ∧ off < 0x0A600 ∧ off % 8 = 0 then
    let i := (off - 0x0A200) / 4
    (s.conf.features.getD i 0).toNat + (s.conf.features.getD (i + 1) 0).toNat * 2 ^ 32
  else if off = 0x0A600 then s.q0ring.toNat
  else if 0x10000 ≤ off ∧ off < 0x14000 ∧ off % 8 = 0 then
    field ((assoc s.sendq ((off - 0x10000) / 16)).getD 0).toNat (8 * (off % 16)) 64
  else if 0x14000 ≤ off ∧ off < 0x18000 ∧ off % 8 = 0 then
    let r := s.recvq.find? fun (q : RecvQueue) => q.num == (off - 0x14000) / 16
    field ((r.map fun (q : RecvQueue) => q.reg).getD 0).toNat (8 * (off % 16)) 64
  else 0

end Sys2Proof.Machine
end

