-- ==== Sys2Proof/Machine/Commands.lean ====
section
/-!
DEFINITION. How the front end takes commands (16_scheduling R256 to R260), and the commands of a context: LAUNCH, COPY, SIGNAL, WAIT, SAVE, RESUME,
REPLAY, CANCELW, SHOOT (R263 to R268, R276, R279, R286; 10_memory R175).
-/
namespace Sys2Proof.Machine

/-! ## Slots (R257, R258, R259) -/

/-- The code of a command, with what tells its forms apart: XOP of EXTENT, the operation of DEBUG, FORCE of SAVE, UNBIND of QUEUE. A code or form
that does not exist is (0, 0). -/
def commandForm (x : Nat) : Nat × Nat :=
  match field x 0 8 with
  | 0x05 => if field x 64 4 ≤ 8 then (0x05, field x 64 4) else (0, 0)
  | 0x06 => (0x06, field x 64 1)
  | 0x0B => if field x 64 4 ≤ 6 then (0x0B, field x 64 4) else (0, 0)
  | 0x12 => (0x12, field x 89 1)
  | op => if (1 ≤ op ∧ op ≤ 0x0A) ∨ (0x10 ≤ op ∧ op ≤ 0x13) then (op, 0) else (0, 0)

/-- Commands that start while their context is saved (R258). -/
def startsSaved (op : Nat) : Bool := op == 0x07 || op == 0x0B || op == 0x08 || op == 0x0A || op == 0x09 || op == 0x05

/-- The command at the head of a queue can start (R258): its queue has a command, no WAIT is outstanding, SERIAL and SIGNAL wait for every earlier
one, a saved context starts few, and a COPY needs a free writer slot (R36). -/
def State.startable (s : State) (q : Queue) (x : Nat) : Bool :=
  let op := field x 0 8
  let saved := q.num != 0 && ((s.ctx? q.ctx).map (·.saved)).getD false
  s.boot.done && q.head != q.tail && !(q.running.any fun c => c.op == 0x04)
    && ((!x.testBit 8 && op != 0x03) || q.running == [])
    && (!saved || startsSaved op)
    && (op != 0x02 || s.freeSlots != [])

/-- The 64 bytes of the slot at the head of a queue. -/
def State.headSlot (s : State) (q : Queue) : Nat := s.hostMem.nat (q.slotAddr q.head) 64

/-- The next command of a queue, if it can start. -/
def State.nextCommand (s : State) (queue : Nat) : Option (Queue × Nat) :=
  match s.queue? queue with
  | none => none
  | some q => if s.startable q (s.headSlot q) then some (q, s.headSlot q) else none

/-- The bits of the header and of the body that a command's map does not name are 0 (R257). -/
def namedOnly (fields : List (Nat × Nat)) (x : Nat) : Bool :=
  let body := x % 2 ^ 448 / 2 ^ 64 * 2 ^ 64
  field x 10 22 == 0 && Nat.land body ((fields.map fun f => (2 ^ f.2 - 1) * 2 ^ f.1).sum) == body

/-- The queues on which a command may stand (R259); 0 is the code of a command that does not exist. -/
def allowedOn (op queue : Nat) : Bool := op == 0 || op == 0x05 || (decide (0x10 ≤ op) == (queue == 0))

/-- The command at the head of a queue starts: the head passes its slot, and it is outstanding. -/
def State.takeCommand (s : State) (q : Queue) (x : Nat) : State :=
  s.modQueue q.num fun q => { q with
    head := (q.head + 1) % 2 ^ q.n
    running := q.running ++ [{ slot := q.head, op := field x 0 8, tag := BitVec.ofNat 32 (field x 32 32), irq := x.testBit 9 }] }

/-- LAUNCH and RESUME, whose every start is a dispatch opportunity (R267). -/
def isPlacing (op : Nat) : Bool := op == 0x01 || op == 0x07

/-- A command of a form starts: it is refused with 0x80 or 0x83 (log entry 30, DEDUCED), or takes its effect; `k` gets the queue, the slot and its 64
bytes. -/
def State.command (s : State) (queue : Nat) (form : Nat × Nat) (fields : List (Nat × Nat)) (k : State → Queue → Nat → Nat → State) :
    Host.Outcome State Fault Refusal :=
  .next (match s.nextCommand queue with
    | none => s
    | some (q, x) =>
      if commandForm x ≠ form then s
      else
        let s : State := s.takeCommand q x
        let s : State := if isPlacing form.1 then s.opportunity q.ctx else s
        if !namedOnly fields x then s.completeCommand queue q.head 0x80
        else if !allowedOn form.1 queue then s.completeCommand queue q.head 0x83
        else k s q q.head x)

/-- UNKNOWN_COMMAND: an OP, or a form of EXTENT or DEBUG, that does not exist completes with 0x80 (R259, R296, R290). -/
def execUnknownCommand (queue : Nat) (s : State) : Host.Outcome State Fault Refusal :=
  s.command queue (0, 0) [] fun s q slot _ => s.completeCommand q.num slot 0x80

/-! ## LAUNCH (R264 to R266) -/

/-- The line that the front end is to read for the command of a form at the head of a queue, at the address of its body, and that L2 does not hold yet (R316). -/
def State.frontLine (s : State) (queue : Nat) (form : Nat × Nat) (fields : List (Nat × Nat)) (align : Nat) : Option Nat :=
  match s.nextCommand queue with
  | none => none
  | some (q, x) =>
    if commandForm x ≠ form || !namedOnly fields x || !allowedOn form.1 queue || field x 64 64 % align != 0 then none
    else
      match s.translateFront q.ctx (field x 64 64) { rd := true } with
      | .ok f => if f.tgt = 0 && !s.publishedReady (lineOf f.addr) then some (lineOf f.addr) else none
      | _ => none
/-- A command that reads memory starts once L2 holds what it reads. -/
def State.readCommand (s : State) (queue : Nat) (form : Nat × Nat) (fields : List (Nat × Nat)) (align : Nat)
    (k : State → Queue → Nat → Nat → State) : Host.Outcome State Fault Refusal :=
  match s.frontLine queue form fields align with
  | some line => .next (s.fillAlone line)
  | none => s.command queue form fields k

/-- The descriptor at a virtual address: none where it cannot be read (R266). -/
def State.readDescriptor (s : State) (ctx a : Nat) : Option Nat :=
  if a % 64 ≠ 0 then none
  else
    match s.translateFront ctx a { rd := true } with
    | .ok f => if f.tgt = 0 && !s.lost.contains (lineOf f.addr) then some (s.image.nat f.addr 64) else none
    | _ => none

/-- Reserved bits of a descriptor are 0 (R264). -/
def descReservedOk (d : Nat) : Bool :=
  field d 234 278 == 0 && field d 187 5 == 0 && field d 153 7 == 0 && !d.testBit 135

/-- A launch as its descriptor and its body give it. -/
def launchOf (lid num : Nat) (q : Queue) (slot d x : Nat) : Launch where
  lid := lid
  ctx := q.ctx
  num := num
  queue := q.num
  slot := slot
  params := BitVec.ofNat 64 (field x 128 64)
  kdesc := BitVec.ofNat 64 (field x 64 64)
  entry := BitVec.ofNat 64 (field d 0 64)
  trap := BitVec.ofNat 64 (field d 64 64)
  gx := field x 192 16
  gy := field x 208 16
  gz := field x 224 16
  share := field x 240 7
  checked := x.testBit 247
  latency := d.testBit 186
  feat := BitVec.ofNat 32 (field d 192 32)
  g := field d 128 4 + 1
  c := field d 132 3
  alloc := field d 136 7
  reserve := field d 144 9
  window := 16 * field d 160 16
  barriers := field d 176 10
  taskrec := d.testBit 143
  placed := 0
  bad := false
  elapsed := 0
  energy := 0
  started := false

/-- The shape lies within R32, and SHARE within R265. -/
def Launch.shapeOk (l : Launch) : Bool :=
  decide (1 ≤ l.c) && decide (1 ≤ l.gx) && decide (1 ≤ l.gy) && decide (1 ≤ l.gz) && decide (l.gx * l.gy * l.gz ≤ 2 ^ 32 - 1)
    && decide (8 ≤ l.alloc) && decide (l.alloc ≤ 64) && l.alloc % 4 == 0 && decide (l.g * l.alloc / 4 + l.reserve ≤ 256)
    && decide (l.window ≤ 983040) && decide (l.barriers ≤ 512) && decide (l.share ≤ 64)

/-- FEAT has a bit that no mask may have (R28). -/
def Launch.featBad (l : Launch) : Bool := l.feat &&& 0xFFFFFC00 != 0

/-- The status of the first check of R266 that fails. -/
def State.launchRefused (s : State) (q : Queue) (d : Nat) (l : Launch) : Option Nat :=
  match (s.ctx? q.ctx).bind fun c => s.part? c.pnum with
  | none => some 0x81
  | some p =>
    if !descReservedOk d || !l.shapeOk || l.latency != q.latency || l.params.toNat % 8 != 0 then some 0x80
    else if l.featBad then some 0x80
    else if !s.featureFits p l.feat then some 0x81
    else if !s.crewFits p l then some 0x82
    else none

/-- LAUNCH (R266, R267): the launch joins the dispatch list of its class. The first that a context accepts is its LAUNCHID 1, and one that is refused takes no
number (R280; log entry 84, DESIGN CHOICE). -/
def execLaunch (queue : Nat) (s : State) : Host.Outcome State Fault Refusal :=
  s.readCommand queue (0x01, 0) [(64, 64), (128, 64), (192, 48), (240, 7), (247, 1)] 64 fun s q slot x =>
    match s.readDescriptor q.ctx (field x 64 64) with
    | none => s.completeCommand queue slot 0x80
    | some d =>
      let n := (((s.ctx? q.ctx).map (·.launches)).getD 0 + 1) % 2 ^ 16
      let l := launchOf s.fresh n q slot d x
      match s.launchRefused q d l with
      | some st => s.completeCommand queue slot st
      | none =>
        let s : State := s.modCtx q.ctx fun c => { c with launches := n }
        { s with launches := s.launches ++ [l], fresh := s.fresh + 1 }

/-! ## COPY, SIGNAL, WAIT (R263) -/

/-- A COPY of no bytes completes at once, its stamp, if it has one, written as step 3 of R372 writes it, under a slot that it holds for that moment (R263; log
entry 45, DEDUCED). -/
def State.emptyCopy (s : State) (q : Queue) (slot w stamp value : Nat) : State :=
  if stamp = 0 then s.completeCommand q.num slot 0
  else
    match s.translateFront q.ctx stamp { w := true } with
    | .ok f =>
      if (destFault f).isSome then s.completeCommand q.num slot 0x86
      else if f.tgt = 0 then (s.commitImage (cellsOf f.addr 8 value) w (s.mark w) (s.mark w + 1) false).completeCommand q.num slot 0
      else { s with hostMem := s.hostMem.putNat f.addr 8 value }.completeCommand q.num slot 0
    | _ => s.completeCommand q.num slot 0x86

/-- The operation of the copy engines that a COPY becomes, with words of 4 bytes (R263, R370 to R372). -/
def State.copyOp (s : State) (queue ctx slot x : Nat) : Op :=
  let stamp := field x 256 64
  let done : CopyDone := if stamp = 0 then .none else .stamp stamp (BitVec.ofNat 64 (field x 320 64))
  let words := (List.range (field x 192 64 / 4)).map fun i =>
    { Part.new i ((field x 128 64 + 4 * i) % 2 ^ 64) 4 with addr2 := (field x 64 64 + 4 * i) % 2 ^ 64 }
  { id := s.fresh, gid := 0, team := 0, ctx := ctx, ctr := 0, kind := .copyCommand queue slot done, parts := words ++ done.parts, counted := 0
    point := s.pubs, aux := 0 }

/-- COPY: an operation of the copy engines under a writer slot of its own (R263); a LEN out of range comes before a misaligned address (log entry 85, DESIGN
CHOICE). -/
def execCopy (queue : Nat) (s : State) : Host.Outcome State Fault Refusal :=
  s.command queue (0x02, 0) [(64, 64), (128, 64), (192, 64), (256, 64), (320, 64)] fun s q slot x =>
    let len := field x 192 64
    if len % 4 ≠ 0 || 2 ^ 40 < len then s.completeCommand queue slot 0x80
    else if field x 128 64 % 4 ≠ 0 || field x 64 64 % 4 ≠ 0 || field x 256 64 % 8 ≠ 0 then s.completeCommand queue slot 0x86
    else
      match s.takeSlot (s.fresh * 8) (.copy s.fresh) with
      | none => s
      | some (w, t) =>
        if len = 0 then s.emptyCopy q slot w (field x 256 64) (field x 320 64)
        else { t with ops := t.ops ++ [s.copyOp queue q.ctx slot x], fresh := t.fresh + 1 }

/-- SIGNAL: every earlier command of the queue has completed; the value is published alone, or performed in host memory (R263, R236); a page of
another device gives 0x86 (log entry 92, DEDUCED). -/
def execSignal (queue : Nat) (s : State) : Host.Outcome State Fault Refusal :=
  s.command queue (0x03, 0) [(64, 64), (128, 64)] fun s q slot x =>
    let a := field x 64 64
    let v := field x 128 64
    if a % 8 ≠ 0 then s.completeCommand queue slot 0x86
    else
      match s.translateFront q.ctx a { w := true } with
      | .ok f =>
        if f.tgt = 0 then (s.commitImage (cellsOf f.addr 8 v) Config.writerSlots 0 0 false).completeCommand queue slot 0
        else if f.tgt = 1 then { s with hostMem := s.hostMem.putNat f.addr 8 v }.completeCommand queue slot 0
        else s.completeCommand queue slot 0x86
      | _ => s.completeCommand queue slot 0x86

/-- WAIT: it completes at once where its condition holds, else when its monitor wakes or is cancelled (R263, R220); a page that is
not local memory gives 0x86 (log entry 92, DEDUCED). -/
def execWait (queue : Nat) (s : State) : Host.Outcome State Fault Refusal :=
  s.readCommand queue (0x04, 0) [(64, 64), (128, 64), (192, 3)] 8 fun s q slot x =>
    let a := field x 64 64
    let v := field x 128 64
    let op := field x 192 3
    if a % 8 ≠ 0 then s.completeCommand queue slot 0x86
    else
      match s.translateFront q.ctx a { rd := true } with
      | .ok f =>
        if f.tgt ≠ 0 || s.lost.contains (lineOf f.addr) then s.completeCommand queue slot 0x86
        else if monitorCond op 8 (s.image.nat f.addr 8) v then s.completeCommand queue slot 0
        else
          let m : Monitor := { id := s.fresh, gid := none, queue := queue, slot := slot, ctx := q.ctx, addr := f.addr, vaddr := a, size := 8, op := op,
                               value := BitVec.ofNat 64 v, since := s.tick, reported := false }
          { s with monitors := s.monitors ++ [m], fresh := s.fresh + 1 }
      | _ => s.completeCommand queue slot 0x86

/-! ## SAVE, RESUME (R276, R279) -/

/-- A SAVE joins one that is in progress, with no further effect, or begins (R276, R291). -/
def State.beginSave (s : State) (q : Queue) (slot : Nat) (drain : Bool) : State :=
  let fresh := ((s.ctx? q.ctx).map fun c => c.saving == []).getD false
  let s : State := s.modCtx q.ctx fun c =>
    { c with saving := c.saving ++ [(q.num, slot)], drainSince := if fresh && drain then some s.tick else c.drainSince }
  let s : State := if fresh && !drain then s.askSave fun t => s.ctxOfTeam t == q.ctx else s
  s.checkSave q.ctx

/-- SAVE DRAIN (R276). -/
def execSaveDrain (queue : Nat) (s : State) : Host.Outcome State Fault Refusal :=
  s.command queue (0x06, 0) [(64, 1)] fun s q slot _ => s.beginSave q slot true

/-- SAVE FORCE (R277). -/
def execSaveForce (queue : Nat) (s : State) : Host.Outcome State Fault Refusal :=
  s.command queue (0x06, 1) [(64, 1)] fun s q slot _ => s.beginSave q slot false

/-- A refusal to resume, in the event ring (R279, R284). -/
def resumeRefused : EventInfo where
  kind := 4
  code := 0
  acc := 0xFF
  core := 0
  grp := 0
  kslot := 0
  launchid := 0
  teamidx := 0
  mask := 0
  vaddr := 0

/-- RESUME; where it lacks only group slots or register blocks, groups are spilled for it first (R274, R279). -/
def execResume (queue : Nat) (s : State) : Host.Outcome State Fault Refusal :=
  s.command queue (0x07, 0) [(64, 1)] fun s q slot x =>
    if !((s.ctx? q.ctx).map (·.saved)).getD false then s.completeCommand queue slot 0
    else
      let s : State := s.spillForResume q.ctx
      match s.resumeAll q.ctx with
      | some s => (s.contextBack q.ctx).completeCommand queue slot 0
      | none =>
        if !x.testBit 64 then s.completeCommand queue slot 0x85
        else (s.event q.ctx resumeRefused).modCtx q.ctx fun c => { c with resuming := c.resuming ++ [(queue, slot)] }

/-! ## REPLAY (R174, R286, R288) -/

/-- The lanes whose accesses are held, and the address of the lowest. -/
def Group.heldLanes (g : Group) : List Nat := g.alive.filter fun l => g.holds.any fun h => inMask h.lanes l
/-- The address of the access of the lowest held lane. -/
def Group.heldAddress (g : Group) : Nat :=
  match g.heldLanes with
  | l :: _ => ((g.holds.find? fun h => inMask h.lanes l).map (·.vaddr)).getD 0
  | [] => 0

/-- The report of a retried fault is to be delivered to the kernel's handler, if it names one: to the held lanes, together, before issue resumes (R288; log
entry 28, DEDUCED). -/
def State.reportReplay (s : State) (g : Group) : State :=
  if s.handlerOf g = 0 || g.heldLanes == [] then s
  else s.modGroup g.gid fun h => { h with report := some (maskOf g.heldLanes, g.heldAddress, s.handlerEntry g) }

/-- The answer "retry": every held access of the group is translated again, and issue resumes (R174). -/
def State.answerRetry (s : State) (g : Group) : State :=
  let s : State := s.reportReplay g
  let s : State := { s with ops := s.ops.map fun (o : Op) =>
    if o.gid = g.gid then
      { o with parts := o.parts.map fun (p : Part) => if p.isHeld then { p with st := .issued, replayed := true } else p }
    else o }
  s.modGroup g.gid fun g => Group.settle s.tick { g with
    holds := []
    runs := g.runs.map fun (r : Run) => match r.wait with | .held a v since => { r with wait := .look a v since true } | _ => r }

/-- The answer "fatal": the group ends with 0x08, a saved one when it is next resident (R174, R286). -/
def State.answerFatal (s : State) (g : Group) : State :=
  if g.place = .saved then s.modGroup g.gid fun g => { g with doomed := true }
  else
    s.killGroup g.gid 0x08 { vaddr := ((g.holds.head?).map (·.vaddr)).getD 0, acc := ((g.holds.head?).map (·.acc)).getD 0xFF }

/-- REPLAY: the answer to the fault of a number; a group that has ended has none (R286). -/
def execReplay (queue : Nat) (s : State) : Host.Outcome State Fault Refusal :=
  s.command queue (0x08, 0) [(64, 32), (96, 1)] fun s q slot x =>
    let n := field x 64 32
    let s : State := match s.groups.find? fun g => s.ctxOfGroup g == q.ctx && !g.doomed && g.holds.any fun h => h.seq == n with
      | some g => if x.testBit 96 then s.answerFatal g else s.answerRetry g
      | none => s
    s.completeCommand queue slot 0

/-! ## CANCELW, SHOOT (R222, R175) -/

/-- CANCELW: every monitor of the context is cancelled (R222, R263). -/
def execCancelw (queue : Nat) (s : State) : Host.Outcome State Fault Refusal :=
  s.command queue (0x09, 0) [] fun s q slot _ =>
    ((s.monitors.filter fun m => m.ctx == q.ctx).foldl (fun s m => s.endMonitor m none) s).completeCommand queue slot 0

/-- SHOOT: a shootdown of a virtual range begins (R175). -/
def execShoot (queue : Nat) (s : State) : Host.Outcome State Fault Refusal :=
  s.command queue (0x0A, 0) [(64, 64), (128, 64)] fun s q slot x =>
    { s with
      fresh := s.fresh + 1
      shoots := s.shoots ++ [{ id := s.fresh, queue := queue, slot := slot, ctx := q.ctx, base := field x 64 64, len := field x 128 64,
                               reached := [], ops := [] }] }

end Sys2Proof.Machine
end

