-- ==== Sys2Proof/Machine/Admin.lean ====
section
/-!
DEFINITION. The privileged commands (16_scheduling R259, R261 to R263): PART, CTX, QUEUE and CTXEND.
-/
namespace Sys2Proof.Machine

/-! ## PART (R261) -/

/-- A partition as the body of PART gives it. -/
def partitionOf (x : Nat) : Partition where
  num := field x 64 5
  clmask := BitVec.ofNat 32 (field x 96 32)
  rsvmask := BitVec.ofNat 32 (field x 128 32)
  drn := field x 160 5
  spn := field x 165 5
  lwn := field x 170 6
  strict := x.testBit 176
  spk := field x 177 5

/-- The fields of a partition lie in their ranges (R261). -/
def Partition.rangesOk (p : Partition) : Bool :=
  !(1 ≤ p.spk && p.spk ≤ 3) && p.spk != 31 && decide (20 ≤ p.lwn) && decide (p.lwn ≤ 40) && decide (10 ≤ p.spn) && decide (p.spn ≤ 24)
    && decide (14 ≤ p.drn) && decide (p.drn ≤ 26) && p.rsvmask &&& ~~~p.clmask == 0

/-- The partition has a resident or saved context: one that is saved, or has a team that is resident, saved or to be placed again. -/
def State.partBusy (s : State) (num : Nat) : Bool :=
  s.ctxs.any fun c => c.pnum == num && (c.saved || s.teams.any fun t =>
    s.ctxOfTeam t == c.num && (t.state == .resident || t.state == .saved || t.state == .waiting))

/-- The partition would lose a cluster to a PART. -/
def Partition.loses (p new : Partition) : Bool :=
  if p.num = new.num then p.clmask &&& ~~~new.clmask != 0 else p.clmask &&& new.clmask != 0

/-- PART (R261); a field out of range comes before a partition that is busy (log entry 85, DESIGN CHOICE). -/
def execPart (queue : Nat) (s : State) : Host.Outcome State Fault Refusal :=
  s.command queue (0x10, 0) [(64, 5), (96, 64), (160, 22)] fun s _ slot x =>
    let p := partitionOf x
    if !p.rangesOk then s.completeCommand queue slot 0x80
    else if s.parts.any fun q => q.loses p && s.partBusy q.num then s.completeCommand queue slot 0x83
    else
      let others := (s.parts.filter fun q => q.num != p.num).map fun (q : Partition) =>
        { q with clmask := q.clmask &&& ~~~p.clmask, rsvmask := q.rsvmask &&& ~~~p.clmask }
      { s with parts := others ++ [p] }.completeCommand queue slot 0

/-! ## CTX (R262) -/

/-- An extent is a fixed one that was defined for a context on the privileged queue. -/
def State.fixedFor (s : State) (ctx ext : Nat) : Bool :=
  match s.extent? ext with
  | some e => e.ctx == ctx && (e.kind == 1 || e.kind == 2) && e.priv
  | none => false

/-- A context as CTX creates it: the event ring is empty, %errst is clear (R262, R284). Its events and its launches count anew, from SEQ 0 and LAUNCHID 1 (log
entry 84, DESIGN CHOICE). -/
def contextOf (x : Nat) : Context where
  num := field x 64 12
  pnum := field x 76 5
  ptroot := field x 128 64
  evring := field x 192 64
  evn := field x 256 8
  savex := field x 272 13
  saven := field x 285 8
  evhead := 0
  evtail := 0
  seq := 0
  evwait := []
  errst := 0
  launches := 0
  armed := false
  allstop := false
  saved := false
  inArea := false
  saving := []
  drainSince := none
  resuming := []

/-- The number of cores of a partition. -/
def State.coresOf (s : State) (p : Partition) : Nat := (s.cores.filter fun c => p.clmask.getLsbD (s.clusterOf c.rank)).length

/-- CTX creates the context: the conditions of R262. -/
def State.contextOk (s : State) (c : Context) : Bool :=
  (s.ctx? c.num).isNone && decide (6 ≤ c.evn) && decide (c.evn ≤ 16) && c.evring % 4096 == 0
    && s.fixedFor c.num (extentOf c.ptroot) && ((List.range c.saven).all fun i => s.fixedFor c.num (c.savex + i))
    && match s.part? c.pnum with
      | some p => decide ((s.coresOf p + 31) / 32 ≤ c.saven)
      | none => false

/-- CTX (R262). -/
def execCtx (queue : Nat) (s : State) : Host.Outcome State Fault Refusal :=
  s.command queue (0x11, 0) [(64, 17), (128, 136), (272, 21)] fun s _ slot x =>
    let c := contextOf x
    if !s.contextOk c then s.completeCommand queue slot 0x80
    else { s with ctxs := s.ctxs ++ [c] }.completeCommand queue slot 0

/-! ## QUEUE (R263) -/

/-- The body fields of QUEUE. -/
def queueFields : List (Nat × Nat) := [(64, 10), (76, 14), (96, 5), (192, 64)]

/-- The queue of that number holds a command that has not completed. -/
def State.queueBusy (s : State) (n : Nat) : Bool := ((s.queue? n).map Queue.busy).getD false

/-- QUEUE binds a queue number to a context, a class and a ring (R263); an invalid field comes before a queue that is busy (log entry 85, DESIGN CHOICE). -/
def execQueueBind (queue : Nat) (s : State) : Host.Outcome State Fault Refusal :=
  s.command queue (0x12, 0) queueFields fun s _ slot x =>
    let num := field x 64 10
    let ctx := field x 76 12
    let n := field x 96 5
    let ring := field x 192 64
    if num = 0 || n < 4 || 16 < n || ring % (64 * 2 ^ n) != 0 || (s.ctx? ctx).isNone then s.completeCommand queue slot 0x80
    else if s.queueBusy num then s.completeCommand queue slot 0x83
    else (s.putQueue num (some (Queue.bound num ctx (x.testBit 88) ring n))).completeCommand queue slot 0

/-- QUEUE with UNBIND (R263). -/
def execQueueUnbind (queue : Nat) (s : State) : Host.Outcome State Fault Refusal :=
  s.command queue (0x12, 1) queueFields fun s _ slot x =>
    let num := field x 64 10
    if num = 0 then s.completeCommand queue slot 0x80
    else if s.queueBusy num then s.completeCommand queue slot 0x83
    else (s.putQueue num none).completeCommand queue slot 0

/-! ## CTXEND (R259, R291) -/

/-- Every command of a queue that has started, or waits in the ring, completes with 0x84. -/
def State.abortQueue (s : State) (q : Queue) : State :=
  let count := (q.tail + 2 ^ q.n - q.head) % 2 ^ q.n
  let waiting := (List.range count).map fun i => (q.head + i) % 2 ^ q.n
  let s : State := waiting.foldl (fun (s : State) _ =>
    match s.queue? q.num with
    | some q => s.takeCommand q (s.headSlot q)
    | none => s) s
  ((q.running.map (·.slot)) ++ waiting).foldl (fun (s : State) k => s.completeCommand q.num k 0x84) s

/-- What belongs to a context goes with it: operations and their slots, monitors, shootdowns, cached translations, launches, queues, and what it
has bound. -/
def State.dropContext (s : State) (ctx : Nat) : State :=
  let copies := (s.ops.filter fun o => o.ctx == ctx).map (·.id)
  let slots := s.holders.filterMap fun (w, h) => match h with
    | .copy o => if copies.contains o then some w else none
    | _ => none
  let s : State := (slots.foldl (fun (s : State) w => (s.discardSlot w).freeSlot w) s).opportunity ctx
  let s : State := (s.recvq.filter fun (q : RecvQueue) => q.reg.getLsbD 0 && rqCtx q.reg == ctx).foldl (fun s q => s.unbindReceive q.num) s
  let lids := (s.launches.filter fun l => l.ctx == ctx).map (·.lid)
  let tids := (s.teams.filter fun t => lids.contains t.launch).map (·.tid)
  { s with
    ops := s.ops.filter fun o => o.ctx != ctx
    calls := s.calls.filter fun c => !copies.contains c.2
    monitors := s.monitors.filter fun m => m.ctx != ctx
    shoots := s.shoots.filter fun h => h.ctx != ctx
    tlb := s.tlb.filter fun t => t.ctx != ctx
    launches := s.launches.filter fun l => l.ctx != ctx
    teams := s.teams.filter fun t => !tids.contains t.tid
    groups := s.groups.filter fun g => !tids.contains g.owner
    queues := s.queues.filter fun q => q.num == 0 || q.ctx != ctx
    ctxs := s.ctxs.filter fun c => c.num != ctx }

/-- A context ends: its commands complete with 0x84, its teams are killed without record or relaunch, and all that it has is freed (R259). -/
def State.endContext (s : State) (ctx : Nat) : State :=
  let s : State := (s.queues.filter fun q => q.num != 0 && q.ctx == ctx).foldl State.abortQueue s
  let s : State := (s.teams.filter fun t => s.ctxOfTeam t == ctx).foldl (fun (s : State) t => s.killTeam t.tid 0 false) s
  s.dropContext ctx

/-- CTXEND (R259, R263). -/
def execCtxend (queue : Nat) (s : State) : Host.Outcome State Fault Refusal :=
  s.command queue (0x13, 0) [(64, 12)] fun s _ slot x =>
    let ctx := field x 64 12
    if (s.ctx? ctx).isNone then s.completeCommand queue slot 0x80
    else (s.endContext ctx).completeCommand queue slot 0

end Sys2Proof.Machine
end

