-- ==== Sys2Proof/Machine/Ahead.lean ====
section
/-!
DEFINITION. How accesses go on between their events (04_encoding R80; 10_memory R182, R202; 14_ordering R234, R254): an access may be performed some time
before it completes, and one that is not single-copy atomic is performed piece by piece, other accesses falling between the pieces.
-/
namespace Sys2Proof.Machine

/-! ## The LS path -/

/-- One piece of an access to host memory, any of those that are left, is performed (R182, R254). -/
def State.hostPiece (s : State) (o : Op) (p : Part) (f : Phys) (left : List Nat) (got : BitVec 128) : State :=
  let k := left.getD (Config.freeNat s.serial (o.site p) 41 % left.length) 0
  let rest := left.filter (· != k)
  if o.kind.isStore then
    let s : State := s.hostPut f p.len p.data.toNat [k]
    if rest = [] then s.storeOver o p else s.modOp o.id fun o => o.modPart p.lane fun p => { p with st := .remote f rest got }
  else
    let got := s.hostRead f p.len [k] got
    if rest = [] then s.setDone o.id p.lane got else s.modOp o.id fun o => o.modPart p.lane fun p => { p with st := .remote f rest got }

/-- A load or a store goes on: a load of local memory is performed, of an access to host memory the next piece. -/
def State.aheadLs (s : State) (o : Op) (p : Part) : State :=
  match p.st with
  | .ready f =>
    if s.blocked o p then s
    else if f.tgt = 1 then s.hostPiece o p f ((pieces f.addr p.len).map (·.1)) 0
    else if f.tgt = 0 && !o.kind.isStore then
      let slot := ((s.team? (s.partTeam o p.lane)).map Team.slot).getD Config.writerSlots
      let core := ((s.group? o.gid).map (·.core)).getD 0
      if s.mustFill core slot f.nl1 (lineOf f.addr) (o.id * 64 + p.lane) then s.fill (lineOf f.addr) slot
      else
      match s.loadLocal core slot f.nl1 f.addr p.len (o.id * 64 + p.lane) with
      | (some x, s) => s.setDone o.id p.lane (BitVec.ofNat 128 x)
      | (none, _) => s
    else s
  | .remote f left got => if f.tgt = 1 && left != [] then s.hostPiece o p f left got else s
  | _ => s

/-- An atomic that the host adapter emulates begins: it has read its element (R202). -/
def State.aheadAtomic (s : State) (o : Op) (p : Part) : State :=
  match p.st, s.atomicDue o p with
  | .ready _, some (f, op, size) =>
    if f.tgt = 1 && !nativeAtomic op then
      let x := BitVec.ofNat 128 (s.hostMem.nat f.addr size)
      s.modOp o.id fun o' => (o.aggregate p).foldl (fun (o' : Op) (q : Part) => o'.modPart q.lane fun q => { q with st := .remote f [] x }) o'
    else s
  | _, _ => s

/-- A read of the scratchpad, or an ATOMS, is performed and completes later. -/
def State.aheadSpad (s : State) (o : Op) (p : Part) : State :=
  if p.isDone || s.blocked o p then s
  else
    match s.team? (s.partTeam o p.lane), o.kind with
    | some tm, .lds size _ _ => s.setDone o.id p.lane (BitVec.ofNat 128 (tm.read p.addr size))
    | some _, .atomS op _ =>
      match s.updateAtomS o p op with
      | some (olds, s) => s.setOlds o.id olds
      | none => s
    | _, _ => s

/-! ## Copies -/

/-- One unit of a copy's source in local or host memory is read, any of those that are left (R234, R254). -/
def State.readUnit (s : State) (o : Op) (p : Part) (f : Phys) (units : List (Nat × Nat)) (got : BitVec 128) : State :=
  let (k, n) := units.getD (Config.freeNat s.serial (o.site p) 42 % units.length) (0, 0)
  let slot := s.copySlot o p.lane
  if f.tgt = 0 && !s.lineReady (lineOf f.addr) slot then s.fill (lineOf f.addr) slot
  else if f.tgt = 0 && s.lost.contains (lineOf f.addr) && decide ((cellsIf (within (f.addr + k) n) (s.pendingOf slot)).length < n) then s
  else
    let x := if f.tgt = 0 then s.teamView slot (f.addr + k) n else s.hostMem.nat (f.addr + k) n
    let got := got ||| BitVec.ofNat 128 (x * 256 ^ k)
    let rest := (units.map (·.1)).filter (· != k)
    if rest = [] then s.setDone o.id p.lane got
    else s.modOp o.id fun o => o.modPart p.lane fun p => { p with st := .remote f rest got }

/-- One unit of what a copy has read lands, while more than one is left; a byte barrier counts it (R234, R254, R371). -/
def State.landUnit (s : State) (o : Op) (p : Part) (x : BitVec 128) : State :=
  let left := p.unlanded
  let tgt := (p.dst.map (·.tgt)).getD 0
  let addr := (p.dst.map (·.addr)).getD p.addr2
  let units := (landUnits o tgt addr p.len).filter fun u => left.contains u.1
  let (k, n) := units.getD (Config.freeNat s.serial (o.site p) 43 % units.length) (0, 0)
  let b := x.toNat / 256 ^ k % 256 ^ n
  if units.length < 2 || o.kind.isSend then s
  else
    let tid := if o.kind.perLane then s.partTeam o p.lane else o.team
    let s : State :=
      match p.dst with
      | some d =>
        if d.tgt = 0 then s.landBytes (s.copySlot o p.lane) (cellsOf (d.addr + k) n b)
        else { s with hostMem := s.hostMem.putNat (d.addr + k) n b }
      | none => s.modTeam tid fun t => t.write (p.addr2 + k) n b
    let s : State := s.setLanded o.id p.lane k n
    match o.kind.copyDone with
    | .barrier i => s.byteArrive tid i n
    | _ => s

/-- A copy goes on by a unit. -/
def State.aheadCopy (s : State) (o : Op) (p : Part) : State :=
  match p.st with
  | .ready f => if f.tgt < 2 && !p.isStamp then s.readUnit o p f (copyUnits o f.tgt f.addr p.len) 0 else s
  | .remote f left got =>
    if f.tgt < 2 && left != [] then s.readUnit o p f ((copyUnits o f.tgt f.addr p.len).filter fun u => left.contains u.1) got else s
  | .done x => if s.landDue o p then s.landUnit o p x else s
  | _ => s

/-! ## Near-memory calls (R380, R381) -/

/-- The sequencer of a stack begins a call, reads a byte of its extent, begins to write, or writes the next atom, any of those that are left (R380; log entry 7,
DESIGN CHOICE). -/
def State.aheadCall (s : State) (o : Op) : State :=
  match s.calls.find? fun c => c.2 == o.id with
  | none => s
  | some (stack, _) =>
    if s.callAt stack != some o || s.callRefused o != none then s
    else
      match s.callRun? o.id with
      | none =>
        { s with seqs := s.seqs ++ [{ stack := stack, op := o.id, got := [], left := none, was := [], ran := 0, quiet := 0 }] }
      | some r =>
        let put : CallRun → List CallRun := fun r => s.seqs.map fun x => if x.op = o.id then r else x
        match r.left with
        | none =>
          if Config.freeBit s.serial o.id 53 then
            let a := o.aux * 2 ^ 26 + Config.freeNat s.serial o.id 54 % 2 ^ 26
            { s with seqs := put { r with got := cellPut r.got a (BitVec.ofNat 8 (s.callView o a 1)) } }
          else { s with seqs := put { r with left := some (s.callWrites o) } }
        | some ws =>
          match ws[Config.freeNat s.serial o.id 55 % ws.length]? with
          | none => s
          | some w =>
            let slot := ((s.team? o.team).map Team.slot).getD Config.writerSlots
            { s.putAtom slot w.1 w.2 with
              seqs := put { r with
                left := some (ws.filter (· != w))
                was := (w.1, s.image.nat w.1 32) :: r.was } }

/-! ## TRANSLATION -/

/-- A translated part goes on, short of its completion. -/
def State.ahead (s : State) (o : Op) (p : Part) : State :=
  if !s.opLive o then s
  else
    match o.kind with
    | .load _ _ _ | .loadScalar _ | .store _ | .storeScalar => s.aheadLs o p
    | .atomic _ _ _ => s.aheadAtomic o p
    | .lds _ _ _ | .atomS _ _ => s.aheadSpad o p
    | .copy _ _ _ | .send _ _ _ _ _ | .copyCommand _ _ _ => s.aheadCopy o p
    | .nmc _ _ _ => s.aheadCall o
    | _ => s

/-- TRANSLATION of the part of a lane or piece of an operation (R173); of a part that needs none any more, the next piece of the access (R80,
R182, R234). -/
def execTranslation (id lane : Nat) (s : State) : Host.Outcome State Fault Refusal :=
  .next (match s.op? id with
    | none => s
    | some o =>
      match o.part? lane with
      | none => s
      | some p => if s.translationDue o p then s.translateOp o p else s.ahead o p)

end Sys2Proof.Machine
end

