-- ==== Sys2Proof/Machine/Compare.lean ====
section
/-!
DEFINITION. Compares and the combine types (04_encoding R74, R75; 08_alu R154, R155).
-/
namespace Sys2Proof.Machine

/-- R74: the writes of pd1 and pd2 for one lane; nothing where a predicate is unchanged. -/
def combine (k : Nat) (guard c : Bool) : Option Bool × Option Bool :=
  match k, guard, c with
  | 0, true, c => (some c, some !c)
  | 1, true, c => (some c, some !c)
  | 1, false, _ => (some false, some false)
  | 2, true, false => (some false, some false)
  | 3, true, true => (some true, some true)
  | 4, true, true => (some false, some false)
  | 5, true, false => (some true, some true)
  | 6, true, true => (some true, some false)
  | 7, true, false => (some false, some true)
  | _, _, _ => (none, none)

/-- The predicate writes of a compare over its split. -/
def Ctx.combineAll (c : Ctx) (o : ArgsCmp) (f : Nat → Bool) : List (Nat × Nat × Bool) :=
  c.split.flatMap fun l =>
    let g := c.issue.contains l
    let w := combine o.k g (g && f l)
    (w.1.toList.map fun x => (l, o.p, x)) ++ (w.2.toList.map fun x => (l, o.q, x))

/-- A compare word: a condition and flags for each lane in Issue. -/
def State.compare (s : State) (o : ArgsCmp) (u : Uses) (f : Ctx → Nat → Bool × Flags) : Host.Outcome State Fault Refusal :=
  s.word (some o.g) u fun c =>
    let rs := c.issue.map fun l => (l, f c l)
    c.commit { p := c.combineAll o fun l => ((assoc rs l).map (·.1)).getD false
               flags := rs.foldl (fun a r => a ||| r.2.2) 0 } 0 1

/-- ICMP conditions (R155). -/
def icmpCond (k : Nat) (a b : Word) : Bool :=
  match k with
  | 0 => a == b
  | 1 => decide (a.toInt < b.toInt)
  | 2 => decide (a.toInt ≤ b.toInt)
  | _ => a &&& b != 0

/-- UCMP conditions (R155). -/
def ucmpCond (k : Nat) (a b : Word) : Bool :=
  match k with
  | 0 => decide (a.toNat < b.toNat)
  | 1 => decide (a.toNat ≤ b.toNat)
  | 2 => decide (b.toNat < a.toNat)
  | _ => decide (b.toNat ≤ a.toNat)

/-- FCMP and DCMP conditions with the flag of a signalling operand (R155, R109). -/
def floatCond (t : Fmt) (k a b : Nat) : Bool × Flags :=
  let x := t.value a
  let y := t.value b
  let c := match k with
    | 0 => x.eqv y
    | 1 => x.lt y
    | 2 => x.lt y || x.eqv y
    | _ => x.isNan || y.isNan
  (c, x.snanFlag ||| y.snanFlag)

/-- SCMP conditions (R155). -/
def scmpCond (k : Nat) (a b : DWord) : Bool :=
  match k with
  | 0 => a == b
  | 1 => decide (a.toInt < b.toInt)
  | 2 => decide (a.toInt ≤ b.toInt)
  | _ => decide (a.toNat < b.toNat)

/-- ICMP (R154). -/
def execIcmp (o : ArgsCmp) (s : State) : Host.Outcome State Fault Refusal :=
  s.compare o { vr := [o.a, o.b] } fun c l => (icmpCond o.c (c.v l o.a) (c.v l o.b 1), 0)

/-- UCMP (R154). -/
def execUcmp (o : ArgsCmp) (s : State) : Host.Outcome State Fault Refusal :=
  s.compare o { vr := [o.a, o.b] } fun c l => (ucmpCond o.c (c.v l o.a) (c.v l o.b 1), 0)

/-- FCMP (R154). -/
def execFcmp (o : ArgsCmp) (s : State) : Host.Outcome State Fault Refusal :=
  s.compare o { vr := [o.a, o.b] } fun c l => floatCond F32 o.c (c.v l o.a).toNat (c.v l o.b 1).toNat

/-- DCMP on pairs (R154). -/
def execDcmp (o : ArgsCmp) (s : State) : Host.Outcome State Fault Refusal :=
  s.compare o { vr := pairOf o.a ++ pairOf o.b } fun c l => floatCond F64 o.c (c.v64 l o.a).toNat (c.v64 l o.b 1).toNat

/-- SCMP: one condition for the split (R154). -/
def execScmp (o : ArgsCmp) (s : State) : Host.Outcome State Fault Refusal :=
  s.compare o { sr := [o.a, o.b] } fun c _ => (scmpCond o.c (c.s1 o.a) (c.s1 o.b 1), 0)

end Sys2Proof.Machine
end

