-- ==== Sys2Proof/Machine/Convert.lean ====
section
/-!
DEFINITION. Conversions: CVT and the narrow conversions (08_alu R149 to R153).
-/
namespace Sys2Proof.Machine

/-- The floating format of a CVT type (R86). -/
def cvtFmt (ty : Nat) : Fmt := if ty = 4 then F16 else if ty = 5 then BF16 else if ty = 6 then F32 else F64
/-- A CVT integer type is signed. -/
def cvtSigned (ty : Nat) : Bool := ty == 0 || ty == 2
/-- Bits of a CVT integer type. -/
def cvtBits (ty : Nat) : Nat := if ty < 2 then 32 else 64

/-- The integer that a source of a CVT integer type denotes. -/
def cvtInteger (ty : Nat) (x : DWord) : Int :=
  let n := x.toNat % 2 ^ cvtBits ty
  if cvtSigned ty && decide (2 ^ (cvtBits ty - 1) ≤ n) then (n : Int) - (2 ^ cvtBits ty : Nat) else n

/-- The code of an integer in a CVT integer type. -/
def cvtCode (ty : Nat) (i : Int) : Nat := (i % ((2 ^ cvtBits ty : Nat) : Int)).toNat

/-- R150: the result of CVT and its flags. An F16 or BF16 source is bits [15:0] (R149). -/
def cvtResult (src dst rm : Nat) (sat : Bool) (x : DWord) : Nat × Flags :=
  if cvtInt src then
    let i := cvtInteger src x
    if cvtInt dst then
      (cvtCode dst (if sat then satInt (intLo (cvtSigned dst) (cvtBits dst)) (intHi (cvtSigned dst) (cvtBits dst)) i else i), 0)
    else if sat then (cvtFmt dst).roundSat (.ofInt i) rm
    else (cvtFmt dst).round (.ofInt i) rm
  else
    let v := (cvtFmt src).value (if src = 7 then x.toNat else if src = 6 then x.toNat % 2 ^ 32 else x.toNat % 2 ^ 16)
    if cvtInt dst then
      let (i, f) := roundInteger (intLo (cvtSigned dst) (cvtBits dst)) (intHi (cvtSigned dst) (cvtBits dst)) v rm
      (cvtCode dst i, f)
    else if sat then (cvtFmt dst).roundSat v rm
    else (cvtFmt dst).round v rm

/-- The source of CVT for a lane: a register or a pair. -/
def Ctx.cvtSource (c : Ctx) (l : Nat) (o : ArgsCvt) : DWord :=
  if cvtWide o.src then c.v64 l o.a else (c.v l o.a).setWidth 64

/-- CVT (R149, R150). -/
def execCvt (o : ArgsCvt) (s : State) : Host.Outcome State Fault Refusal :=
  if cvtWide o.dst then s.vectorF64 o.g (Uses.cvt o) 4 o.stall o.d fun c l => cvtResult o.src o.dst o.rm o.sat (c.cvtSource l o)
  else s.vectorF o.g (Uses.cvt o) 4 o.stall o.d fun c l => cvtResult o.src o.dst o.rm o.sat (c.cvtSource l o)

/-- A pack word: two F32 values narrowed to w bits each and shifted into vd from the top (R151). -/
def State.pack (s : State) (o : ArgsR3) (w : Nat) (f : Nat → Nat × Flags) : Host.Outcome State Fault Refusal :=
  s.vectorF o.g (Uses.vvvAcc o.d o.a o.b) 4 o.stall o.d fun c l =>
    let e0 := f (c.v l o.a).toNat
    let e1 := f (c.v l o.b 1).toNat
    (e1.1 % 2 ^ w * 2 ^ (32 - w) + e0.1 % 2 ^ w * 2 ^ (32 - 2 * w) + (c.v l o.d 2).toNat / 2 ^ (2 * w), e0.2 ||| e1.2)

/-- RoundSat to E2M1; any NaN gives 0 and raises NV (R151). -/
def packE2m1 (x : Nat) : Nat × Flags :=
  let v := F32.value x
  if v.isNan then (0, fNV) else E2M1.roundSat v 0

/-- PK8E4 (R151). -/
def execPk8e4 (o : ArgsR3) (s : State) : Host.Outcome State Fault Refusal := s.pack o 8 fun x => E4M3.roundSat (F32.value x) 0

/-- PK8E5 (R151). -/
def execPk8e5 (o : ArgsR3) (s : State) : Host.Outcome State Fault Refusal := s.pack o 8 fun x => E5M2.roundSat (F32.value x) 0

/-- PK4 (R151). -/
def execPk4 (o : ArgsR3) (s : State) : Host.Outcome State Fault Refusal := s.pack o 4 packE2m1

/-- An unpack word: elements j and j + 1, widened to F32; NV for a signalling element (R152). -/
def State.unpack (s : State) (o : ArgsR3) (f : DWord → Word → Nat → FVal) : Host.Outcome State Fault Refusal :=
  s.vectorF64 o.g { vr := [o.a], vw := pairOf o.d, sr := [o.b] } 4 o.stall o.d fun c l =>
    let x := c.v l o.a
    let k := c.sLane l o.b 1
    let e0 := F32.round (f k x 0) 0
    let e1 := F32.round (f k x 1) 0
    (e0.1 + e1.1 * 2 ^ 32, e0.2 ||| e1.2)

/-- Byte element j + e of va, for j = 2 × Sr(b)[16]. -/
def unpackByte (k : DWord) (x : Word) (e : Nat) : Nat := field x.toNat (8 * (2 * field k.toNat 16 1 + e)) 8
/-- Nibble element j + e of va, for j = 2 × Sr(b)[lo+1:lo]. -/
def unpackNibble (lo : Nat) (k : DWord) (x : Word) (e : Nat) : Nat := field x.toNat (4 * (2 * field k.toNat lo 2 + e)) 4

/-- UP8E4 (R152). -/
def execUp8e4 (o : ArgsR3) (s : State) : Host.Outcome State Fault Refusal :=
  s.unpack o fun k x e => E4M3.value (unpackByte k x e)

/-- UP8E5 (R152). -/
def execUp8e5 (o : ArgsR3) (s : State) : Host.Outcome State Fault Refusal :=
  s.unpack o fun k x e => E5M2.value (unpackByte k x e)

/-- UP4: the extra value X in Sr(b)[15:0] (R152, R100). -/
def execUp4 (o : ArgsR3) (s : State) : Host.Outcome State Fault Refusal :=
  s.unpack o fun k x e => decodeE2m1 (k.setWidth 16) (unpackNibble 16 k x e)

/-- QI8: a code of 8 bits shifted into vd from the top (R153, R102). -/
def execQi8 (o : ArgsR3) (s : State) : Host.Outcome State Fault Refusal :=
  s.vectorF o.g { vr := [o.a, o.d], vw := [o.d], sr := [o.b] } 4 o.stall o.d fun c l =>
    let k := c.sLane l o.b 1
    let q := quantize 8 (F32.value (c.v l o.a).toNat) (k.setWidth 16) (field k.toNat 16 8)
    (q.1 % 256 * 2 ^ 24 + (c.v l o.d 2).toNat / 256, q.2)

/-- DQ4: two Q4 elements dequantized; NV only (R153, R101). -/
def execDq4 (o : ArgsR3) (s : State) : Host.Outcome State Fault Refusal :=
  s.vectorF64 o.g { vr := [o.a], vw := pairOf o.d, sr := [o.b] } 4 o.stall o.d fun c l =>
    let k := c.sLane l o.b 1
    let one : Nat → Nat × Flags := fun e =>
      let (v, f) := deq (unpackNibble 20 k (c.v l o.a) e) (field k.toNat 16 4) (k.setWidth 16)
      ((F32.round v 0).1, f)
    ((one 0).1 + (one 1).1 * 2 ^ 32, (one 0).2 ||| (one 1).2)

end Sys2Proof.Machine
end

