-- ==== Sys2Proof/Machine/Debug.lean ====
section
/-!
DEFINITION. The DEBUG command (16_scheduling R280, R289, R290): breakpoints, halting and releasing, reading and writing halted groups, windows,
barriers, task records, slot tables and %errst.
-/
namespace Sys2Proof.Machine

/-- The body fields of a DEBUG operation (R290): bit 68 is ALLSTOP, for ARM alone. -/
def debugFields (op : Nat) : List (Nat × Nat) :=
  [(64, if op = 0 then 5 else 4), (72, 8), (80, 6), (88, 8), (96, 1), (128, 64), (192, 16), (224, 32)]

/-- A DEBUG operation starts: with BYTEAM = 0 the team selector must be 0 (R290). -/
def State.debugCommand (s : State) (queue op : Nat) (k : State → Queue → Nat → State × Nat) : Host.Outcome State Fault Refusal :=
  s.command queue (0x0B, op) (debugFields op) fun s q slot x =>
    if !x.testBit 96 && (field x 192 16 != 0 || field x 224 32 != 0) then s.completeCommand queue slot 0x80
    else
      let r := k s q x
      r.1.completeCommand queue slot r.2

/-- DEBUG ARM (R290). -/
def execDebugArm (queue : Nat) (s : State) : Host.Outcome State Fault Refusal :=
  s.debugCommand queue 0 fun s q x => (s.modCtx q.ctx fun c => { c with armed := true, allstop := x.testBit 68 }, 0)

/-- DEBUG DISARM: halted groups stay halted (R290). -/
def execDebugDisarm (queue : Nat) (s : State) : Host.Outcome State Fault Refusal :=
  s.debugCommand queue 1 fun s q _ => (s.modCtx q.ctx fun c => { c with armed := false, allstop := false }, 0)

/-- DEBUG HALT (R290). -/
def execDebugHaltCmd (queue : Nat) (s : State) : Host.Outcome State Fault Refusal :=
  s.debugCommand queue 2 fun s q _ => (s.haltAll q.ctx, 0)

/-! ## Objects (R290) -/

/-- The group at a slot of a core, for a context. -/
def State.groupAt (s : State) (ctx core slot : Nat) : Option Group :=
  s.groups.find? fun g => g.isResident && g.core == core && g.slot == slot && !g.ended && s.ctxOfGroup g == ctx

/-- An MMA word of a group is in flight: released and not yet retired (R289, R349). -/
def State.mmaInFlight (s : State) (gid : Nat) : Bool := s.ops.any fun o => o.gid == gid && o.isMma && o.parts.any Part.isDone

/-- The group that the body names, if it has halted, with its MMA words in flight retired (R289). -/
def State.haltedGroup (s : State) (ctx x : Nat) : Option Group :=
  (s.groupAt ctx (field x 72 8) (field x 80 6)).filter fun g => g.stopped && !s.mmaInFlight g.gid

/-- The team that the body names: the resident owner of the group at the slot, or the team of a launch by its number and index. -/
def State.debugTeam (s : State) (ctx x : Nat) : Option Team :=
  if x.testBit 96 then
    s.teams.find? fun t => t.index == field x 224 32 &&
      ((s.launchOf t).map fun l => l.ctx == ctx && l.num == field x 192 16).getD false
  else ((s.groupAt ctx (field x 72 8) (field x 80 6)).bind s.ownerOf).filter fun t => t.state == .resident

/-- The registers and vpc entries of a halted group: place in the buffer, bytes, value (log entry 29, DESIGN CHOICE). -/
def Group.debugItems (g : Group) : List (Nat × Nat × Nat) :=
  (List.range 64).map (fun n => (Config.debugOffset 1 0 n, 8, (g.getS n).toNat)) ++
    (List.range 32).flatMap fun l =>
      (List.range g.alloc).map (fun n => (Config.debugOffset 0 l n, 4, ((g.lane l).getV n).toNat)) ++
      (List.range 8).map (fun n => (Config.debugOffset 2 l n, 1, if (g.lane l).getP n then 1 else 0)) ++
      [(Config.debugOffset 3 l 0, 8, (g.lane l).vpc.toNat)]

/-- Bytes of a copy that have landed (R375). -/
def Op.progress (o : Op) : Nat := ((o.parts.filter fun p => !p.isStamp).map fun p => if p.isCompleted then p.len else p.len - p.unlanded.length).sum

/-- The progress of the outstanding copies of a group, for the buffer (R289, R375; log entry 29, DESIGN CHOICE). -/
def State.copyItems (s : State) (gid : Nat) : List (Nat × Nat × Nat) :=
  ((s.ops.filter fun o => o.gid == gid && o.kind.isCopy).zipIdx.map fun (o, i) => (Config.debugOffset 4 0 i, 8, o.progress))

/-- The bank commands in flight on a team's window that nothing blocks are applied, in the order of their numbers. -/
def State.bankPass (s : State) (tid : Nat) : State :=
  (sortBy (fun (o : Op) => o.id) s.ops).foldl (fun (s : State) o =>
    match o.kind with
    | .bank op fb =>
      (sortBy (fun (p : Part) => p.lane) o.parts).foldl (fun (s : State) p =>
        match s.op? o.id with
        | some o' => if s.partTeam o p.lane = tid then ((o'.part? p.lane).map fun p => s.performBank o' p op fb).getD s else s
        | none => s) s
    | _ => s) s

/-- The bank commands in flight on a team's window complete, before it is read: pass after pass, since a command may wait for a later one of another group
(R327, R337). -/
def State.settleBanks (s : State) (tid : Nat) : State := (s.ops.length + 1).repeat (fun s => s.bankPass tid) s

/-- What an item of the buffer writes into a group. -/
def Group.debugPut (m : Memory) (buf : Nat) (g : Group) : Group :=
  let g : Group := (List.range 64).foldl (fun (g : Group) n =>
    g.landS n (BitVec.ofNat 64 (m.nat (buf + Config.debugOffset 1 0 n) 8))) g
  { g with lanes := g.lanes.zipIdx.map fun ((x : Lane), l) =>
      let x : Lane := (List.range g.alloc).foldl (fun (x : Lane) n =>
        x.landV n (BitVec.ofNat 32 (m.nat (buf + Config.debugOffset 0 l n) 4))) x
      let x : Lane := (List.range 8).foldl (fun (x : Lane) n =>
        x.putP n (m.nat (buf + Config.debugOffset 2 l n) 1 % 2 == 1)) x
      { x with vpc := vpcOf (BitVec.ofNat 64 (m.nat (buf + Config.debugOffset 3 l 0) 8)) } }

/-- The word of a named barrier (R210). -/
def Barrier.word (b : Barrier) : Nat :=
  let mode := match b.mode with | .all => 0 | .fixed => 1 | .byte => 2
  (if b.broken then 2 ^ 63 else 0) + mode * 2 ^ 61 + b.exp % 2 ^ 10 * 2 ^ 48 + b.ph % 2 ^ 16 * 2 ^ 32 + b.cnt % 2 ^ 32

/-- The task record of a team (R280). -/
def State.taskRecord (s : State) (t : Team) : Nat :=
  let l := s.launchOf t
  let st := match t.state with | .waiting => 0 | .resident => 0 | .saved => 1 | .retired => 2 | .killed => 3
  t.index % 2 ^ 32 + t.crew % 2 ^ 32 * 2 ^ 32 + (l.map (·.num)).getD 0 * 2 ^ 64 + t.kslot * 2 ^ 80 + t.att * 2 ^ 82 + (if t.pub then 2 ^ 84 else 0)
    + (if (l.map (·.taskrec)).getD false then 2 ^ 85 else 0) + st * 2 ^ 86 + t.lcode * 2 ^ 88 + t.slotRec % 2 ^ 12 * 2 ^ 96 + t.core % 2 ^ 8 * 2 ^ 112
    + (l.map (·.kdesc.toNat)).getD 0 * 2 ^ 128 + (l.map (·.params.toNat)).getD 0 * 2 ^ 192

/-- The window of a team, then its full bits (R290). -/
def Team.windowBytes (t : Team) : List Byte :=
  t.spad.bytes 0 t.window ++ (List.range (t.window / 128)).map fun i =>
    BitVec.ofNat 8 ((List.range 8).map fun j => if t.full.contains (8 * i + j) then 2 ^ j else 0).sum

/-- A team has a window and barriers. -/
def Team.hasWindow (t : Team) : Bool := t.state == .resident || t.state == .saved

/-- The bytes of an object other than the registers of a group; none where it does not exist. -/
def State.debugObject (s : State) (ctx x : Nat) : Option (List Byte) :=
  let team := s.debugTeam ctx x
  match field x 88 8 with
  | 1 => (team.filter Team.hasWindow).map Team.windowBytes
  | 2 => (team.filter Team.hasWindow).map fun t => t.barriers.flatMap fun b => leBytes 8 b.word
  | 3 => team.map fun t => leBytes 64 (s.taskRecord t)
  | 4 => (s.core? (field x 72 8)).map fun c => c.table.map fun e => BitVec.ofNat 8 (e.getD 0xFF)
  | 5 => (s.ctx? ctx).map fun c => leBytes 8 c.errst.toNat
  | _ => none

/-- DEBUG READ (R290). -/
def execDebugRead (queue : Nat) (s : State) : Host.Outcome State Fault Refusal :=
  s.debugCommand queue 3 fun s q x =>
    let buf := field x 128 64
    if 5 < field x 88 8 then (s, 0x80)
    else if field x 88 8 = 0 then
      match s.haltedGroup q.ctx x with
      | none => (s, 0x83)
      | some g => ((g.debugItems ++ s.copyItems g.gid).foldl (fun (s : State) i => s.hostWrite (buf + i.1) i.2.1 i.2.2) s, 0)
    else
      let s : State := if field x 88 8 = 1 then ((s.debugTeam q.ctx x).map fun t => s.settleBanks t.tid).getD s else s
      match s.debugObject q.ctx x with
      | none => (s, 0x83)
      | some bs => ({ s with hostMem := s.hostMem.putBytes buf bs }, 0)

/-- DEBUG WRITE (R290). -/
def execDebugWrite (queue : Nat) (s : State) : Host.Outcome State Fault Refusal :=
  s.debugCommand queue 4 fun s q x =>
    match s.haltedGroup q.ctx x with
    | none => (s, 0x83)
    | some g => (s.putGroup (g.debugPut s.hostMem (field x 128 64)), 0)

/-- DEBUG CONT: every halted group goes on from its vpc entries (R290), with every result of the words before the halt written (R127). -/
def execDebugCont (queue : Nat) (s : State) : Host.Outcome State Fault Refusal :=
  s.debugCommand queue 5 fun s q _ =>
    ({ s with groups := s.groups.map fun (g : Group) =>
        if s.ctxOfGroup g = q.ctx && g.halted then { g.written with halted := false, active := false, pendingSince := s.tick } else g }, 0)

/-- DEBUG CLRERR (R283, R290). -/
def execDebugClrerr (queue : Nat) (s : State) : Host.Outcome State Fault Refusal :=
  s.debugCommand queue 6 fun s q _ => (s.modCtx q.ctx fun c => { c with errst := 0 }, 0)

end Sys2Proof.Machine
end

