-- ==== Sys2Proof/Machine/Errors.lean ====
section
/-!
DEFINITION. Uncorrectable errors, by where they lie (10_memory R185, R203; 12_control R227; 18_log R316, R317; 22_matrix R360).
-/
namespace Sys2Proof.Machine

/-- An uncorrectable register error while a group regroups: the relocation that is due takes place, then the lane's team ends with 0x10: its lanes are exited
in every new group, and the lanes of other teams have moved intact (R227). An error while participants are still awaited ends the team at once (log entry 83,
DESIGN CHOICE). -/
def State.badRegister (s : State) (gid lane : Nat) : State :=
  match s.group? gid with
  | none => s
  | some g =>
    if g.runs.any fun r => match r.wait with | .regrp _ _ _ _ => true | _ => false then
      let gs := s.collected gid
      (if relocationDue gs then s.relocate gs else s).killTeam (g.lane lane).team 0x10
    else s

/-- A bit of a data sector in the log flips: its copy fails the check of whatever reads it next (R316; which bit, log entry 7, DESIGN CHOICE). -/
def State.flipCopy (s : State) (seg i : Nat) : State :=
  let k := Config.freeNat s.serial i 50 % 1024
  { s with segments := s.segments.map fun (g : Segment) =>
      if g.num = seg then
        { g with recs := modAt g.recs i fun (r : SumRec) =>
            { r with data := modAt r.data (k / 8) fun b => b ^^^ BitVec.ofNat 8 (2 ^ (k % 8)) } }
      else g }

/-- The address register, the access and the guard of a word that walks the tables when it executes: WAITC and SNAP (R220, R312). -/
def walkedBy (ws : List Word) : Option (Nat × Nat × Option Nat) :=
  match decodeWith (fun i => match i with
      | .waitc o => some (o.base, 7, some o.g)
      | .snap o => some (o.base, 8, none)
      | _ => none) (fun _ => none) (fun _ => none) (fun _ => none) (fun _ => none) (fun _ => none) (fun _ => none) (fun _ => none) ws with
  | .ok (x, _) => x
  | .error _ => none

/-- The address that a run at WAITC or SNAP is about to translate, for the first time or again, with the access (R174, R220, R312). -/
def State.walkOf (s : State) (g : Group) (r : Run) : Option (Nat × Nat) :=
  let due := (walkedBy (r.words.drop r.pos)).filter fun w =>
    w.2.2.all fun p => (maskLanes r.lanes).any fun l => !(g.lane l).exited && (g.lane l).getP p
  match r.wait with
  | .none => due.map fun w => ((g.getS w.1).toNat, w.2.1)
  | .after since => if s.lsDone g.gid since then due.map fun w => ((g.getS w.1).toNat, w.2.1) else none
  | .look a _ _ _ => due.map fun w => (a, w.2.1)
  | _ => none

/-- The walk for a WAITC or SNAP that a group is about to execute, or for a code fetch where it is to issue a clause, meets a page-table entry that cannot be
read: the group ends with 0x08 (R203, R176, R220, R312). -/
def State.badWalk (s : State) (gid : Nat) : State :=
  match s.group? gid with
  | none => s
  | some g =>
    match g.runs.findSome? (s.walkOf g) with
    | some (a, acc) => if g.isResident then s.killGroup gid 0x08 { mask := some 1, vaddr := a, acc := acc } else s
    | none =>
      match if s.mayIssue g then s.issueLanes g else none with
      | some (a, _) => s.killGroup gid 0x08 { vaddr := a, acc := 3 }
      | none => s

/-- The front end's walk for the command at the head of a queue meets one: a LAUNCH cannot read its descriptor, a SIGNAL or a WAIT fails its translation (R203, R263,
R266). -/
def State.badFrontWalk (s : State) (queue : Nat) : State :=
  match s.nextCommand queue with
  | none => s
  | some (q, x) =>
    match field x 0 8 with
    | 0x01 => (s.takeCommand q x).completeCommand queue q.head 0x80
    | 0x03 | 0x04 => (s.takeCommand q x).completeCommand queue q.head 0x86
    | _ => s

/-- UNCORRECTABLE_ERROR, by where it lies (R203, R185, R227, R317, R360). -/
def execUncorrectableError (w : ErrWhere) (s : State) : Host.Outcome State Fault Refusal :=
  .next (match w with
    | .l1Line core line => { s with l1 := s.l1.filter fun l => !(l.core == core && l.line == line) }
    | .wcbEntry id =>
      match s.wcb.find? fun e => e.id == id with
      | some e => ((s.teamOfSlot e.slot).map fun t => s.killTeam t.tid 0x0F).getD s
      | none => s
    | .sector sector gid => s.badSector sector gid
    | .copy seg i => s.flipCopy seg i
    | .pageTable op lane =>
      match s.op? op with
      | some o =>
        match o.part? lane with
        | some p => if s.translationDue o p then s.failPart o p p.addr 0x08 else s
        | none => s
      | none => s
    | .walk gid => s.badWalk gid
    | .frontWalk queue => s.badFrontWalk queue
    | .scratchpad tid => ((s.team? tid).map fun t => if t.state == .resident then s.killTeam tid 0x0F else s).getD s
    | .regrpRegister gid lane => s.badRegister gid lane
    | .operandBuffer tid => ((s.team? tid).map fun t => if t.reservations != [] then s.killTeam tid 0x0F else s).getD s)

end Sys2Proof.Machine
end

