-- ==== Sys2Proof/Machine/Extents.lean ====
section
/-!
DEFINITION. The EXTENT command (18_log R294 to R298, R312, R313, R318, R320, R321): extents, their descriptors, replica peers and casts.
-/
namespace Sys2Proof.Machine

/-- The body fields of EXTENT (R296). -/
def extentFields : List (Nat × Nat) := [(64, 16), (80, 13), (96, 32), (136, 136), (272, 64)]
/-- EXTN, HANDLE, DESC and BUF of the 64 bytes of an EXTENT command (R296). -/
def cmdExt (x : Nat) : Nat := field x 80 13
/-- HANDLE. -/
def cmdHandle (x : Nat) : Nat := field x 96 32
/-- DESC. -/
def cmdDesc (x : Nat) : Nat := field x 136 136
/-- BUF. -/
def cmdBuf (x : Nat) : Nat := field x 272 64

/-- An EXTENT command of an operation starts (R296): a body that names a context on a work queue is malformed, an extent of another context is not
permitted. `k` gets the queue, slot, context and bytes. -/
def State.extentCommand (s : State) (queue xop : Nat) (k : State → Nat → Nat → Nat → Nat → State) : Host.Outcome State Fault Refusal :=
  s.command queue (0x05, xop) extentFields fun s q slot x =>
    let ctx := if queue = 0 then field x 68 12 else q.ctx
    if queue ≠ 0 && field x 68 12 != 0 then s.completeCommand queue slot 0x80
    else if ((s.extent? (cmdExt x)).map fun e => e.ctx != ctx).getD false then s.completeCommand queue slot 0x83
    else k s queue slot ctx x

/-- The same for the operations that need a defined extent: 0x80 where it is not. -/
def State.extentOp (s : State) (queue xop : Nat) (k : State → Nat → Nat → Extent → Nat → State) : Host.Outcome State Fault Refusal :=
  s.extentCommand queue xop fun s queue slot _ x =>
    match s.extent? (cmdExt x) with
    | none => s.completeCommand queue slot 0x80
    | some e => k s queue slot e x

/-! ## CREATE (R295, R297, R318) -/

/-- The extent that a descriptor describes (R295); `row0` is the physical row P that CREATE chooses, a multiple of 512 (R308). -/
def extentFrom (num ctx d row0 : Nat) : Extent where
  num := num
  ctx := ctx
  kind := field d 31 2
  home := field d 36 3
  seg := field d 33 3
  pc := field d 39 5
  cold := field d 44 8
  thr := field d 52 7
  nrep := field d 84 2
  pdev0 := field d 86 12
  pext0 := field d 98 13
  pdev1 := field d 111 12
  pext1 := field d 123 13
  casts := []
  gens := []
  row0 := row0
  priv := false

/-- The fields lie in the ranges of R295. -/
def Extent.rangesOk (e : Extent) : Bool :=
  decide (e.thr ≤ 100) && decide (1 ≤ e.cold) && decide (e.seg ≤ 6) && decide (e.nrep ≤ 2) && (e.nrep == 0 || e.kind == 0)
    && (e.pc == 0 || e.kind == 2)

/-- The enabled pseudo-channels of a stack. -/
def State.channelsOf (s : State) (stack : Nat) : List Nat := (s.conf.channels.filter fun c => c.1 == stack).map (·.2)

/-- The in-place storage that the fixed extents of a stack and the bank-local extents of one of its pseudo-channels take from that
pseudo-channel, in units of an extent over P (R294). -/
def State.inPlace (s : State) (stack pc : Nat) : Nat :=
  let mine := s.extents.filter fun e => e.home == stack
  (mine.filter fun e => e.kind == 1).length + (s.channelsOf stack).length * (mine.filter fun e => e.kind == 2 && e.pc == pc).length

/-- The home stack, and each pseudo-channel from which the extent takes in-place storage, has room (R294). -/
def State.hasRoom (s : State) (e : Extent) : Bool :=
  let p := (s.channelsOf e.home).length
  decide ((s.extents.filter fun x => x.home == e.home).length < 18 * p) &&
    match e.kind with
    | 1 => (s.channelsOf e.home).all fun pc => decide (s.inPlace e.home pc + 1 ≤ 18 * p)
    | 2 => decide (s.inPlace e.home e.pc + p ≤ 18 * p)
    | _ => true

/-- The replica peers that an extent names, in order. -/
def Extent.peerDevs (e : Extent) : List Nat := [e.pdev0, e.pdev1].take e.nrep
/-- The extents at them that take its replica. -/
def Extent.peerExts (e : Extent) : List Nat := [e.pext0, e.pext1].take e.nrep

/-- The replicated extents of a context all name the same peers in the same order (R318). -/
def State.replicaRule (s : State) (e : Extent) : Bool :=
  e.nrep == 0 || s.extents.all fun x => x.num == e.num || x.ctx != e.ctx || x.kind != 0 || x.nrep == 0 || x.peerDevs == e.peerDevs

/-- CREATE defines the extent: the checks of R297. -/
def State.createOk (s : State) (e : Extent) : Bool :=
  (s.extent? e.num).isNone && e.rangesOk && s.conf.record.getLsbD (64 + e.home)
    && (e.kind != 2 || (s.channelsOf e.home).contains e.pc) && s.hasRoom e && s.replicaRule e

/-- The peers of the contexts are those that some extent names; what was under way to a peer no longer named is over (R318, R320). -/
def State.prunePeers (s : State) : State :=
  let named : Nat → Nat → Bool := fun ctx which => s.extents.any fun e => e.kind == 0 && e.ctx == ctx && decide (which < e.nrep)
  { s with
    peers := s.peers.filter fun p => named p.ctx p.which
    ships := s.ships.filter fun h => named h.ctx h.which }

/-- A peer as it is when it has just been named: V reads 0 (R318). -/
def Peer.named (ctx which dev : Nat) (old : Option Peer) : Peer where
  ctx := ctx
  which := which
  dev := dev
  caught := false
  valid := []
  image := ((old.filter fun p => p.dev == dev).map (·.image)).getD []
  tags := ((old.filter fun p => p.dev == dev).map (·.tags)).getD []
  behind := ((old.filter fun p => p.dev == dev).map (·.behind)).getD []

/-- The extent names its peers, for its context (R318). -/
def State.namePeers (s : State) (e : Extent) : State :=
  e.peerDevs.zipIdx.foldl (fun (s : State) (dev, which) =>
    { s with peers := (s.peers.filter fun p => !(p.ctx == e.ctx && p.which == which)) ++ [Peer.named e.ctx which dev (s.peer? e.ctx which)] }) s

/-- EXTENT CREATE (R297): every sector of the extent reads as zero to every path, a fetch of code among them. -/
def execExtentCreate (queue : Nat) (s : State) : Host.Outcome State Fault Refusal :=
  s.extentCommand queue 0 fun s queue slot ctx x =>
    let d := cmdDesc x
    let e := extentFrom (cmdExt x) ctx d (512 * Config.freeNat s.serial (cmdExt x) 20)
    if field d 1 30 ≠ 0 || !s.createOk e then s.completeCommand queue slot 0x80
    else
      ({ s with
        extents := s.extents ++ [{ e with priv := queue == 0 }]
        texts := s.texts.filter fun x => extentOf x.addr != e.num }.namePeers e).completeCommand queue slot 0

/-! ## DESTROY (R298, R306, R385, R400) -/

/-- A translated address in an extent that is destroyed lies in no extent from then on: what lands there is discarded, what is read there is
zero (R298). -/
def Phys.orphan (ext : Nat) (f : Phys) : Phys :=
  if f.tgt = 0 && extentOf f.addr == ext then { f with addr := f.addr + 2 ^ 39 } else f

/-- The same for a part of an operation. -/
def Part.orphan (ext : Nat) (p : Part) : Part :=
  { p with
    dst := p.dst.map (Phys.orphan ext)
    st := match p.st with
      | .ready f => .ready (f.orphan ext)
      | .remote f left got => .remote (f.orphan ext) left got
      | x => x }

/-- What stood in the extent is gone, its peers and segments follow. -/
def State.undefine (s : State) (ext : Nat) : State :=
  let line : Nat → Bool := fun n => n / 2 ^ 19 == ext
  let out : Overlay → Overlay := fun b => cellsIf (fun a => extentOf a != ext) b
  let s : State := { s with
    extents := s.extents.filter fun e => e.num != ext
    image := out s.image
    texts := s.textsBefore (cellsIf (fun a => extentOf a == ext) s.image)
    pending := (s.pending.map fun (p : Pending) => { p with bytes := out p.bytes }).filter fun p => p.bytes != []
    wcb := s.wcb.filter fun e => !line e.line
    l1 := s.l1.filter fun l => !line l.line
    lost := s.lost.filter fun n => !line n
    dirty := s.dirty.filter fun d => !line d.line
    l2 := s.l2.filter fun x => !line x.line
    pins := s.pins.filter fun x => !line x.line
    ops := s.ops.map fun (o : Op) => { o with parts := o.parts.map (Part.orphan ext) }
    segments := s.segments.map fun (g : Segment) =>
      if g.ext = ext then { g with recs := g.recs.map fun (r : SumRec) => { r with live := false } } else g
    peers := s.peers.map fun (p : Peer) =>
      { p with
        image := out p.image
        tags := p.tags.filter fun x => !line x.1
        behind := p.behind.filter fun b => b.ext != ext }
    ships := (s.ships.map fun (h : Ship) => { h with bytes := out h.bytes, left := h.left.filter fun n => !line n }).filter fun h => h.bytes != [] }
  ((((s.dropArmature ext).sealSegments fun g => g.ext == ext).settleSegments).prunePeers)

/-- EXTENT DESTROY (R298): an outstanding near-memory call on the extent stops at an atom boundary (R385), and a receive queue bound to it is
unbound (R400). -/
def execExtentDestroy (queue : Nat) (s : State) : Host.Outcome State Fault Refusal :=
  s.extentOp queue 1 fun s queue slot e _ =>
    let s : State := (s.ops.filter fun o => o.call?.isSome && o.aux == e.num && s.calls.any fun c => c.2 == o.id).foldl (fun s o => s.cutCall o) s
    let s : State := (s.recvq.filter fun (q : RecvQueue) => q.reg.getLsbD 0 && rqExt q.reg == e.num).foldl (fun s q => s.unbindReceive q.num) s
    (s.undefine e.num).completeCommand queue slot 0

/-! ## SETREPL, QUERY, casts (R296, R312, R313, R320) -/

/-- The peers whose replica of the extent stands as it was: the same device and extent number. -/
def Extent.keeps (old new : Extent) (which : Nat) : Bool :=
  decide (which < old.nrep) && old.peerDevs[which]? == new.peerDevs[which]? && old.peerExts[which]? == new.peerExts[which]?

/-- The extent changes its peers: what was under way to one it no longer has ends, and one that it gains is to install its image (R320). -/
def State.setReplicas (s : State) (old new : Extent) : State :=
  let img := s.extentImage old.num
  let tags := s.tagsNow old.num
  let s : State := (List.range 2).foldl (fun s which => if old.keeps new which then s else
    (s.dropShips old.ctx which old.num fun _ => true).modPeer old.ctx which fun p =>
      { p with
        behind := p.behind.filter fun b => b.ext != old.num
        image := cellsIf (fun a => extentOf a != old.num) p.image
        tags := p.tags.filter fun x => x.1 / 2 ^ 19 != old.num }) s
  let s : State := (s.modExtent old.num fun _ => new).namePeers new
  let s : State := (List.range new.nrep).foldl (fun s which => if old.keeps new which then s else
    s.modPeer new.ctx which fun p =>
      { p with behind := p.behind ++ [{ ext := new.num, ship := s.fresh, image := img, tags := tags, first := true }] }) s
  { s with fresh := s.fresh + 1 }.prunePeers

/-- EXTENT SETREPL: NREP, PDEV0, PEXT0, PDEV1 and PEXT1 of a logged extent (R295, R296, R318). -/
def execExtentSetrepl (queue : Nat) (s : State) : Host.Outcome State Fault Refusal :=
  s.extentOp queue 2 fun s queue slot e x =>
    let d := extentFrom e.num e.ctx (cmdDesc x) 0
    let new : Extent := { e with nrep := d.nrep, pdev0 := d.pdev0, pext0 := d.pext0, pdev1 := d.pdev1, pext1 := d.pext1 }
    if e.kind ≠ 0 || 2 < new.nrep || !s.replicaRule new then s.completeCommand queue slot 0x80
    else (s.setReplicas e new).completeCommand queue slot 0

/-- The 256-bit descriptor of a defined extent (R295). -/
def Extent.descriptor (e : Extent) : Nat :=
  1 + e.kind * 2 ^ 31 + e.seg * 2 ^ 33 + e.home * 2 ^ 36 + e.pc * 2 ^ 39 + e.cold * 2 ^ 44 + e.thr * 2 ^ 52 + e.num * 2 ^ 59 + e.ctx * 2 ^ 72
    + e.nrep * 2 ^ 84 + e.pdev0 * 2 ^ 86 + e.pext0 * 2 ^ 98 + e.pdev1 * 2 ^ 111 + e.pext1 * 2 ^ 123
    + ((List.range 64).map fun i => if (e.cast? i).isSome then 2 ^ (192 + i) else 0).sum

/-- The 37 bytes that QUERY writes (R296): the descriptor, the free log slack in MiB, LOW. -/
def State.queryBytes (s : State) (ext : Nat) : Nat :=
  match s.extent? ext with
  | none => 0
  | some e => e.descriptor + Config.logSlack e.home s.tick % 2 ^ 32 * 2 ^ 256 + (if s.isLow e.home then 2 ^ 288 else 0)

/-- An operation that writes a result buffer: a misaligned one fails (R296, R263). -/
def bufferBad (x : Nat) : Bool := cmdBuf x % 64 != 0

/-- EXTENT QUERY (R296). -/
def execExtentQuery (queue : Nat) (s : State) : Host.Outcome State Fault Refusal :=
  s.extentCommand queue 3 fun s queue slot _ x =>
    if bufferBad x then s.completeCommand queue slot 0x86
    else (s.hostWrite (cmdBuf x) 37 (s.queryBytes (cmdExt x))).completeCommand queue slot 0

/-- EXTENT SNAP: handle and reason go to the buffer (R296, R312). -/
def execExtentSnap (queue : Nat) (s : State) : Host.Outcome State Fault Refusal :=
  s.extentOp queue 4 fun s queue slot e x =>
    if bufferBad x then s.completeCommand queue slot 0x86
    else
      let r := s.snapExtent e.num
      (r.1.hostWrite (cmdBuf x) 5 (r.2.1 + r.2.2 * 2 ^ 32)).completeCommand queue slot 0

/-- REVERT and SNDROP by command: the handle must name the extent; the handle decides the status in the buffer (R296, R313). -/
def State.castCommand (s : State) (queue xop : Nat) (k : State → Extent → Cast → State) : Host.Outcome State Fault Refusal :=
  s.extentOp queue xop fun s queue slot e x =>
    if field (cmdHandle x) 19 13 ≠ e.num then s.completeCommand queue slot 0x80
    else if bufferBad x then s.completeCommand queue slot 0x86
    else
      match s.validCast e.ctx (cmdHandle x) with
      | none => (s.hostWrite (cmdBuf x) 1 1).completeCommand queue slot 0
      | some (e, c) => ((k s e c).hostWrite (cmdBuf x) 1 0).completeCommand queue slot 0

/-- EXTENT REVERT (R296, R313). -/
def execExtentRevert (queue : Nat) (s : State) : Host.Outcome State Fault Refusal := s.castCommand queue 5 fun s e c => s.revertExtent e c

/-- EXTENT SNDROP (R296, R313). -/
def execExtentSndrop (queue : Nat) (s : State) : Host.Outcome State Fault Refusal := s.castCommand queue 6 fun s e c => s.dropCast e c

/-! ## PROMOTE, LOAD (R321, R296) -/

/-- EXTENT PROMOTE: a replica extent becomes a logged one with no peers of its own; its image stays (R321). -/
def execExtentPromote (queue : Nat) (s : State) : Host.Outcome State Fault Refusal :=
  s.extentOp queue 7 fun s queue slot e _ =>
    if e.kind ≠ 3 then s.completeCommand queue slot 0x80
    else (s.modExtent e.num fun e => { e with kind := 0, nrep := 0 }).completeCommand queue slot 0

/-- EXTENT LOAD: bytes of host memory are written in place in a fixed extent, and published (R296). -/
def execExtentLoad (queue : Nat) (s : State) : Host.Outcome State Fault Refusal :=
  s.extentOp queue 8 fun s queue slot e x =>
    let len := field (cmdDesc x) 0 32
    let off := cmdHandle x
    if (e.kind ≠ 1 && e.kind != 2) || len % 8 != 0 || off % 8 != 0 || decide (2 ^ 26 < off + len) then s.completeCommand queue slot 0x80
    else if cmdBuf x % 8 ≠ 0 then s.completeCommand queue slot 0x86
    else
      let cells : Overlay := (s.hostMem.bytes (cmdBuf x) len).zipIdx.map fun (b, i) => (e.num * 2 ^ 26 + off + i, b)
      (s.commitImage cells Config.writerSlots 0 0 false).completeCommand queue slot 0

end Sys2Proof.Machine
end

