-- ==== Sys2Proof/Machine/FloatWords.lean ====
section
/-!
DEFINITION. Single precision, special functions, double precision, packed half (08_alu R142 to R148).
-/
namespace Sys2Proof.Machine

/-- A three-operand F32 word of latency 4. -/
def State.single (s : State) (g d a b stall : Nat) (f : Nat → Nat → Nat × Flags) : Host.Outcome State Fault Refusal :=
  s.vectorF g (Uses.vvv d a b) 4 stall d fun c l => f (c.v l a).toNat (c.v l b 1).toNat

/-- FADD (R143). -/
def execFadd (o : ArgsRM) (s : State) : Host.Outcome State Fault Refusal := s.single o.g o.d o.a o.b o.stall fun a b => F32.add a b o.rm

/-- FSUB (R143). -/
def execFsub (o : ArgsRM) (s : State) : Host.Outcome State Fault Refusal := s.single o.g o.d o.a o.b o.stall fun a b => F32.sub a b o.rm

/-- FMUL (R143). -/
def execFmul (o : ArgsRMS) (s : State) : Host.Outcome State Fault Refusal :=
  s.vectorF o.g (usesOf (.fmul o)) 4 o.stall o.d fun c l => F32.mul (c.v l o.a).toNat (c.b32 l o.b o.s).toNat o.rm

/-- FFMA: A × B + vd with one rounding (R144). -/
def execFfma (o : ArgsRM) (s : State) : Host.Outcome State Fault Refusal :=
  s.vectorF o.g (Uses.vvvAcc o.d o.a o.b) 4 o.stall o.d fun c l =>
    F32.fma (c.v l o.a).toNat (c.v l o.b 1).toNat (c.v l o.d 2).toNat false o.rm

/-- FFMS: A × B − vd with one rounding (R144). -/
def execFfms (o : ArgsRM) (s : State) : Host.Outcome State Fault Refusal :=
  s.vectorF o.g (Uses.vvvAcc o.d o.a o.b) 4 o.stall o.d fun c l =>
    F32.fma (c.v l o.a).toNat (c.v l o.b 1).toNat (c.v l o.d 2).toNat true o.rm

/-- A minimum or maximum word (R145). -/
def State.selectWord (s : State) (o : ArgsRS) (max number : Bool) : Host.Outcome State Fault Refusal :=
  s.vectorF o.g (Uses.rs o) 4 o.stall o.d fun c l => F32.select max number (c.v l o.a).toNat (c.b32 l o.b o.s).toNat

/-- FMIN (R145). -/
def execFmin (o : ArgsRS) (s : State) : Host.Outcome State Fault Refusal := s.selectWord o false false

/-- FMAX (R145). -/
def execFmax (o : ArgsRS) (s : State) : Host.Outcome State Fault Refusal := s.selectWord o true false

/-- FMINP (R145). -/
def execFminp (o : ArgsRS) (s : State) : Host.Outcome State Fault Refusal := s.selectWord o false true

/-- FMAXP (R145). -/
def execFmaxp (o : ArgsRS) (s : State) : Host.Outcome State Fault Refusal := s.selectWord o true true

/-- A special-function word: interlocked, correctly rounded (R146, R116, R117). -/
def State.special (s : State) (o : ArgsR2) (f : Nat → Nat × Flags) : Host.Outcome State Fault Refusal :=
  s.vectorF o.g (Uses.r2 o) 0 o.stall o.d fun c l => f (c.v l o.a).toNat

/-- FRCP (R146). -/
def execFrcp (o : ArgsR2) (s : State) : Host.Outcome State Fault Refusal := s.special o F32.recip

/-- FRSQ (R146). -/
def execFrsq (o : ArgsR2) (s : State) : Host.Outcome State Fault Refusal := s.special o F32.rsqrt

/-- FSQRT (R146). -/
def execFsqrt (o : ArgsR2) (s : State) : Host.Outcome State Fault Refusal := s.special o F32.sqrt

/-- FEX2 (R146). -/
def execFex2 (o : ArgsR2) (s : State) : Host.Outcome State Fault Refusal := s.special o F32.exp2

/-- FLG2 (R146). -/
def execFlg2 (o : ArgsR2) (s : State) : Host.Outcome State Fault Refusal := s.special o F32.log2

/-- FSNT (R146). -/
def execFsnt (o : ArgsR2) (s : State) : Host.Outcome State Fault Refusal := s.special o (F32.circ false)

/-- FCST (R146). -/
def execFcst (o : ArgsR2) (s : State) : Host.Outcome State Fault Refusal := s.special o (F32.circ true)

/-- A double-precision word on pairs (R147). -/
def State.double (s : State) (o : ArgsR3) (lat : Nat) (f : Nat → Nat → Nat × Flags) : Host.Outcome State Fault Refusal :=
  s.vectorF64 o.g (Uses.ddd o.d o.a o.b) lat o.stall o.d fun c l => f (c.v64 l o.a).toNat (c.v64 l o.b 1).toNat

/-- DADD (R147). -/
def execDadd (o : ArgsR3) (s : State) : Host.Outcome State Fault Refusal := s.double o 6 (fun a b => F64.add a b 0)

/-- DSUB (R147). -/
def execDsub (o : ArgsR3) (s : State) : Host.Outcome State Fault Refusal := s.double o 6 (fun a b => F64.sub a b 0)

/-- DMUL (R147). -/
def execDmul (o : ArgsR3) (s : State) : Host.Outcome State Fault Refusal := s.double o 6 (fun a b => F64.mul a b 0)

/-- DMIN (R147). -/
def execDmin (o : ArgsR3) (s : State) : Host.Outcome State Fault Refusal := s.double o 6 (F64.select false false)

/-- DMAX (R147). -/
def execDmax (o : ArgsR3) (s : State) : Host.Outcome State Fault Refusal := s.double o 6 (F64.select true false)

/-- DFMA: a × b + d with one rounding (R147). -/
def execDfma (o : ArgsR3) (s : State) : Host.Outcome State Fault Refusal :=
  s.vectorF64 o.g (Uses.dddAcc o.d o.a o.b) 6 o.stall o.d fun c l =>
    F64.fma (c.v64 l o.a).toNat (c.v64 l o.b 1).toNat (c.v64 l o.d 2).toNat false 0

/-- DDIV: interlocked (R147, R116, R117). -/
def execDdiv (o : ArgsR3) (s : State) : Host.Outcome State Fault Refusal := s.double o 0 F64.div

/-- DSQRT: interlocked (R147, R116, R117). -/
def execDsqrt (o : ArgsR2) (s : State) : Host.Outcome State Fault Refusal :=
  s.vectorF64 o.g (usesOf (.dsqrt o)) 0 o.stall o.d fun c l => F64.sqrt (c.v64 l o.a).toNat

/-- Element e of a packed register (R94). -/
def halfOf (x : Word) (e : Nat) : Nat := x.toNat / 2 ^ (16 * e) % 2 ^ 16

/-- Both elements of a packed result with the union of their flags (R148). -/
def packHalves (r0 r1 : Nat × Flags) : Nat × Flags := (r0.1 + r1.1 * 2 ^ 16, r0.2 ||| r1.2)

/-- The format that a packed word selects (R148). -/
def halfFmt (bf : Bool) : Fmt := if bf then BF16 else F16

/-- A packed word of two sources (R148). -/
def State.packed (s : State) (o : ArgsH) (f : Fmt → Nat → Nat → Nat × Flags) : Host.Outcome State Fault Refusal :=
  s.vectorF o.g (Uses.vvv o.d o.a o.b) 4 o.stall o.d fun c l =>
    let a := c.v l o.a
    let b := c.v l o.b 1
    packHalves (f (halfFmt o.bf) (halfOf a 0) (halfOf b 0)) (f (halfFmt o.bf) (halfOf a 1) (halfOf b 1))

/-- HADD2 (R148). -/
def execHadd2 (o : ArgsH) (s : State) : Host.Outcome State Fault Refusal := s.packed o fun f a b => f.add a b 0

/-- HMUL2 (R148). -/
def execHmul2 (o : ArgsH) (s : State) : Host.Outcome State Fault Refusal := s.packed o fun f a b => f.mul a b 0

/-- HMAX2: the FMAX rule (R148). -/
def execHmax2 (o : ArgsH) (s : State) : Host.Outcome State Fault Refusal := s.packed o fun f a b => f.select true false a b

/-- HFMA2: one rounding (R148). -/
def execHfma2 (o : ArgsH) (s : State) : Host.Outcome State Fault Refusal :=
  s.vectorF o.g (Uses.vvvAcc o.d o.a o.b) 4 o.stall o.d fun c l =>
    let a := c.v l o.a
    let b := c.v l o.b 1
    let d := c.v l o.d 2
    packHalves ((halfFmt o.bf).fma (halfOf a 0) (halfOf b 0) (halfOf d 0) false 0)
      ((halfFmt o.bf).fma (halfOf a 1) (halfOf b 1) (halfOf d 1) false 0)

end Sys2Proof.Machine
end

