-- ==== Sys2Proof/Machine/Integer.lean ====
section
/-!
DEFINITION. Vector integer words and MIX (08_alu R128 to R139).
-/
namespace Sys2Proof.Machine

/-- S32(x) (R125). -/
def s32 (x : Word) : Int := x.toInt
/-- S64(x). -/
def s64 (x : DWord) : Int := x.toInt

/-- A vector integer word of R128: A and B of each lane of Issue, latency 2. -/
def State.integer (s : State) (o : ArgsRS) (f : Word → Word → Word) : Host.Outcome State Fault Refusal :=
  s.vector o.g (Uses.rs o) 2 o.stall o.d fun c l => f (c.v l o.a) (c.b32 l o.b o.s)

/-- One that takes vd as a source too. -/
def State.integerAcc (s : State) (o : ArgsRS) (f : Word → Word → Word → Word) : Host.Outcome State Fault Refusal :=
  s.vector o.g (Uses.rsAcc o) 2 o.stall o.d fun c l => f (c.v l o.a) (c.b32 l o.b o.s) (c.v l o.d 2)

/-- Sat(S32, x) as a word (R95). -/
def satS32 (x : Int) : Word := BitVec.ofInt 32 (satInt (intLo true 32) (intHi true 32) x)
/-- Sat(N32, x) as a word. -/
def satN32 (x : Int) : Word := BitVec.ofInt 32 (satInt 0 (intHi false 32) x)

/-- IADD: Wrap(N32, A + B) (R128). -/
def execIadd (o : ArgsRS) (s : State) : Host.Outcome State Fault Refusal := s.integer o fun a b => a + b

/-- IADDS: Sat(S32, S32(A) + S32(B)) (R128). -/
def execIadds (o : ArgsRS) (s : State) : Host.Outcome State Fault Refusal := s.integer o fun a b => satS32 (s32 a + s32 b)

/-- IADDUS: Sat(N32, N32(A) + N32(B)) (R128). -/
def execIaddus (o : ArgsRS) (s : State) : Host.Outcome State Fault Refusal := s.integer o fun a b => satN32 ((a.toNat : Int) + b.toNat)

/-- ISUB: Wrap(N32, A − B) (R128). -/
def execIsub (o : ArgsRS) (s : State) : Host.Outcome State Fault Refusal := s.integer o fun a b => a - b

/-- ISUBS: Sat(S32, S32(A) − S32(B)) (R128). -/
def execIsubs (o : ArgsRS) (s : State) : Host.Outcome State Fault Refusal := s.integer o fun a b => satS32 (s32 a - s32 b)

/-- ISUBUS: Sat(N32, N32(A) − N32(B)) (R128). -/
def execIsubus (o : ArgsRS) (s : State) : Host.Outcome State Fault Refusal := s.integer o fun a b => satN32 ((a.toNat : Int) - b.toNat)

/-- IRSUB: Wrap(N32, B − A) (R128). -/
def execIrsub (o : ArgsRS) (s : State) : Host.Outcome State Fault Refusal := s.integer o fun a b => b - a

/-- IMUL: Wrap(N32, A × B) (R128). -/
def execImul (o : ArgsRS) (s : State) : Host.Outcome State Fault Refusal := s.integer o fun a b => a * b

/-- IMULHI: bits [63:32] of the exact S64 product (R128). -/
def execImulhi (o : ArgsRS) (s : State) : Host.Outcome State Fault Refusal := s.integer o fun a b => BitVec.ofInt 32 (s32 a * s32 b / 2 ^ 32)

/-- IMULHU: bits [63:32] of the exact N64 product (R128). -/
def execImulhu (o : ArgsRS) (s : State) : Host.Outcome State Fault Refusal := s.integer o fun a b => BitVec.ofNat 32 (a.toNat * b.toNat / 2 ^ 32)

/-- IMAD: Wrap(N32, A × B + vd) (R128). -/
def execImad (o : ArgsRS) (s : State) : Host.Outcome State Fault Refusal := s.integerAcc o fun a b d => a * b + d

/-- AND: A AND B (R128). -/
def execAnd (o : ArgsRS) (s : State) : Host.Outcome State Fault Refusal := s.integer o fun a b => a &&& b

/-- OR: A OR B (R128). -/
def execOr (o : ArgsRS) (s : State) : Host.Outcome State Fault Refusal := s.integer o fun a b => a ||| b

/-- XOR: A XOR B (R128). -/
def execXor (o : ArgsRS) (s : State) : Host.Outcome State Fault Refusal := s.integer o fun a b => a ^^^ b

/-- ANDN: A AND NOT B (R128). -/
def execAndn (o : ArgsRS) (s : State) : Host.Outcome State Fault Refusal := s.integer o fun a b => a &&& ~~~b

/-- IMIN: the lesser as S32 (R128). -/
def execImin (o : ArgsRS) (s : State) : Host.Outcome State Fault Refusal := s.integer o fun a b => if s32 a ≤ s32 b then a else b

/-- IMAX: the greater as S32 (R128). -/
def execImax (o : ArgsRS) (s : State) : Host.Outcome State Fault Refusal := s.integer o fun a b => if s32 a ≤ s32 b then b else a

/-- IMINU: the lesser as N32 (R128). -/
def execIminu (o : ArgsRS) (s : State) : Host.Outcome State Fault Refusal := s.integer o fun a b => if a.toNat ≤ b.toNat then a else b

/-- IMAXU: the greater as N32 (R128). -/
def execImaxu (o : ArgsRS) (s : State) : Host.Outcome State Fault Refusal := s.integer o fun a b => if a.toNat ≤ b.toNat then b else a

/-- SHL: A << c, 0 from 32 on; all 32 bits of the count take part (R129). -/
def execShl (o : ArgsRS) (s : State) : Host.Outcome State Fault Refusal := s.integer o fun a b => a <<< b.toNat

/-- SHR: A >> c with zeros, 0 from 32 on; all 32 bits of the count take part (R129). -/
def execShr (o : ArgsRS) (s : State) : Host.Outcome State Fault Refusal := s.integer o fun a b => a >>> b.toNat

/-- SAR: A >> c with copies of the sign, from 32 on all of it; all 32 bits of the count take part (R129). -/
def execSar (o : ArgsRS) (s : State) : Host.Outcome State Fault Refusal := s.integer o fun a b => a.sshiftRight b.toNat

/-- ROL: A rotated left by c mod 32; all 32 bits of the count take part (R129). -/
def execRol (o : ArgsRS) (s : State) : Host.Outcome State Fault Refusal := s.integer o fun a b => a.rotateLeft (b.toNat % 32)

/-- A bit-count word (R130). -/
def State.bitCount (s : State) (o : ArgsR2) (f : Word → Word) : Host.Outcome State Fault Refusal :=
  s.vector o.g (Uses.r2 o) 2 o.stall o.d fun c l => f (c.v l o.a)

/-- The number of 1 bits. -/
def popCount (a : Word) : Nat := ((List.range 32).filter fun i => a.getLsbD i).length
/-- The number of 0 bits above the highest 1 bit, 32 for zero. -/
def leadingZeros (a : Word) : Nat := 32 - bitLength a.toNat
/-- Bit i at place 31 − i. -/
def reverseBits (a : Word) : Word := (List.range 32).foldl (fun r i => if a.getLsbD i then r ||| (1#32 <<< (31 - i)) else r) 0
/-- The index of the lowest 1 bit, 32 for zero. -/
def lowestOne (a : Word) : Nat := ((List.range 32).find? fun i => a.getLsbD i).getD 32

/-- POPC (R130). -/
def execPopc (o : ArgsR2) (s : State) : Host.Outcome State Fault Refusal := s.bitCount o fun a => BitVec.ofNat 32 (popCount a)

/-- CLZ (R130). -/
def execClz (o : ArgsR2) (s : State) : Host.Outcome State Fault Refusal := s.bitCount o fun a => BitVec.ofNat 32 (leadingZeros a)

/-- BREV (R130). -/
def execBrev (o : ArgsR2) (s : State) : Host.Outcome State Fault Refusal := s.bitCount o reverseBits

/-- FFS (R130). -/
def execFfs (o : ArgsR2) (s : State) : Host.Outcome State Fault Refusal := s.bitCount o fun a => BitVec.ofNat 32 (lowestOne a)

/-- The position and length that B names (R131, R132): a length above 32 is 32. -/
def fieldOf (b : Word) : Nat × Nat := (b.toNat % 256, min (b.toNat / 256 % 256) 32)

/-- The bit field of BFE and BFES (R131). -/
def extractField (signed : Bool) (a b : Word) : Word :=
  let (p, n) := fieldOf b
  let f := a.toNat / 2 ^ p % 2 ^ n
  if n = 0 then 0 else if signed then sextWord n f else BitVec.ofNat 32 f

/-- BFE (R131). -/
def execBfe (o : ArgsRS) (s : State) : Host.Outcome State Fault Refusal := s.integer o (extractField false)

/-- BFES (R131). -/
def execBfes (o : ArgsRS) (s : State) : Host.Outcome State Fault Refusal := s.integer o (extractField true)

/-- BFI (R132). -/
def execBfi (o : ArgsRS) (s : State) : Host.Outcome State Fault Refusal :=
  s.integerAcc o fun a b d =>
    let (p, n) := fieldOf b
    let mask := BitVec.ofNat 32 ((2 ^ n - 1) * 2 ^ p)
    (d &&& ~~~mask) ||| ((a <<< p) &&& mask)

/-- LEA: Wrap(N32, (A << k) + B) (R133). -/
def execLea (o : ArgsLea) (s : State) : Host.Outcome State Fault Refusal :=
  s.vector o.g (usesOf (.lea o)) 2 o.stall o.d fun c l => (c.v l o.a <<< o.k) + c.b32 l o.b o.s

/-- SEL: va or vb by a predicate (R134). -/
def execSel (o : ArgsSel) (s : State) : Host.Outcome State Fault Refusal :=
  s.vector o.g (usesOf (.sel o)) 2 o.stall o.d fun c l => if (c.g.lane l).getP o.p then c.v l o.a else c.v l o.b 1

/-- IADDI: Wrap(N32, A + SignExtend(imm9)) (R135). -/
def execIaddi (o : ArgsImm) (s : State) : Host.Outcome State Fault Refusal :=
  s.vector o.g (usesOf (.iaddi o)) 2 o.stall o.d fun c l => c.v l o.a + o.imm.signExtend 32

/-- ADD64 on pairs, wrapped (R136). -/
def execAdd64 (o : ArgsRS) (s : State) : Host.Outcome State Fault Refusal :=
  s.vector64 o.g (Uses.rs64 o) 2 o.stall o.d fun c l => let a := c.v64 l o.a; let b := c.b64 l o.b o.s; a + b

/-- SUB64 on pairs, wrapped (R136). -/
def execSub64 (o : ArgsRS) (s : State) : Host.Outcome State Fault Refusal :=
  s.vector64 o.g (Uses.rs64 o) 2 o.stall o.d fun c l => let a := c.v64 l o.a; let b := c.b64 l o.b o.s; a - b

/-- MUL64 on pairs, wrapped (R136). -/
def execMul64 (o : ArgsRS) (s : State) : Host.Outcome State Fault Refusal :=
  s.vector64 o.g (Uses.rs64 o) 2 o.stall o.d fun c l => let a := c.v64 l o.a; let b := c.b64 l o.b o.s; a * b

/-- MULW: the exact S64 product (R136). -/
def execMulw (o : ArgsRS) (s : State) : Host.Outcome State Fault Refusal :=
  s.vector64 o.g (Uses.rsWide o) 2 o.stall o.d fun c l => BitVec.ofInt 64 (s32 (c.v l o.a) * s32 (c.b32 l o.b o.s))

/-- Byte i of a word, signed or not. -/
def byteInt (signed : Bool) (x : Word) (i : Nat) : Int :=
  let b := x.toNat / 256 ^ i % 256
  if signed && decide (128 ≤ b) then (b : Int) - 256 else b

/-- The four-way dot product (R137). -/
def dot4 (sa sb : Bool) (a b : Word) : Int := ((List.range 4).map fun i => byteInt sa a i * byteInt sb b i).sum

/-- IDP4.SS (R137). -/
def execIdp4Ss (o : ArgsRS) (s : State) : Host.Outcome State Fault Refusal := s.integerAcc o fun a b d => d + BitVec.ofInt 32 (dot4 true true a b)

/-- IDP4.NN (R137). -/
def execIdp4Nn (o : ArgsRS) (s : State) : Host.Outcome State Fault Refusal := s.integerAcc o fun a b d => d + BitVec.ofInt 32 (dot4 false false a b)

/-- IDP4.SN (R137). -/
def execIdp4Sn (o : ArgsRS) (s : State) : Host.Outcome State Fault Refusal := s.integerAcc o fun a b d => d + BitVec.ofInt 32 (dot4 true false a b)

/-- One round of MIX (R139): the halves hi, lo of h bits. -/
def mixRound (h : Nat) (key : DWord) (hl : Nat × Nat) (i : Nat) : Nat × Nat :=
  let k := key.toNat / 2 ^ (16 * i) % 2 ^ h
  let n := Nat.xor hl.2 k + i * 2 ^ h
  let z := n * 0x9E3779B1 % 2 ^ 32
  (hl.2, Nat.xor hl.1 (z / 2 ^ (32 - h)))

/-- The keyed bijection on w bits (R138, R139). -/
def mixValue (w : Nat) (key : DWord) (a : Word) : Word :=
  let h := w / 2
  let x := a.toNat % 2 ^ w
  let (hi, lo) := [0, 1, 2, 3].foldl (mixRound h key) (x / 2 ^ h, x % 2 ^ h)
  BitVec.ofNat 32 (hi * 2 ^ h + lo)

/-- MIX (R138, R139): interlocked, w = 8 + 4 × the width code. -/
def execMix (o : ArgsMix) (s : State) : Host.Outcome State Fault Refusal :=
  s.vector o.g (usesOf (.mix o)) 0 o.stall o.d fun c l => mixValue (8 + 4 * o.w) (c.sLane l o.b 1) (c.v l o.a)

end Sys2Proof.Machine
end

