-- ==== Sys2Proof/Machine/LaneOps.lean ====
section
/-!
DEFINITION. Lane operations: SHFL, VOTE, GRED, SCAN (08_alu R162 to R166). They are collective: every lane of the group that has not
exited is present.
-/
namespace Sys2Proof.Machine

/-- The present lanes (R162), ascending. -/
def Ctx.present (c : Ctx) : List Nat := c.g.alive
/-- Present lanes whose predicate is true: the contributing lanes (R165, R166). -/
def Ctx.contributing (c : Ctx) (p : Nat) : List Nat := c.present.filter fun j => (c.g.lane j).getP p
/-- The mask of the present lanes that a test picks (R164). -/
def Ctx.maskWhere (c : Ctx) (f : Nat → Bool) : Word := maskOf (c.present.filter f)

/-! ## SHFL (R163) -/

/-- A shuffle: each lane of Issue reads the lane it names, or keeps its own value where that lane is absent. -/
def State.shuffle (s : State) (o : ArgsRS) (from_ : Nat → Word → Int) : Host.Outcome State Fault Refusal :=
  s.vector o.g (Uses.rs o) 0 o.stall o.d (share := .joined) fun c l =>
    let j := from_ l (c.b32 l o.b o.s)
    if 0 ≤ j && j ≤ 31 && c.present.contains j.toNat then c.v j.toNat o.a (site := 8 + l) else c.v l o.a

/-- SHFL.IDX (R163). -/
def execShflIdx (o : ArgsRS) (s : State) : Host.Outcome State Fault Refusal := s.shuffle o fun _ k => ((k.toNat % 32 : Nat) : Int)

/-- SHFL.UP (R163). -/
def execShflUp (o : ArgsRS) (s : State) : Host.Outcome State Fault Refusal := s.shuffle o fun l k => (l : Int) - k.toNat

/-- SHFL.DOWN (R163). -/
def execShflDown (o : ArgsRS) (s : State) : Host.Outcome State Fault Refusal := s.shuffle o fun l k => (l : Int) + k.toNat

/-- SHFL.XOR (R163). -/
def execShflXor (o : ArgsRS) (s : State) : Host.Outcome State Fault Refusal :=
  s.shuffle o fun l k => ((Nat.xor l (k.toNat % 32) : Nat) : Int)

/-! ## VOTE (R164) -/

/-- A word that writes a predicate of each lane of Issue. -/
def State.predicate (s : State) (g : Nat) (u : Uses) (stall d : Nat) (f : Ctx → Nat → Bool) : Host.Outcome State Fault Refusal :=
  s.joined (some g) u fun c => c.commit { p := c.issue.map fun l => (l, d, f c l) } 0 (1 + stall)

/-- VALL (R164). -/
def execVall (o : ArgsR2) (s : State) : Host.Outcome State Fault Refusal :=
  s.predicate o.g {} o.stall o.d fun c _ => c.present.all fun j => (c.g.lane j).getP o.a

/-- VANY (R164). -/
def execVany (o : ArgsR2) (s : State) : Host.Outcome State Fault Refusal :=
  s.predicate o.g {} o.stall o.d fun c _ => c.present.any fun j => (c.g.lane j).getP o.a

/-- BALLOT (R164). -/
def execBallot (o : ArgsR2) (s : State) : Host.Outcome State Fault Refusal :=
  s.vector o.g { vw := [o.d] } 0 o.stall o.d (share := .joined) fun c _ => c.maskWhere fun j => (c.g.lane j).getP o.a

/-- PAND (R164). -/
def execPand (o : ArgsR3) (s : State) : Host.Outcome State Fault Refusal :=
  s.predicate o.g { vr := [o.b] } o.stall o.d fun c l => (c.g.lane l).getP o.a && (c.v l o.b).getLsbD l

/-- POR (R164). -/
def execPor (o : ArgsR3) (s : State) : Host.Outcome State Fault Refusal :=
  s.predicate o.g { vr := [o.b] } o.stall o.d fun c l => (c.g.lane l).getP o.a || (c.v l o.b).getLsbD l

/-- PXOR (R164). -/
def execPxor (o : ArgsR3) (s : State) : Host.Outcome State Fault Refusal :=
  s.predicate o.g { vr := [o.b] } o.stall o.d fun c l => (c.g.lane l).getP o.a != (c.v l o.b).getLsbD l

/-- PSET (R164). -/
def execPset (o : ArgsPset) (s : State) : Host.Outcome State Fault Refusal :=
  s.predicate o.g { vr := [o.b] } o.stall o.d fun c l => (c.v l o.b).getLsbD l

/-- MATCH (R164). -/
def execVmatch (o : ArgsR2) (s : State) : Host.Outcome State Fault Refusal :=
  s.vector o.g (Uses.r2 o) 0 o.stall o.d (share := .joined) fun c l => c.maskWhere fun j => c.v j o.a (site := 8 + l) == c.v l o.a (site := 8 + l)

/-! ## GRED (R165) -/

/-- A reduction over the contributing lanes, the same for every lane of Issue. -/
def State.reduce (s : State) (o : ArgsR3) (f : List Word → Nat × Flags) : Host.Outcome State Fault Refusal :=
  s.joined (some o.g) { vr := [o.a], vw := [o.d] } fun c =>
    let r := f ((c.contributing o.b).map fun j => c.v j o.a)
    c.commit { v := c.issue.map fun l => (l, o.d, BitVec.ofNat 32 r.1), flags := if c.issue = [] then 0 else r.2 } 0 (1 + o.stall)

/-- Σ, wrapped (R165). -/
def sumWords (l : List Word) : Nat := (l.foldl (· + ·) 0).toNat
/-- The least by an order, from an initial value. -/
def leastBy (lt : Word → Word → Bool) (init : Word) (l : List Word) : Nat := (l.foldl (fun a b => if lt b a then b else a) init).toNat
/-- S32 order. -/
def ltS32 (a b : Word) : Bool := decide (a.toInt < b.toInt)
/-- N32 order. -/
def ltN32 (a b : Word) : Bool := decide (a.toNat < b.toNat)

/-- GRED.ADD (R165). -/
def execGredAdd (o : ArgsR3) (s : State) : Host.Outcome State Fault Refusal := s.reduce o fun l => (sumWords l, 0)

/-- GRED.MIN (R165). -/
def execGredMin (o : ArgsR3) (s : State) : Host.Outcome State Fault Refusal := s.reduce o fun l => (leastBy ltS32 0x7FFFFFFF l, 0)

/-- GRED.MAX (R165). -/
def execGredMax (o : ArgsR3) (s : State) : Host.Outcome State Fault Refusal :=
  s.reduce o fun l => (leastBy (fun a b => ltS32 b a) 0x80000000 l, 0)

/-- GRED.MINU (R165). -/
def execGredMinu (o : ArgsR3) (s : State) : Host.Outcome State Fault Refusal := s.reduce o fun l => (leastBy ltN32 0xFFFFFFFF l, 0)

/-- GRED.MAXU (R165). -/
def execGredMaxu (o : ArgsR3) (s : State) : Host.Outcome State Fault Refusal := s.reduce o fun l => (leastBy (fun a b => ltN32 b a) 0 l, 0)

/-- GRED.FADD (R165). -/
def execGredFadd (o : ArgsR3) (s : State) : Host.Outcome State Fault Refusal := s.reduce o fun l => F32.fold (l.map (·.toNat))

/-- GRED.FMIN (R165). -/
def execGredFmin (o : ArgsR3) (s : State) : Host.Outcome State Fault Refusal := s.reduce o fun l => F32.foldSelect false (l.map (·.toNat))

/-- GRED.FMAX (R165). -/
def execGredFmax (o : ArgsR3) (s : State) : Host.Outcome State Fault Refusal := s.reduce o fun l => F32.foldSelect true (l.map (·.toNat))

/-! ## SCAN (R166) -/

/-- A scan: for lane i the contributing lanes up to i, i itself where the word is inclusive. -/
def State.scan (s : State) (o : ArgsR3) (inclusive : Bool) (f : List Word → Nat × Flags) : Host.Outcome State Fault Refusal :=
  s.vectorF o.g { vr := [o.a], vw := [o.d] } 0 o.stall o.d (share := .joined) fun c i =>
    f (((c.contributing o.b).filter fun j => decide (j < i) || (inclusive && j == i)).map fun j => c.v j o.a (site := 8 + i))

/-- SCANI (R166). -/
def execScani (o : ArgsR3) (s : State) : Host.Outcome State Fault Refusal := s.scan o true fun l => (sumWords l, 0)

/-- SCANX (R166). -/
def execScanx (o : ArgsR3) (s : State) : Host.Outcome State Fault Refusal := s.scan o false fun l => (sumWords l, 0)

/-- SCANF (R166). -/
def execScanf (o : ArgsR3) (s : State) : Host.Outcome State Fault Refusal := s.scan o true fun l => F32.fold (l.map (·.toNat))

/-- SCANFX (R166). -/
def execScanfx (o : ArgsR3) (s : State) : Host.Outcome State Fault Refusal := s.scan o false fun l => F32.fold (l.map (·.toNat))

/-- SCANMAX (R166). -/
def execScanmax (o : ArgsR3) (s : State) : Host.Outcome State Fault Refusal :=
  s.scan o true fun l => (leastBy (fun a b => ltS32 b a) 0x80000000 l, 0)

/-- SCANMIN (R166). -/
def execScanmin (o : ArgsR3) (s : State) : Host.Outcome State Fault Refusal := s.scan o true fun l => (leastBy ltS32 0x7FFFFFFF l, 0)

/-- The first lane of the segment of lane i: the greatest present lane up to i with the predicate true, 0 if none (R166). -/
def Ctx.segmentOf (c : Ctx) (p i : Nat) : Nat := ((c.contributing p).filter fun j => decide (j ≤ i)).getLastD 0

/-- SEGSCAN (R166). -/
def execSegscan (o : ArgsR3) (s : State) : Host.Outcome State Fault Refusal :=
  s.vector o.g { vr := [o.a], vw := [o.d] } 0 o.stall o.d (share := .joined) fun c i =>
    BitVec.ofNat 32 (sumWords ((c.present.filter fun j => decide (c.segmentOf o.b i ≤ j) && decide (j ≤ i)).map fun j =>
      c.v j o.a (site := 8 + i)))

end Sys2Proof.Machine
end

