-- ==== Sys2Proof/Machine/Memory.lean ====
section
/-!
DEFINITION. The words of the MEM class (10_memory R186 to R202): what each asks for when it issues. Memory.lean says what is asked;
Perform.lean says how it is performed.
-/
namespace Sys2Proof.Machine

/-! ## Global loads and stores -/

/-- The lanes of Issue with their addresses. -/
def Ctx.addresses (c : Ctx) (o : ArgsM) (wide : Bool) : List (Nat × Nat) :=
  c.issue.map fun l => (l, if wide then c.addressWide l o.base o.idx else c.address l o.base o.idx)

/-- A load of `size` bytes for each lane of Issue (R187, R190). -/
def State.loadWord (s : State) (o : ArgsM) (u : Uses) (size : Nat) (sext wide : Bool) : Host.Outcome State Fault Refusal :=
  s.word (some o.g) u fun c =>
    c.counted o.ctr c.issue <|
    let as := c.addresses o wide
    c.checkLanes 0 (as.map fun (l, a) => (l, a, globalFault a size)) <|
    c.start { kind := .load size sext o.t, ctr := o.ctr, lanes := c.issue, parts := as.map fun (l, a) => Part.new l a size,
              dests := c.issue.flatMap fun l => (regsFor o.t size).map fun r => (l, r) }

/-- A store of `size` bytes for each lane of Issue (R188, R190). -/
def State.storeWord (s : State) (o : ArgsM) (u : Uses) (size : Nat) (wide : Bool) : Host.Outcome State Fault Refusal :=
  s.word (some o.g) u fun c =>
    c.counted o.ctr c.issue <|
    let as := c.addresses o wide
    c.checkLanes 1 (as.map fun (l, a) => (l, a, globalFault a size)) <|
    c.start { kind := .store size, ctr := o.ctr, lanes := c.issue,
              parts := as.map fun (l, a) => Part.new l a size (c.regs l o.t ((size + 3) / 4)) }

/-- LD.B (R187). -/
def execLdB (o : ArgsM) (s : State) : Host.Outcome State Fault Refusal := s.loadWord o (Uses.load o 4) 1 false false

/-- LD.H (R187). -/
def execLdH (o : ArgsM) (s : State) : Host.Outcome State Fault Refusal := s.loadWord o (Uses.load o 4) 2 false false

/-- LD.W (R187). -/
def execLdW (o : ArgsM) (s : State) : Host.Outcome State Fault Refusal := s.loadWord o (Uses.load o 4) 4 false false

/-- LD.D (R187). -/
def execLdD (o : ArgsM) (s : State) : Host.Outcome State Fault Refusal := s.loadWord o (Uses.load o 8) 8 false false

/-- LD.Q (R187). -/
def execLdQ (o : ArgsM) (s : State) : Host.Outcome State Fault Refusal := s.loadWord o (Uses.load o 16) 16 false false

/-- LD.SB (R187). -/
def execLdSb (o : ArgsM) (s : State) : Host.Outcome State Fault Refusal := s.loadWord o (Uses.load o 4) 1 true false

/-- LD.SH (R187). -/
def execLdSh (o : ArgsM) (s : State) : Host.Outcome State Fault Refusal := s.loadWord o (Uses.load o 4) 2 true false

/-- LDA.W (R190). -/
def execLdaW (o : ArgsM) (s : State) : Host.Outcome State Fault Refusal := s.loadWord o { Uses.load o 4 with vr := pairOf o.idx } 4 false true

/-- LDA.D (R190). -/
def execLdaD (o : ArgsM) (s : State) : Host.Outcome State Fault Refusal := s.loadWord o { Uses.load o 8 with vr := pairOf o.idx } 8 false true

/-- LDA.Q (R190). -/
def execLdaQ (o : ArgsM) (s : State) : Host.Outcome State Fault Refusal := s.loadWord o { Uses.load o 16 with vr := pairOf o.idx } 16 false true

/-- ST.B (R188). -/
def execStB (o : ArgsM) (s : State) : Host.Outcome State Fault Refusal := s.storeWord o (Uses.store o 4) 1 false

/-- ST.H (R188). -/
def execStH (o : ArgsM) (s : State) : Host.Outcome State Fault Refusal := s.storeWord o (Uses.store o 4) 2 false

/-- ST.W (R188). -/
def execStW (o : ArgsM) (s : State) : Host.Outcome State Fault Refusal := s.storeWord o (Uses.store o 4) 4 false

/-- ST.D (R188). -/
def execStD (o : ArgsM) (s : State) : Host.Outcome State Fault Refusal := s.storeWord o (Uses.store o 8) 8 false

/-- ST.Q (R188). -/
def execStQ (o : ArgsM) (s : State) : Host.Outcome State Fault Refusal := s.storeWord o (Uses.store o 16) 16 false

/-- STA.W (R190). -/
def execStaW (o : ArgsM) (s : State) : Host.Outcome State Fault Refusal := s.storeWord o { vr := pairOf o.idx ++ regsFor o.t 4, sr := [o.base] } 4 true

/-- STA.D (R190). -/
def execStaD (o : ArgsM) (s : State) : Host.Outcome State Fault Refusal := s.storeWord o { vr := pairOf o.idx ++ regsFor o.t 8, sr := [o.base] } 8 true

/-- STA.Q (R190). -/
def execStaQ (o : ArgsM) (s : State) : Host.Outcome State Fault Refusal := s.storeWord o { vr := pairOf o.idx ++ regsFor o.t 16, sr := [o.base] } 16 true

/-- LD.SC: one access for the split, the fault as if for lane 0 (R189). -/
def execLdSc (o : ArgsMTB) (s : State) : Host.Outcome State Fault Refusal :=
  s.joined none { sr := [o.base], sw := [o.t] } fun c =>
    c.counted o.ctr c.split <|
    let a := (c.s1 o.base).toNat
    c.checkLanes 0 [(0, a, globalFault a 8)] <|
    c.start { kind := .loadScalar o.t, ctr := o.ctr, lanes := c.split, parts := [Part.new (c.split.headD 0) a 8], sdests := [o.t] }

/-- ST.SC (R189). -/
def execStSc (o : ArgsMTB) (s : State) : Host.Outcome State Fault Refusal :=
  s.joined none { sr := [o.base, o.t] } fun c =>
    c.counted o.ctr c.split <|
    let a := (c.s1 o.base).toNat
    c.checkLanes 1 [(0, a, globalFault a 8)] <|
    c.start { kind := .storeScalar, ctr := o.ctr, lanes := c.split,
              parts := [Part.new (c.split.headD 0) a 8 ((c.s1 o.t 1).setWidth 128)] }

/-! ## Prefetch (R201) -/

/-- A prefetch: no check and no fault. -/
def State.prefetchWord (s : State) (o : ArgsMBI) (l1 : Bool) : Host.Outcome State Fault Refusal :=
  s.word (some o.g) (Uses.mbi o) fun c =>
    c.counted o.ctr c.issue <|
    c.start { kind := .prefetch l1, ctr := o.ctr, lanes := c.issue,
              parts := c.issue.map fun l => Part.new l (c.address l o.base o.idx) 1 }

/-- PREF.L2 (R201). -/
def execPrefL2 (o : ArgsMBI) (s : State) : Host.Outcome State Fault Refusal := s.prefetchWord o false

/-- PREF.L1 (R201). -/
def execPrefL1 (o : ArgsMBI) (s : State) : Host.Outcome State Fault Refusal := s.prefetchWord o true

/-! ## Scratchpad (R183, R191 to R194) -/

/-- A scratchpad word: the checks of R183 for each lane of Issue, then the operation. -/
def State.spadWord (s : State) (guard : Nat) (u : Uses) (base idx ctr size : Nat) (kind : OpKind) (dests : List Nat)
    (data : Ctx → Nat → BitVec 128) : Host.Outcome State Fault Refusal :=
  s.word (some guard) u fun c =>
    c.counted ctr c.issue <|
    let as := c.issue.map fun l => (l, c.offset l base idx)
    c.checkLanes 9 (as.map fun (l, a) => (l, 0, spadFault (c.window l) a size)) <|
    c.start { kind := kind, ctr := ctr, lanes := c.issue, parts := as.map fun (l, a) => Part.new l a size (data c l),
              dests := c.issue.flatMap fun l => dests.map fun r => (l, r) }

/-- LDS of `size` bytes. -/
def State.ldsWord (s : State) (o : ArgsM) (size : Nat) (sext : Bool) : Host.Outcome State Fault Refusal :=
  s.spadWord o.g (Uses.load o size) o.base o.idx o.ctr size (.lds size sext o.t) (regsFor o.t size) fun _ _ => 0

/-- STS of `size` bytes. -/
def State.stsWord (s : State) (o : ArgsM) (size : Nat) : Host.Outcome State Fault Refusal :=
  s.spadWord o.g (Uses.store o size) o.base o.idx o.ctr size (.sts size) [] fun c l => c.regs l o.t ((size + 3) / 4)

/-- LDS.B (R191). -/
def execLdsB (o : ArgsM) (s : State) : Host.Outcome State Fault Refusal := s.ldsWord o 1 false

/-- LDS.H (R191). -/
def execLdsH (o : ArgsM) (s : State) : Host.Outcome State Fault Refusal := s.ldsWord o 2 false

/-- LDS.W (R191). -/
def execLdsW (o : ArgsM) (s : State) : Host.Outcome State Fault Refusal := s.ldsWord o 4 false

/-- LDS.D (R191). -/
def execLdsD (o : ArgsM) (s : State) : Host.Outcome State Fault Refusal := s.ldsWord o 8 false

/-- LDS.Q (R191). -/
def execLdsQ (o : ArgsM) (s : State) : Host.Outcome State Fault Refusal := s.ldsWord o 16 false

/-- LDS.SB (R191). -/
def execLdsSb (o : ArgsM) (s : State) : Host.Outcome State Fault Refusal := s.ldsWord o 1 true

/-- LDS.SH (R191). -/
def execLdsSh (o : ArgsM) (s : State) : Host.Outcome State Fault Refusal := s.ldsWord o 2 true

/-- STS.B (R191). -/
def execStsB (o : ArgsM) (s : State) : Host.Outcome State Fault Refusal := s.stsWord o 1

/-- STS.H (R191). -/
def execStsH (o : ArgsM) (s : State) : Host.Outcome State Fault Refusal := s.stsWord o 2

/-- STS.W (R191). -/
def execStsW (o : ArgsM) (s : State) : Host.Outcome State Fault Refusal := s.stsWord o 4

/-- STS.D (R191). -/
def execStsD (o : ArgsM) (s : State) : Host.Outcome State Fault Refusal := s.stsWord o 8

/-- STS.Q (R191). -/
def execStsQ (o : ArgsM) (s : State) : Host.Outcome State Fault Refusal := s.stsWord o 16

/-- STSF: a quad, performed once the granule is empty (R193). -/
def execStsf (o : ArgsM) (s : State) : Host.Outcome State Fault Refusal :=
  s.spadWord o.g (Uses.store o 16) o.base o.idx o.ctr 16 .stsf [] fun c l => c.regs l o.t 4

/-- SETE (R194). -/
def execSete (o : ArgsMBI) (s : State) : Host.Outcome State Fault Refusal :=
  s.spadWord o.g (Uses.mbi o) o.base o.idx o.ctr 1 .sete [] fun _ _ => 0

/-- LDF: the lanes of Issue wait until their reads complete; the others go on (R192). -/
def State.ldfWord (s : State) (o : ArgsLdf) (size : Nat) : Host.Outcome State Fault Refusal :=
  s.word (some o.g) (Uses.ldf o size) fun c =>
    c.counted o.ctr c.issue <|
    let as := c.issue.map fun l => (l, c.offset l o.base o.idx)
    c.checkLanes 9 (as.map fun (l, a) => (l, 0, spadFault (c.window l) a size)) <|
    c.startWith { kind := .ldf size o.clr o.t, ctr := o.ctr, lanes := c.issue, parts := as.map fun (l, a) => Part.new l a size,
                  dests := c.issue.flatMap fun l => (regsFor o.t size).map fun r => (l, r) }
      fun id g => c.forkGroup g c.issue (.ldf id)

/-- LDF.W (R192). -/
def execLdfW (o : ArgsLdf) (s : State) : Host.Outcome State Fault Refusal := s.ldfWord o 4

/-- LDF.D (R192). -/
def execLdfD (o : ArgsLdf) (s : State) : Host.Outcome State Fault Refusal := s.ldfWord o 8

/-- LDF.Q (R192). -/
def execLdfQ (o : ArgsLdf) (s : State) : Host.Outcome State Fault Refusal := s.ldfWord o 16

/-! ## Atomics (R195, R196, R200) -/

/-- A global atomic on elements of `size` bytes with one operand register or pair. -/
def State.atomicWord (s : State) (o : ArgsM) (op : AtomOp) (size : Nat) : Host.Outcome State Fault Refusal :=
  s.word (some o.g) (Uses.atom o (size / 4) (size / 4)) fun c =>
    c.counted o.ctr c.issue <|
    let as := c.addresses o false
    c.checkLanes 2 (as.map fun (l, a) => (l, a, globalFault a size)) <|
    c.start { kind := .atomic op size o.t, ctr := o.ctr, lanes := c.issue,
              parts := as.map fun (l, a) => Part.new l a size (c.regs l o.t (size / 4)),
              dests := c.issue.flatMap fun l => (regsFor o.t size).map fun r => (l, r) }

/-- A compare-and-swap: the comparand, then the new value (R196). -/
def State.casWord (s : State) (o : ArgsM) (size : Nat) : Host.Outcome State Fault Refusal :=
  s.word (some o.g) (Uses.atom o (size / 2) (size / 4)) fun c =>
    c.counted o.ctr c.issue <|
    let as := c.addresses o false
    c.checkLanes 2 (as.map fun (l, a) => (l, a, globalFault a size)) <|
    c.start { kind := .atomic .cas size o.t, ctr := o.ctr, lanes := c.issue,
              parts := as.map fun (l, a) => Part.new l a size (c.regs l o.t (size / 4)) (c.regs l (o.t + size / 4) (size / 4)),
              dests := c.issue.flatMap fun l => (regsFor o.t size).map fun r => (l, r) }

/-- An atomic on the scratchpad (R200). -/
def State.atomsWord (s : State) (o : ArgsM) (op : AtomOp) : Host.Outcome State Fault Refusal :=
  s.spadWord o.g (Uses.atom o 1 1) o.base o.idx o.ctr 4 (.atomS op o.t) [o.t] fun c l => c.regs l o.t 1

/-- ATOM.ADD (R196). -/
def execAtomAdd (o : ArgsM) (s : State) : Host.Outcome State Fault Refusal := s.atomicWord o .add 4

/-- ATOM.SMIN (R196). -/
def execAtomSmin (o : ArgsM) (s : State) : Host.Outcome State Fault Refusal := s.atomicWord o .smin 4

/-- ATOM.SMAX (R196). -/
def execAtomSmax (o : ArgsM) (s : State) : Host.Outcome State Fault Refusal := s.atomicWord o .smax 4

/-- ATOM.UMIN (R196). -/
def execAtomUmin (o : ArgsM) (s : State) : Host.Outcome State Fault Refusal := s.atomicWord o .umin 4

/-- ATOM.UMAX (R196). -/
def execAtomUmax (o : ArgsM) (s : State) : Host.Outcome State Fault Refusal := s.atomicWord o .umax 4

/-- ATOM.AND (R196). -/
def execAtomAnd (o : ArgsM) (s : State) : Host.Outcome State Fault Refusal := s.atomicWord o .and 4

/-- ATOM.OR (R196). -/
def execAtomOr (o : ArgsM) (s : State) : Host.Outcome State Fault Refusal := s.atomicWord o .or 4

/-- ATOM.XOR (R196). -/
def execAtomXor (o : ArgsM) (s : State) : Host.Outcome State Fault Refusal := s.atomicWord o .xor 4

/-- ATOMX.XCHG32 (R196, R197). -/
def execAtomxXchg32 (o : ArgsM) (s : State) : Host.Outcome State Fault Refusal := s.atomicWord o .xchg 4

/-- ATOMX.XCHG64 (R196, R197). -/
def execAtomxXchg64 (o : ArgsM) (s : State) : Host.Outcome State Fault Refusal := s.atomicWord o .xchg 8

/-- ATOMX.ADD64 (R196, R197). -/
def execAtomxAdd64 (o : ArgsM) (s : State) : Host.Outcome State Fault Refusal := s.atomicWord o .add 8

/-- ATOMX.FADD32 (R196, R197). -/
def execAtomxFadd32 (o : ArgsM) (s : State) : Host.Outcome State Fault Refusal := s.atomicWord o .fadd 4

/-- ATOMX.FMIN32 (R196, R197). -/
def execAtomxFmin32 (o : ArgsM) (s : State) : Host.Outcome State Fault Refusal := s.atomicWord o .fmin 4

/-- ATOMX.FMAX32 (R196, R197). -/
def execAtomxFmax32 (o : ArgsM) (s : State) : Host.Outcome State Fault Refusal := s.atomicWord o .fmax 4

/-- ATOMX.FADD64 (R196, R197). -/
def execAtomxFadd64 (o : ArgsM) (s : State) : Host.Outcome State Fault Refusal := s.atomicWord o .fadd 8

/-- ATOMX.INCW (R196, R197). -/
def execAtomxIncw (o : ArgsM) (s : State) : Host.Outcome State Fault Refusal := s.atomicWord o .incw 4

/-- CAS.32 (R196). -/
def execCas32 (o : ArgsM) (s : State) : Host.Outcome State Fault Refusal := s.casWord o 4

/-- CAS.64 (R196). -/
def execCas64 (o : ArgsM) (s : State) : Host.Outcome State Fault Refusal := s.casWord o 8

/-- ATOMS.ADD (R200). -/
def execAtomsAdd (o : ArgsM) (s : State) : Host.Outcome State Fault Refusal := s.atomsWord o .add

/-- ATOMS.SMIN (R200). -/
def execAtomsSmin (o : ArgsM) (s : State) : Host.Outcome State Fault Refusal := s.atomsWord o .smin

/-- ATOMS.SMAX (R200). -/
def execAtomsSmax (o : ArgsM) (s : State) : Host.Outcome State Fault Refusal := s.atomsWord o .smax

/-- ATOMS.UMIN (R200). -/
def execAtomsUmin (o : ArgsM) (s : State) : Host.Outcome State Fault Refusal := s.atomsWord o .umin

/-- ATOMS.UMAX (R200). -/
def execAtomsUmax (o : ArgsM) (s : State) : Host.Outcome State Fault Refusal := s.atomsWord o .umax

/-- ATOMS.AND (R200). -/
def execAtomsAnd (o : ArgsM) (s : State) : Host.Outcome State Fault Refusal := s.atomsWord o .and

/-- ATOMS.OR (R200). -/
def execAtomsOr (o : ArgsM) (s : State) : Host.Outcome State Fault Refusal := s.atomsWord o .or

/-- ATOMS.XOR (R200). -/
def execAtomsXor (o : ArgsM) (s : State) : Host.Outcome State Fault Refusal := s.atomsWord o .xor

end Sys2Proof.Machine
end

