-- ==== Sys2Proof/Machine/Moves.lean ====
section
/-!
DEFINITION. Moves, literals to v registers, special registers (04_encoding R68, R69, R72; 08_alu R156 to R161).
-/
namespace Sys2Proof.Machine

/-- MOV (R157). -/
def execMov (o : ArgsR2) (s : State) : Host.Outcome State Fault Refusal := s.vector o.g (Uses.r2 o) 2 o.stall o.d fun c l => c.v l o.a

/-- MOVS and MOVS.HI (R157). -/
def execMovs (o : ArgsMovs) (s : State) : Host.Outcome State Fault Refusal :=
  s.vector o.g { vw := [o.d], sr := [o.a] } 2 o.stall o.d fun c l => if o.hi then Word.hi (c.sLane l o.a) else Word.lo (c.sLane l o.a)

/-- RDLN: one lane's register, whatever the state of the lane, to an s register; timed by the group's distance, and in checked mode a
use of a value that is not yet due or of a pending register ends the group (R158). -/
def execRdln (o : ArgsLn) (s : State) : Host.Outcome State Fault Refusal :=
  s.joined none { sw := [o.d] } fun c =>
    let l := c.g.lane o.lane
    let short := match l.fresh.find? fun f => f.reg == o.a with
      | some f => c.isShort o.lane true f
      | none => false
    if s.checkedOf c.g && (short || l.pend.any fun p => p.reg == o.a) then s.killGroup c.g.gid 0x04
    else c.commit { s := [(o.d, (c.v o.lane o.a 0 true).setWidth 64)] } 2 (1 + o.stall)

/-- WRLN: writes the named lane's register where it is in Issue; a later read is timed under R126 (R158). -/
def execWrln (o : ArgsLn) (s : State) : Host.Outcome State Fault Refusal :=
  s.word (some o.g) { vw := [o.d], sr := [o.a], only := some o.lane } fun c =>
    c.commit { v := if c.issue.contains o.lane then [(o.lane, o.d, Word.lo (c.s1 o.a))] else [] } 2 (1 + o.stall) 1 false

/-- VLIT: the literal that follows (R72). -/
def execVlit (o : ArgsVLit) (lit : BitVec 32) (s : State) : Host.Outcome State Fault Refusal :=
  s.word (some o.g) { vw := [o.d] } fun c => c.commit { v := c.issue.map fun l => (l, o.d, lit) } 2 (1 + o.stall) 2

/-! ## Special registers -/

/-- The ramp rate of a core in eighths, 8 where no ramp runs (R408). -/
def CoreState.rampRate (c : CoreState) : Nat :=
  if c.ramp = 1 then 1 + c.rampCycles / 256 else if c.ramp = 2 then 8 - c.rampCycles / 256 else 8
/-- The effective rate: the lesser of 8 − s and the ramp rate (R408). -/
def CoreState.rate (c : CoreState) : Nat := min (8 - c.step) c.rampRate
/-- What %thr reads before a start gives the part its cores: no step, no ramp, EFF 7 (R407). -/
def thrReset : Nat := 0x70

/-- %thr (R407). -/
def CoreState.thr (c : CoreState) : Nat :=
  c.step % 8 + (c.rate - 1) % 8 * 2 ^ 4 + c.ramp % 4 * 2 ^ 10 + (if c.ramp = 0 then 0 else 2048 - c.rampCycles) * 2 ^ 12

/-- %replmark of peer p for a team's slot (R318). -/
def State.replmark (s : State) (ctx p slot : Nat) : Nat :=
  match s.peers.find? fun x => x.ctx == ctx && x.which == p with
  | none => 2 ^ 32 + (s.mark slot).toNat
  | some x => if x.caught || x.valid.contains slot then 2 ^ 32 + (s.appliedMark ctx p slot).toNat else 0

/-- %cycles of a core (R25). -/
def State.cycles (s : State) (rank : Nat) : DWord := Config.cyclesBase rank + BitVec.ofNat 64 s.tick

/-- The value of a special register for a lane (R68). %teamid and %teamx to %teamz are those of the team whose tag the lane carries (R35, R68);
every other register of a team or a launch is sampled once for the word (R159), for the team whose tag the lowest lane of Issue carries (log
entry 33, DESIGN CHOICE); the reserve is that of the owner of the group's slot (R228). -/
def Ctx.special (c : Ctx) (n lane : Nat) : DWord :=
  let own := c.s.team? (c.g.lane lane).team
  let idx := (own.map (·.index)).getD 0
  let oa := own.bind c.s.launchOf
  let t := c.s.team? (c.g.lane (c.issue.headD lane)).team
  let la := t.bind c.s.launchOf
  let gx := max 1 ((oa.map (·.gx)).getD 1)
  let gy := max 1 ((oa.map (·.gy)).getD 1)
  let slot := (t.map Team.slot).getD Config.writerSlots
  let core := c.g.core
  match n with
  | 0x001 => BitVec.ofNat 64 lane
  | 0x002 => BitVec.ofNat 64 c.g.slot
  | 0x003 => BitVec.ofNat 64 idx
  | 0x004 => BitVec.ofNat 64 (idx % gx)
  | 0x005 => BitVec.ofNat 64 (idx / gx % gy)
  | 0x006 => BitVec.ofNat 64 (idx / (gx * gy))
  | 0x007 => (c.g.lane lane).origin
  | 0x008 => BitVec.ofNat 64 core
  | 0x009 => BitVec.ofNat 64 (c.s.clusterOf core)
  | 0x00A => BitVec.ofNat 64 (c.s.clusterOf core / 4)
  | 0x00B => BitVec.ofNat 64 c.s.conf.devid
  | 0x00C => BitVec.ofNat 64 ((t.map (·.kslot)).getD 0)
  | 0x010 => BitVec.ofNat 64 c.g.alloc
  | 0x011 => BitVec.ofNat 64 (4 * ((c.s.ownerOf c.g).map c.s.reserve).getD 0)
  | 0x012 => c.g.gang
  | 0x020 => c.s.cycles core
  | 0x021 => BitVec.ofNat 64 ((la.map (·.elapsed)).getD 0)
  | 0x022 => BitVec.ofNat 64 ((la.map (·.energy)).getD 0)
  | 0x023 => BitVec.ofNat 64 (((c.s.core? core).map CoreState.thr).getD thrReset)
  | 0x030 => ((c.s.ctx? c.ctx).map (·.errst)).getD 0
  | 0x031 => c.g.readFlags
  | 0x040 => (c.s.mark slot).setWidth 64
  | 0x041 => BitVec.ofNat 64 (c.s.replmark c.ctx 0 slot)
  | 0x042 => BitVec.ofNat 64 (c.s.replmark c.ctx 1 slot)
  | _ => 0

/-- RDSR: a register or a pair, zero-extended (R159). -/
def execRdsr (o : ArgsSr) (s : State) : Host.Outcome State Fault Refusal :=
  if specialWidth o.n = some 64 then s.vector64 o.g { vw := pairOf o.d } 2 o.stall o.d (share := .joined) fun c l => c.special o.n l
  else s.vector o.g { vw := [o.d] } 2 o.stall o.d (share := .joined) fun c l => Word.lo (c.special o.n l)

/-- WRSR: %fpflags is written; any other listed register is not and ends the group with 0x09 (R160, R69). -/
def execWrsr (o : ArgsSr) (s : State) : Host.Outcome State Fault Refusal :=
  s.joined none { sr := [o.d] } fun c =>
    if o.n = 0x031 then c.next (c.g.writeFlags (c.s1 o.d)) 1 (1 + o.stall) else s.killGroup c.g.gid 0x09

/-- RDPC: the address of the clause header (R161). -/
def execRdpc (o : ArgsR1) (s : State) : Host.Outcome State Fault Refusal :=
  s.vector64 o.g { vw := pairOf o.d } 2 o.stall o.d fun c _ => c.r.hdr

end Sys2Proof.Machine
end

