-- ==== Sys2Proof/Machine/Scalar.lean ====
section
/-!
DEFINITION. Scalar arithmetic and SLIT (08_alu R140, R141; 04_encoding R71).
-/
namespace Sys2Proof.Machine

/-- A scalar word of R140: executes once for the split, latency 2. -/
def State.scalar3 (s : State) (o : ArgsS3) (f : DWord → DWord → DWord) : Host.Outcome State Fault Refusal :=
  s.scalar (Uses.sss o.d o.a o.b) o.stall o.d fun c => f (c.s1 o.a) (c.s1 o.b 1)

/-- SADD: Wrap(N64, a + b) (R140). -/
def execSadd (o : ArgsS3) (s : State) : Host.Outcome State Fault Refusal := s.scalar3 o fun a b => a + b

/-- SSUB: Wrap(N64, a − b) (R140). -/
def execSsub (o : ArgsS3) (s : State) : Host.Outcome State Fault Refusal := s.scalar3 o fun a b => a - b

/-- SMUL: Wrap(N64, a × b) (R140). -/
def execSmul (o : ArgsS3) (s : State) : Host.Outcome State Fault Refusal := s.scalar3 o fun a b => a * b

/-- SMULHN: bits [127:64] of the exact N64 product (R140). -/
def execSmulhn (o : ArgsS3) (s : State) : Host.Outcome State Fault Refusal := s.scalar3 o fun a b => BitVec.ofNat 64 (a.toNat * b.toNat / 2 ^ 64)

/-- SAND: a AND b (R140). -/
def execSand (o : ArgsS3) (s : State) : Host.Outcome State Fault Refusal := s.scalar3 o fun a b => a &&& b

/-- SOR: a OR b (R140). -/
def execSor (o : ArgsS3) (s : State) : Host.Outcome State Fault Refusal := s.scalar3 o fun a b => a ||| b

/-- SXOR: a XOR b (R140). -/
def execSxor (o : ArgsS3) (s : State) : Host.Outcome State Fault Refusal := s.scalar3 o fun a b => a ^^^ b

/-- SANDN: a AND NOT b (R140). -/
def execSandn (o : ArgsS3) (s : State) : Host.Outcome State Fault Refusal := s.scalar3 o fun a b => a &&& ~~~b

/-- SSHL: a << c, 0 from 64 on (R140). -/
def execSshl (o : ArgsS3) (s : State) : Host.Outcome State Fault Refusal := s.scalar3 o fun a b => if b.toNat < 64 then a <<< b.toNat else 0

/-- SSHR: a >> c with zeros, 0 from 64 on (R140). -/
def execSshr (o : ArgsS3) (s : State) : Host.Outcome State Fault Refusal := s.scalar3 o fun a b => if b.toNat < 64 then a >>> b.toNat else 0

/-- SSAR: a >> c with copies of the sign (R140). -/
def execSsar (o : ArgsS3) (s : State) : Host.Outcome State Fault Refusal := s.scalar3 o fun a b => a.sshiftRight (min b.toNat 64)

/-- SMIN: the lesser as S64 (R140). -/
def execSmin (o : ArgsS3) (s : State) : Host.Outcome State Fault Refusal := s.scalar3 o fun a b => if s64 a ≤ s64 b then a else b

/-- SMAX: the greater as S64 (R140). -/
def execSmax (o : ArgsS3) (s : State) : Host.Outcome State Fault Refusal := s.scalar3 o fun a b => if s64 a ≤ s64 b then b else a

/-- SMINU: the lesser as N64 (R140). -/
def execSminu (o : ArgsS3) (s : State) : Host.Outcome State Fault Refusal := s.scalar3 o fun a b => if a.toNat ≤ b.toNat then a else b

/-- SMAXU: the greater as N64 (R140). -/
def execSmaxu (o : ArgsS3) (s : State) : Host.Outcome State Fault Refusal := s.scalar3 o fun a b => if a.toNat ≤ b.toNat then b else a

/-- SADDI: Wrap(N64, a + SignExtend(imm9)) (R141). -/
def execSaddi (o : ArgsSImm) (s : State) : Host.Outcome State Fault Refusal :=
  s.scalar (usesOf (.saddi o)) o.stall o.d fun c => c.s1 o.a + o.imm.signExtend 64

/-- SLEA: Wrap(N64, (a << k) + b) (R141). -/
def execSlea (o : ArgsSLea) (s : State) : Host.Outcome State Fault Refusal :=
  s.scalar (usesOf (.slea o)) o.stall o.d fun c => (c.s1 o.a <<< o.k) + c.s1 o.b 1

/-- SLIT with one literal: sign-extended (R71). -/
def execSlit (o : ArgsLit) (lit : Word) (s : State) : Host.Outcome State Fault Refusal :=
  s.scalar { sw := [o.d] } o.stall o.d (fun _ => lit.signExtend 64) 2

/-- SLIT.W64: two literals, the low one first (R71). -/
def execSlitW64 (o : ArgsLit) (lit0 lit1 : Word) (s : State) : Host.Outcome State Fault Refusal :=
  s.scalar { sw := [o.d] } o.stall o.d (fun _ => Word.pair lit0 lit1) 3

end Sys2Proof.Machine
end

