-- ==== Sys2Proof/Machine/Dispatch.lean ====
section
/-!
DEFINITION. The dispatch: one arm per step of the part, each one direct call of its meaning.
-/
namespace Sys2Proof.Machine

/-- The meaning of each instruction and event. -/
def exec (i : Instr) (s : State) : Host.Outcome State Fault Refusal :=
  match i with
  | .iadd o => Sys2Proof.Machine.execIadd o s
  | .iadds o => Sys2Proof.Machine.execIadds o s
  | .iaddus o => Sys2Proof.Machine.execIaddus o s
  | .isub o => Sys2Proof.Machine.execIsub o s
  | .isubs o => Sys2Proof.Machine.execIsubs o s
  | .isubus o => Sys2Proof.Machine.execIsubus o s
  | .irsub o => Sys2Proof.Machine.execIrsub o s
  | .imul o => Sys2Proof.Machine.execImul o s
  | .imulhi o => Sys2Proof.Machine.execImulhi o s
  | .imulhu o => Sys2Proof.Machine.execImulhu o s
  | .imad o => Sys2Proof.Machine.execImad o s
  | .and o => Sys2Proof.Machine.execAnd o s
  | .or o => Sys2Proof.Machine.execOr o s
  | .xor o => Sys2Proof.Machine.execXor o s
  | .andn o => Sys2Proof.Machine.execAndn o s
  | .shl o => Sys2Proof.Machine.execShl o s
  | .shr o => Sys2Proof.Machine.execShr o s
  | .sar o => Sys2Proof.Machine.execSar o s
  | .rol o => Sys2Proof.Machine.execRol o s
  | .imin o => Sys2Proof.Machine.execImin o s
  | .imax o => Sys2Proof.Machine.execImax o s
  | .iminu o => Sys2Proof.Machine.execIminu o s
  | .imaxu o => Sys2Proof.Machine.execImaxu o s
  | .popc o => Sys2Proof.Machine.execPopc o s
  | .clz o => Sys2Proof.Machine.execClz o s
  | .brev o => Sys2Proof.Machine.execBrev o s
  | .ffs o => Sys2Proof.Machine.execFfs o s
  | .bfe o => Sys2Proof.Machine.execBfe o s
  | .bfes o => Sys2Proof.Machine.execBfes o s
  | .bfi o => Sys2Proof.Machine.execBfi o s
  | .lea o => Sys2Proof.Machine.execLea o s
  | .sel o => Sys2Proof.Machine.execSel o s
  | .add64 o => Sys2Proof.Machine.execAdd64 o s
  | .sub64 o => Sys2Proof.Machine.execSub64 o s
  | .mul64 o => Sys2Proof.Machine.execMul64 o s
  | .mulw o => Sys2Proof.Machine.execMulw o s
  | .iaddi o => Sys2Proof.Machine.execIaddi o s
  | .mix o => Sys2Proof.Machine.execMix o s
  | .idp4Ss o => Sys2Proof.Machine.execIdp4Ss o s
  | .idp4Nn o => Sys2Proof.Machine.execIdp4Nn o s
  | .idp4Sn o => Sys2Proof.Machine.execIdp4Sn o s
  | .sadd o => Sys2Proof.Machine.execSadd o s
  | .ssub o => Sys2Proof.Machine.execSsub o s
  | .smul o => Sys2Proof.Machine.execSmul o s
  | .smulhn o => Sys2Proof.Machine.execSmulhn o s
  | .sand o => Sys2Proof.Machine.execSand o s
  | .sor o => Sys2Proof.Machine.execSor o s
  | .sxor o => Sys2Proof.Machine.execSxor o s
  | .sandn o => Sys2Proof.Machine.execSandn o s
  | .sshl o => Sys2Proof.Machine.execSshl o s
  | .sshr o => Sys2Proof.Machine.execSshr o s
  | .ssar o => Sys2Proof.Machine.execSsar o s
  | .smin o => Sys2Proof.Machine.execSmin o s
  | .smax o => Sys2Proof.Machine.execSmax o s
  | .sminu o => Sys2Proof.Machine.execSminu o s
  | .smaxu o => Sys2Proof.Machine.execSmaxu o s
  | .saddi o => Sys2Proof.Machine.execSaddi o s
  | .slit o lit => Sys2Proof.Machine.execSlit o lit s
  | .slitW64 o lit0 lit1 => Sys2Proof.Machine.execSlitW64 o lit0 lit1 s
  | .slea o => Sys2Proof.Machine.execSlea o s
  | .fadd o => Sys2Proof.Machine.execFadd o s
  | .fsub o => Sys2Proof.Machine.execFsub o s
  | .fmul o => Sys2Proof.Machine.execFmul o s
  | .ffma o => Sys2Proof.Machine.execFfma o s
  | .ffms o => Sys2Proof.Machine.execFfms o s
  | .fmin o => Sys2Proof.Machine.execFmin o s
  | .fmax o => Sys2Proof.Machine.execFmax o s
  | .fminp o => Sys2Proof.Machine.execFminp o s
  | .fmaxp o => Sys2Proof.Machine.execFmaxp o s
  | .frcp o => Sys2Proof.Machine.execFrcp o s
  | .frsq o => Sys2Proof.Machine.execFrsq o s
  | .fsqrt o => Sys2Proof.Machine.execFsqrt o s
  | .fex2 o => Sys2Proof.Machine.execFex2 o s
  | .flg2 o => Sys2Proof.Machine.execFlg2 o s
  | .fsnt o => Sys2Proof.Machine.execFsnt o s
  | .fcst o => Sys2Proof.Machine.execFcst o s
  | .dadd o => Sys2Proof.Machine.execDadd o s
  | .dsub o => Sys2Proof.Machine.execDsub o s
  | .dmul o => Sys2Proof.Machine.execDmul o s
  | .dfma o => Sys2Proof.Machine.execDfma o s
  | .dmin o => Sys2Proof.Machine.execDmin o s
  | .dmax o => Sys2Proof.Machine.execDmax o s
  | .ddiv o => Sys2Proof.Machine.execDdiv o s
  | .dsqrt o => Sys2Proof.Machine.execDsqrt o s
  | .hadd2 o => Sys2Proof.Machine.execHadd2 o s
  | .hmul2 o => Sys2Proof.Machine.execHmul2 o s
  | .hfma2 o => Sys2Proof.Machine.execHfma2 o s
  | .hmax2 o => Sys2Proof.Machine.execHmax2 o s
  | .cvt o => Sys2Proof.Machine.execCvt o s
  | .pk8e4 o => Sys2Proof.Machine.execPk8e4 o s
  | .pk8e5 o => Sys2Proof.Machine.execPk8e5 o s
  | .pk4 o => Sys2Proof.Machine.execPk4 o s
  | .up8e4 o => Sys2Proof.Machine.execUp8e4 o s
  | .up8e5 o => Sys2Proof.Machine.execUp8e5 o s
  | .up4 o => Sys2Proof.Machine.execUp4 o s
  | .qi8 o => Sys2Proof.Machine.execQi8 o s
  | .dq4 o => Sys2Proof.Machine.execDq4 o s
  | .icmp o => Sys2Proof.Machine.execIcmp o s
  | .ucmp o => Sys2Proof.Machine.execUcmp o s
  | .fcmp o => Sys2Proof.Machine.execFcmp o s
  | .dcmp o => Sys2Proof.Machine.execDcmp o s
  | .scmp o => Sys2Proof.Machine.execScmp o s
  | .mov o => Sys2Proof.Machine.execMov o s
  | .movs o => Sys2Proof.Machine.execMovs o s
  | .rdln o => Sys2Proof.Machine.execRdln o s
  | .wrln o => Sys2Proof.Machine.execWrln o s
  | .vlit o lit => Sys2Proof.Machine.execVlit o lit s
  | .rdsr o => Sys2Proof.Machine.execRdsr o s
  | .wrsr o => Sys2Proof.Machine.execWrsr o s
  | .rdpc o => Sys2Proof.Machine.execRdpc o s
  | .shflIdx o => Sys2Proof.Machine.execShflIdx o s
  | .shflUp o => Sys2Proof.Machine.execShflUp o s
  | .shflDown o => Sys2Proof.Machine.execShflDown o s
  | .shflXor o => Sys2Proof.Machine.execShflXor o s
  | .vall o => Sys2Proof.Machine.execVall o s
  | .vany o => Sys2Proof.Machine.execVany o s
  | .ballot o => Sys2Proof.Machine.execBallot o s
  | .pand o => Sys2Proof.Machine.execPand o s
  | .por o => Sys2Proof.Machine.execPor o s
  | .pxor o => Sys2Proof.Machine.execPxor o s
  | .pset o => Sys2Proof.Machine.execPset o s
  | .vmatch o => Sys2Proof.Machine.execVmatch o s
  | .gredAdd o => Sys2Proof.Machine.execGredAdd o s
  | .gredMin o => Sys2Proof.Machine.execGredMin o s
  | .gredMax o => Sys2Proof.Machine.execGredMax o s
  | .gredMinu o => Sys2Proof.Machine.execGredMinu o s
  | .gredMaxu o => Sys2Proof.Machine.execGredMaxu o s
  | .gredFadd o => Sys2Proof.Machine.execGredFadd o s
  | .gredFmin o => Sys2Proof.Machine.execGredFmin o s
  | .gredFmax o => Sys2Proof.Machine.execGredFmax o s
  | .scani o => Sys2Proof.Machine.execScani o s
  | .scanx o => Sys2Proof.Machine.execScanx o s
  | .scanf o => Sys2Proof.Machine.execScanf o s
  | .scanfx o => Sys2Proof.Machine.execScanfx o s
  | .scanmax o => Sys2Proof.Machine.execScanmax o s
  | .scanmin o => Sys2Proof.Machine.execScanmin o s
  | .segscan o => Sys2Proof.Machine.execSegscan o s
  | .ldB o => Sys2Proof.Machine.execLdB o s
  | .ldH o => Sys2Proof.Machine.execLdH o s
  | .ldW o => Sys2Proof.Machine.execLdW o s
  | .ldD o => Sys2Proof.Machine.execLdD o s
  | .ldQ o => Sys2Proof.Machine.execLdQ o s
  | .ldSb o => Sys2Proof.Machine.execLdSb o s
  | .ldSh o => Sys2Proof.Machine.execLdSh o s
  | .ldSc o => Sys2Proof.Machine.execLdSc o s
  | .stB o => Sys2Proof.Machine.execStB o s
  | .stH o => Sys2Proof.Machine.execStH o s
  | .stW o => Sys2Proof.Machine.execStW o s
  | .stD o => Sys2Proof.Machine.execStD o s
  | .stQ o => Sys2Proof.Machine.execStQ o s
  | .stSc o => Sys2Proof.Machine.execStSc o s
  | .ldsB o => Sys2Proof.Machine.execLdsB o s
  | .ldsH o => Sys2Proof.Machine.execLdsH o s
  | .ldsW o => Sys2Proof.Machine.execLdsW o s
  | .ldsD o => Sys2Proof.Machine.execLdsD o s
  | .ldsQ o => Sys2Proof.Machine.execLdsQ o s
  | .ldsSb o => Sys2Proof.Machine.execLdsSb o s
  | .ldsSh o => Sys2Proof.Machine.execLdsSh o s
  | .stsB o => Sys2Proof.Machine.execStsB o s
  | .stsH o => Sys2Proof.Machine.execStsH o s
  | .stsW o => Sys2Proof.Machine.execStsW o s
  | .stsD o => Sys2Proof.Machine.execStsD o s
  | .stsQ o => Sys2Proof.Machine.execStsQ o s
  | .stsf o => Sys2Proof.Machine.execStsf o s
  | .sete o => Sys2Proof.Machine.execSete o s
  | .ldfW o => Sys2Proof.Machine.execLdfW o s
  | .ldfD o => Sys2Proof.Machine.execLdfD o s
  | .ldfQ o => Sys2Proof.Machine.execLdfQ o s
  | .ldaW o => Sys2Proof.Machine.execLdaW o s
  | .ldaD o => Sys2Proof.Machine.execLdaD o s
  | .ldaQ o => Sys2Proof.Machine.execLdaQ o s
  | .staW o => Sys2Proof.Machine.execStaW o s
  | .staD o => Sys2Proof.Machine.execStaD o s
  | .staQ o => Sys2Proof.Machine.execStaQ o s
  | .atomAdd o => Sys2Proof.Machine.execAtomAdd o s
  | .atomSmin o => Sys2Proof.Machine.execAtomSmin o s
  | .atomSmax o => Sys2Proof.Machine.execAtomSmax o s
  | .atomUmin o => Sys2Proof.Machine.execAtomUmin o s
  | .atomUmax o => Sys2Proof.Machine.execAtomUmax o s
  | .atomAnd o => Sys2Proof.Machine.execAtomAnd o s
  | .atomOr o => Sys2Proof.Machine.execAtomOr o s
  | .atomXor o => Sys2Proof.Machine.execAtomXor o s
  | .atomxXchg32 o => Sys2Proof.Machine.execAtomxXchg32 o s
  | .atomxXchg64 o => Sys2Proof.Machine.execAtomxXchg64 o s
  | .atomxAdd64 o => Sys2Proof.Machine.execAtomxAdd64 o s
  | .atomxFadd32 o => Sys2Proof.Machine.execAtomxFadd32 o s
  | .atomxFmin32 o => Sys2Proof.Machine.execAtomxFmin32 o s
  | .atomxFmax32 o => Sys2Proof.Machine.execAtomxFmax32 o s
  | .atomxFadd64 o => Sys2Proof.Machine.execAtomxFadd64 o s
  | .atomxIncw o => Sys2Proof.Machine.execAtomxIncw o s
  | .cas32 o => Sys2Proof.Machine.execCas32 o s
  | .cas64 o => Sys2Proof.Machine.execCas64 o s
  | .atomsAdd o => Sys2Proof.Machine.execAtomsAdd o s
  | .atomsSmin o => Sys2Proof.Machine.execAtomsSmin o s
  | .atomsSmax o => Sys2Proof.Machine.execAtomsSmax o s
  | .atomsUmin o => Sys2Proof.Machine.execAtomsUmin o s
  | .atomsUmax o => Sys2Proof.Machine.execAtomsUmax o s
  | .atomsAnd o => Sys2Proof.Machine.execAtomsAnd o s
  | .atomsOr o => Sys2Proof.Machine.execAtomsOr o s
  | .atomsXor o => Sys2Proof.Machine.execAtomsXor o s
  | .prefL2 o => Sys2Proof.Machine.execPrefL2 o s
  | .prefL1 o => Sys2Proof.Machine.execPrefL1 o s
  | .badd o => Sys2Proof.Machine.execBadd o s
  | .bmax o => Sys2Proof.Machine.execBmax o s
  | .bmin o => Sys2Proof.Machine.execBmin o s
  | .bmul o => Sys2Proof.Machine.execBmul o s
  | .bsmx o => Sys2Proof.Machine.execBsmx o s
  | .biadd o => Sys2Proof.Machine.execBiadd o s
  | .bimax o => Sys2Proof.Machine.execBimax o s
  | .bset o => Sys2Proof.Machine.execBset o s
  | .gang o => Sys2Proof.Machine.execGang o s
  | .obres o => Sys2Proof.Machine.execObres o s
  | .obrel o => Sys2Proof.Machine.execObrel o s
  | .tfetch o => Sys2Proof.Machine.execTfetch o s
  | .mma o => Sys2Proof.Machine.execMma o s
  | .mmaq o => Sys2Proof.Machine.execMmaq o s
  | .accz o => Sys2Proof.Machine.execAccz o s
  | .acczD o => Sys2Proof.Machine.execAcczD o s
  | .cpy o => Sys2Proof.Machine.execCpy o s
  | .cpyt o => Sys2Proof.Machine.execCpyt o s
  | .cpyn o => Sys2Proof.Machine.execCpyn o s
  | .nmc o => Sys2Proof.Machine.execNmc o s
  | .rfence o => Sys2Proof.Machine.execRfence o s
  | .rel o => Sys2Proof.Machine.execRel o s
  | .acq o => Sys2Proof.Machine.execAcq o s
  | .acqr o => Sys2Proof.Machine.execAcqr o s
  | .fence o => Sys2Proof.Machine.execFence o s
  | .fencex o => Sys2Proof.Machine.execFencex o s
  | .waitc o => Sys2Proof.Machine.execWaitc o s
  | .snap o => Sys2Proof.Machine.execSnap o s
  | .revert o => Sys2Proof.Machine.execRevert o s
  | .sndrop o => Sys2Proof.Machine.execSndrop o s
  | .bari o => Sys2Proof.Machine.execBari o s
  | .bara o => Sys2Proof.Machine.execBara o s
  | .barw o => Sys2Proof.Machine.execBarw o s
  | .bars o => Sys2Proof.Machine.execBars o s
  | .barb o => Sys2Proof.Machine.execBarb o s
  | .regrpTeam o => Sys2Proof.Machine.execRegrpTeam o s
  | .regrpCore o => Sys2Proof.Machine.execRegrpCore o s
  | .rgive o => Sys2Proof.Machine.execRgive o s
  | .rclaim o => Sys2Proof.Machine.execRclaim o s
  | .bra o => Sys2Proof.Machine.execBra o s
  | .call o => Sys2Proof.Machine.execCall o s
  | .brx o => Sys2Proof.Machine.execBrx o s
  | .callx o => Sys2Proof.Machine.execCallx o s
  | .ret o => Sys2Proof.Machine.execRet o s
  | .exit o => Sys2Proof.Machine.execExit o s
  | .yield o => Sys2Proof.Machine.execYield o s
  | .trap o => Sys2Proof.Machine.execTrap o s
  | .brk o => Sys2Proof.Machine.execBrk o s
  | .nop o => Sys2Proof.Machine.execNop o s
  | .clauseIssue gid => Sys2Proof.Machine.execClauseIssue gid s
  | .countedCompletion op lane => Sys2Proof.Machine.execCountedCompletion op lane s
  | .collectiveDeadlock gid => Sys2Proof.Machine.execCollectiveDeadlock gid s
  | .groupEnd gid => Sys2Proof.Machine.execGroupEnd gid s
  | .activeSetExchange core => Sys2Proof.Machine.execActiveSetExchange core s
  | .forcedSave team => Sys2Proof.Machine.execForcedSave team s
  | .drainTimeout ctx => Sys2Proof.Machine.execDrainTimeout ctx s
  | .saveAreaMove ctx => Sys2Proof.Machine.execSaveAreaMove ctx s
  | .claimDeadlock team => Sys2Proof.Machine.execClaimDeadlock team s
  | .barrierArrival gid => Sys2Proof.Machine.execBarrierArrival gid s
  | .regrpRelocation gid => Sys2Proof.Machine.execRegrpRelocation gid s
  | .wcbIdleDrain entry => Sys2Proof.Machine.execWcbIdleDrain entry s
  | .wcbEntryLand entry => Sys2Proof.Machine.execWcbEntryLand entry s
  | .translation op lane => Sys2Proof.Machine.execTranslation op lane s
  | .atomicPerform op addr => Sys2Proof.Machine.execAtomicPerform op addr s
  | .relMarkStep gid => Sys2Proof.Machine.execRelMarkStep gid s
  | .acqrPromotion gid => Sys2Proof.Machine.execAcqrPromotion gid s
  | .l1Invalidate core line => Sys2Proof.Machine.execL1Invalidate core line s
  | .longWait monitor => Sys2Proof.Machine.execLongWait monitor s
  | .shootdownArrival shoot at_ => Sys2Proof.Machine.execShootdownArrival shoot at_ s
  | .shootdownComplete shoot => Sys2Proof.Machine.execShootdownComplete shoot s
  | .logAppend line slot => Sys2Proof.Machine.execLogAppend line slot s
  | .chiselMove seg => Sys2Proof.Machine.execChiselMove seg s
  | .l2Fill sector gid bad => Sys2Proof.Machine.execL2Fill sector gid bad s
  | .segmentShip seg peer => Sys2Proof.Machine.execSegmentShip seg peer s
  | .replicaApply ship => Sys2Proof.Machine.execReplicaApply ship s
  | .replicaCatchUp ext peer => Sys2Proof.Machine.execReplicaCatchUp ext peer s
  | .matchedSetBreak gid => Sys2Proof.Machine.execMatchedSetBreak gid s
  | .copyWriteLand op part => Sys2Proof.Machine.execCopyWriteLand op part s
  | .copyComplete op => Sys2Proof.Machine.execCopyComplete op s
  | .cpynAbandon op => Sys2Proof.Machine.execCpynAbandon op s
  | .leaseBound team => Sys2Proof.Machine.execLeaseBound team s
  | .sequencerWatchdog stack => Sys2Proof.Machine.execSequencerWatchdog stack s
  | .leaseReestablish team => Sys2Proof.Machine.execLeaseReestablish team s
  | .rowcopy stack => Sys2Proof.Machine.execRowcopy stack s
  | .rowzero stack => Sys2Proof.Machine.execRowzero stack s
  | .bufcopy stack => Sys2Proof.Machine.execBufcopy stack s
  | .abenter stack => Sys2Proof.Machine.execAbenter stack s
  | .bcast stack => Sys2Proof.Machine.execBcast stack s
  | .gemv stack => Sys2Proof.Machine.execGemv stack s
  | .readacc stack => Sys2Proof.Machine.execReadacc stack s
  | .abexit stack => Sys2Proof.Machine.execAbexit stack s
  | .accclr stack => Sys2Proof.Machine.execAccclr stack s
  | .leaseq stack => Sys2Proof.Machine.execLeaseq stack s
  | .rowfill stack => Sys2Proof.Machine.execRowfill stack s
  | .uncorrectableError w => Sys2Proof.Machine.execUncorrectableError w s
  | .unreachable dev => Sys2Proof.Machine.execUnreachable dev s
  | .receiveMessage m => Sys2Proof.Machine.execReceiveMessage m s
  | .packetDrop p => Sys2Proof.Machine.execPacketDrop p s
  | .ldreq p => Sys2Proof.Machine.execLdreq p s
  | .ldrsp p => Sys2Proof.Machine.execLdrsp p s
  | .store p => Sys2Proof.Machine.execStore p s
  | .stack p => Sys2Proof.Machine.execStack p s
  | .atomic p => Sys2Proof.Machine.execAtomic p s
  | .atrsp p => Sys2Proof.Machine.execAtrsp p s
  | .publish p => Sys2Proof.Machine.execPublish p s
  | .puback p => Sys2Proof.Machine.execPuback p s
  | .demand p => Sys2Proof.Machine.execDemand p s
  | .grant p => Sys2Proof.Machine.execGrant p s
  | .discard p => Sys2Proof.Machine.execDiscard p s
  | .start o => Sys2Proof.Machine.execStart o s
  | .startTimeout stage => Sys2Proof.Machine.execStartTimeout stage s
  | .pldmClearFailcnt => Sys2Proof.Machine.execPldmClearFailcnt s
  | .powerCap watts => Sys2Proof.Machine.execPowerCap watts s
  | .throttleStepChange core newStep => Sys2Proof.Machine.execThrottleStepChange core newStep s
  | .rampEnd core => Sys2Proof.Machine.execRampEnd core s
  | .getVersion q => Sys2Proof.Machine.execGetVersion q s
  | .getCapabilities q => Sys2Proof.Machine.execGetCapabilities q s
  | .negotiateAlgorithms q => Sys2Proof.Machine.execNegotiateAlgorithms q s
  | .getDigests q => Sys2Proof.Machine.execGetDigests q s
  | .getCertificate q => Sys2Proof.Machine.execGetCertificate q s
  | .challenge q => Sys2Proof.Machine.execChallenge q s
  | .getMeasurements q => Sys2Proof.Machine.execGetMeasurements q s
  | .qdb q v => Sys2Proof.Machine.execQdb q v s
  | .evdb ctx v => Sys2Proof.Machine.execEvdb ctx v s
  | .q0ring v => Sys2Proof.Machine.execQ0ring v s
  | .sqbind n v => Sys2Proof.Machine.execSqbind n v s
  | .rqbindBind n v => Sys2Proof.Machine.execRqbindBind n v s
  | .rqbindUnbind n => Sys2Proof.Machine.execRqbindUnbind n s
  | .registerWrite off v => Sys2Proof.Machine.execRegisterWrite off v s
  | .launch queue => Sys2Proof.Machine.execLaunch queue s
  | .copy queue => Sys2Proof.Machine.execCopy queue s
  | .signal queue => Sys2Proof.Machine.execSignal queue s
  | .wait queue => Sys2Proof.Machine.execWait queue s
  | .extentCreate queue => Sys2Proof.Machine.execExtentCreate queue s
  | .extentDestroy queue => Sys2Proof.Machine.execExtentDestroy queue s
  | .extentSetrepl queue => Sys2Proof.Machine.execExtentSetrepl queue s
  | .extentQuery queue => Sys2Proof.Machine.execExtentQuery queue s
  | .extentSnap queue => Sys2Proof.Machine.execExtentSnap queue s
  | .extentRevert queue => Sys2Proof.Machine.execExtentRevert queue s
  | .extentSndrop queue => Sys2Proof.Machine.execExtentSndrop queue s
  | .extentPromote queue => Sys2Proof.Machine.execExtentPromote queue s
  | .extentLoad queue => Sys2Proof.Machine.execExtentLoad queue s
  | .saveDrain queue => Sys2Proof.Machine.execSaveDrain queue s
  | .saveForce queue => Sys2Proof.Machine.execSaveForce queue s
  | .resume queue => Sys2Proof.Machine.execResume queue s
  | .replay queue => Sys2Proof.Machine.execReplay queue s
  | .cancelw queue => Sys2Proof.Machine.execCancelw queue s
  | .shoot queue => Sys2Proof.Machine.execShoot queue s
  | .debugArm queue => Sys2Proof.Machine.execDebugArm queue s
  | .debugDisarm queue => Sys2Proof.Machine.execDebugDisarm queue s
  | .debugHaltCmd queue => Sys2Proof.Machine.execDebugHaltCmd queue s
  | .debugRead queue => Sys2Proof.Machine.execDebugRead queue s
  | .debugWrite queue => Sys2Proof.Machine.execDebugWrite queue s
  | .debugCont queue => Sys2Proof.Machine.execDebugCont queue s
  | .debugClrerr queue => Sys2Proof.Machine.execDebugClrerr queue s
  | .part queue => Sys2Proof.Machine.execPart queue s
  | .ctx queue => Sys2Proof.Machine.execCtx queue s
  | .queueBind queue => Sys2Proof.Machine.execQueueBind queue s
  | .queueUnbind queue => Sys2Proof.Machine.execQueueUnbind queue s
  | .ctxend queue => Sys2Proof.Machine.execCtxend queue s
  | .unknownCommand queue => Sys2Proof.Machine.execUnknownCommand queue s
  | .linkLevelAcknowledgement dev => Sys2Proof.Machine.execLinkLevelAcknowledgement dev s

end Sys2Proof.Machine
end

