-- ==== Sys2Proof/Machine/Agenda.lean ====
section
/-!
DEFINITION. What the machine does next (log entries 1, 2, 5, DESIGN CHOICE): a move of the agenda, or, with an empty agenda, the first move of a fixed order that
does something. Nothing here gives an instruction or an event a meaning; it says which one comes.
-/
namespace Sys2Proof.Machine

/-! ## A step of a group -/

/-- Run the first instruction of the words of a clause: what `exec` does with what `decode` reads (Laws/Steps proves that they agree; the words
CALLX to NOP are named because the compiler of Lean cannot build them). Words that cannot be decoded end the group with 0x01; the check of a
clause at issue lets none through (R82). -/
def State.runWords (s : State) (gid : Nat) (ws : List Word) : Host.Outcome State Fault Refusal :=
  match decodeWith (fun i => exec i s) (fun o => execCallx o s) (fun o => execRet o s) (fun o => execExit o s) (fun o => execYield o s)
      (fun o => execNop o s) (fun o => execTrap o s) (fun o => execBrk o s) ws with
  | .ok (x, _) => x
  | .error _ => .next (s.killGroup gid 0x01)

/-- A step of a group: the next word of the clause that it executes, or the issue of a clause (R39, R41). -/
def State.runGroup (s : State) (gid : Nat) : Host.Outcome State Fault Refusal :=
  match s.group? gid with
  | none => .fault .noSuchGroup
  | some g =>
    let s : State := { s with focus := gid }
    match s.current? g with
    | some r => s.runWords gid (r.words.drop r.pos)
    | none => execClauseIssue gid s

/-! ## Which group starts a word (R271) -/

/-- A group with a word to start: resident, in the active set, its team's lease in place, and a run that goes on or tries its word again
(R271, R272, R279). -/
def State.canRun (s : State) (g : Group) : Bool :=
  g.isResident && g.active && !g.ended && s.leaseOpen g && (s.current? g).isSome

/-- A group that can issue a clause. -/
def State.canIssue (s : State) (g : Group) : Bool := s.mayIssue g && (s.issueLanes g).isSome

/-- A group that can start a word now: the next one of a clause of ready lanes, or of a clause that it can issue. -/
def State.canStart (s : State) (g : Group) : Bool := (s.canRun g && (g.goesOn false).any Run.runs) || s.canIssue g

/-- The kernel slot of a group. -/
def State.kslotOf (s : State) (g : Group) : Option Nat := (s.ownerOf g).map (·.kslot)

/-- The kernel slot that the current entry of a core's slot table names. -/
def State.turnOf (s : State) (core : Nat) : Option Nat := (s.core? core).bind fun c => (c.table[c.pointer]?).bind id

/-- The partition of a core is strict. -/
def State.strictOn (s : State) (core : Nat) : Bool := ((s.partOfCluster (s.clusterOf core)).map (·.strict)).getD false

/-- The slot table lets a group start a word in this cycle: the entry is ANY or names its kernel slot, or no group of that slot can start one
and the partition is not strict (R271). -/
def State.hasTurn (s : State) (g : Group) : Bool :=
  match s.turnOf g.core with
  | none => true
  | some j =>
    s.kslotOf g == some j || (!s.strictOn g.core && !(s.groups.any fun h => h.core == g.core && s.kslotOf h == some j && s.canStart h))

/-- No other group of the core that could start a word in this cycle issued less recently (R271). Whether a group's last word or a fetch still occupies it is timing, and
free (log entry 5). -/
def State.isOldest (s : State) (g : Group) : Bool :=
  !(s.groups.any fun h => h.gid != g.gid && h.isResident && h.core == g.core && decide (h.lastIssue < g.lastIssue) && !Config.freeBit s.serial h.gid 57
    && s.canStart h && s.hasTurn h)

/-- The group may start a word in this cycle (R271). -/
def State.mayGo (s : State) (g : Group) : Bool := s.hasTurn g && s.isOldest g

/-- Ready lanes between clauses at a lower address than every ready lane in one come first (R51); against a word that waits and is tried again the choice is
free (log entry 68, DESIGN CHOICE). -/
def State.issuesFirst (s : State) (g : Group) : Bool :=
  s.canIssue g && match s.current? g with
    | some r => !r.blocked || Config.freeBit s.serial g.gid 58
    | none => true

/-- The group may start the next word of a clause in progress (R51, R271). -/
def State.mayStart (s : State) (g : Group) : Bool := s.canRun g && s.mayGo g && !s.issuesFirst g

/-- The group may issue a clause in this cycle (R41, R271). -/
def State.mayBegin (s : State) (g : Group) : Bool := s.canIssue g && s.mayGo g && !s.mayStart g

/-- The group that starts a word: one that may, the next of a clause of ready lanes (R271). -/
def State.nextToRun (s : State) : Option Group :=
  (sortBy (fun (g : Group) => g.lastIssue) (s.groups.filter fun g => (s.current? g).any Run.runs && s.mayStart g)).head?

/-- The agent of a group's words: the next word of a clause that it executes, or a clause that it issues, where the group may; otherwise
nothing happens. -/
def State.turn (s : State) (gid : Nat) : Host.Outcome State Fault Refusal :=
  match s.group? gid with
  | none => .fault .noSuchGroup
  | some g =>
    if s.mayStart g then s.runGroup gid
    else if s.mayGo g then execClauseIssue gid { s with focus := gid }
    else .next s

/-! ## The moves that can come when no group starts a word -/

/-- A move: what it makes of the state. -/
abbrev Try := State → Host.Outcome State Fault Refusal

/-- The lanes and pieces for which an operation may go on. -/
def Op.lanesLeft (o : Op) : List Nat := ((o.parts.map (·.lane)) ++ maskLanes o.counted).foldl addNew []

/-- The moves of an operation. -/
def Op.moves (o : Op) : List Try :=
  (o.lanesLeft.flatMap fun l =>
    [execTranslation o.id l, execAtomicPerform o.id (((o.part? l).map (·.addr)).getD 0), execCopyWriteLand o.id l, execCountedCompletion o.id l])
  ++ [execCopyComplete o.id]

/-- The moves of a stack's sequencer. -/
def stackMoves (k : Nat) : List Try :=
  [execRowcopy k, execRowzero k, execBufcopy k, execAbenter k, execBcast k, execGemv k, execReadacc k, execAbexit k, execAccclr k, execLeaseq k,
   execRowfill k]

/-- The commands that may stand at the head of a queue. -/
def queueMoves (q : Nat) : List Try :=
  [execUnknownCommand q, execLaunch q, execCopy q, execSignal q, execWait q, execSaveDrain q, execSaveForce q, execResume q, execReplay q,
   execCancelw q, execShoot q]
  ++ [execExtentCreate q, execExtentDestroy q, execExtentSetrepl q, execExtentQuery q, execExtentSnap q, execExtentRevert q, execExtentSndrop q,
      execExtentPromote q, execExtentLoad q]
  ++ [execDebugArm q, execDebugDisarm q, execDebugHaltCmd q, execDebugRead q, execDebugWrite q, execDebugCont q, execDebugClrerr q]
  ++ [execPart q, execCtx q, execQueueBind q, execQueueUnbind q, execCtxend q]

/-- The moves of the memory paths and of shootdowns. -/
def State.memoryMoves (s : State) : List Try :=
  ((s.l1.filter fun l => l.stale.isSome).map fun l => execL1Invalidate l.core l.line)
  ++ (s.wcb.map fun e => execWcbIdleDrain e.id) ++ (s.wcb.map fun e => execWcbEntryLand e.id)
  ++ (s.shoots.flatMap fun h => (s.translators.map fun t => execShootdownArrival h.id t) ++ [execShootdownComplete h.id])

/-- The moves of a group that waits at a word, or ends. -/
def Group.moves (g : Group) : List Try :=
  [execRelMarkStep g.gid, execAcqrPromotion g.gid, execBarrierArrival g.gid, execRegrpRelocation g.gid, execGroupEnd g.gid,
   execMatchedSetBreak g.gid, execCollectiveDeadlock g.gid]

/-- The moves of a team. -/
def Team.moves (t : Team) : List Try :=
  [execForcedSave t.tid, execClaimDeadlock t.tid, execLeaseBound t.tid, execLeaseReestablish t.tid]

/-- The moves of the log and of replication. -/
def State.logMoves (s : State) : List Try :=
  (s.dirty.map fun d => execLogAppend d.line d.slot)
  ++ (s.segments.flatMap fun g => [execSegmentShip g.num 0, execSegmentShip g.num 1])
  ++ (s.ships.map fun h => execReplicaApply (.own h.id))
  ++ (s.extents.flatMap fun e => [execReplicaCatchUp e.num 0, execReplicaCatchUp e.num 1])
  ++ (s.segments.map fun g => execChiselMove g.num)

/-- A group tries the word at which it stands again. -/
def State.retryMoves (s : State) : List Try :=
  (s.groups.filter s.mayStart).map fun g => fun s => s.runGroup g.gid

/-- Issue of a clause by a group that has its turn: those that issued least recently first. -/
def State.issueMoves (s : State) : List Try :=
  (sortBy (fun (g : Group) => g.lastIssue) (s.groups.filter s.mayBegin)).map fun g => execClauseIssue g.gid

/-- All of them, in the fixed order. -/
def State.moves (s : State) : List Try :=
  (s.ops.flatMap Op.moves) ++ ((List.range 8).flatMap stackMoves) ++ (s.queues.flatMap fun q => queueMoves q.num)
  ++ s.memoryMoves ++ (s.groups.flatMap Group.moves) ++ (s.teams.flatMap Team.moves)
  ++ (s.ctxs.map fun c => execDrainTimeout c.num) ++ (s.monitors.map fun m => execLongWait m.id)
  ++ (s.cores.map fun c => execActiveSetExchange c.rank) ++ ((s.cores.filter fun c => c.ramp != 0).map fun c => execRampEnd c.rank)
  ++ s.issueMoves ++ s.logMoves ++ s.retryMoves

/-- The first move that does something; the machine idles where none does. -/
def State.firstMove (s : State) : List Try → Host.Outcome State Fault Refusal
  | [] => .next s
  | m :: rest =>
    match m s with
    | .next s' => if s' = s then s.firstMove rest else .next s'
    | r => r

/-- The input of a start that finds every unit in service and no fabric around it. -/
def plainStart : StartInput where
  disabled := { offDies := [], offStacks := [], offClusters := [], offCores := [], offChannels := [], offSlices := [], offUnits := 0, coreUnits := [] }
  devid := 0
  hop1 := []
  hop3 := []
  fault := none

/-- The move of the fixed order: a word of the group whose turn it is, the start of a part that has not started, or the first move that does
something. A part whose start has failed waits for the next start (R402). -/
def State.defaultMove (s : State) : Host.Outcome State Fault Refusal :=
  match s.nextToRun with
  | some g => s.runGroup g.gid
  | none => if s.boot.done then s.firstMove s.moves else if s.boot.failed then .next s else execStart plainStart s

/-- The move that comes next. An instruction word on the agenda is no event, and is dropped: words come from clauses. -/
def State.move (s : State) : Host.Outcome State Fault Refusal :=
  match s.agenda with
  | [] => s.defaultMove
  | .run gid :: rest => { s with agenda := rest }.turn gid
  | .event i :: rest => if encode i = [] then exec i { s with agenda := rest } else .next { s with agenda := rest }

end Sys2Proof.Machine
end

