-- ==== Sys2Proof/Machine/Fetch.lean ====
section
/-!
DEFINITION. A group that is about to execute given words: what stands for a clause that has been fetched and checked (log entry 31, DESIGN CHOICE).
-/
namespace Sys2Proof.Machine

/-- The words of one instruction, from the bits of the table's row: the instruction word and its literals. -/
def rowWords (nbits w : Nat) : List Word :=
  match tableWords nbits w with
  | [] => []
  | x :: rest => x :: rest.take (wordLiterals x)

/-- A team of one group, resident on core 0, at its start: a window, barriers, no reservation. -/
def rowTeam (tid : Nat) : Team where
  tid := tid
  launch := 0
  index := 0
  crew := 0
  state := .resident
  core := 0
  kslot := 0
  wslot := none
  slotRec := 0
  released := false
  budget := 16
  window := 65536
  spad := []
  full := []
  barriers := List.replicate 4 (Barrier.start 1)
  reservations := []
  lease := .none
  lcode := 0
  pub := false
  att := 0
  leaving := false
  inArea := false

/-- The clause that it executes: these words, from the first on, for all lanes. -/
def rowRun (ws : List Word) : Run where
  hdr := 0
  words := ws
  pos := 0
  lanes := 0xFFFFFFFF
  yields := false
  targets := []
  wait := .none
  issue := 0
  ran := []

/-- Its group: 32 lanes, 64 v registers each. -/
def rowGroup (gid tid : Nat) (ws : List Word) : Group where
  gid := gid
  owner := tid
  launchGrp := 0
  lent := 0
  place := .resident 0 0
  lastSlot := 0
  alloc := 64
  lanes := (List.range 32).map fun i => Lane.start 0 tid 0 0 i
  s := List.replicate 64 0
  fpflags := 0
  gang := 0
  mmaCount := 0
  former := []
  runs := [rowRun ws]
  dist := 0
  sfresh := []
  spend := []
  active := true
  yielded := false
  overflowed := false
  lastIssue := 0
  pendingSince := 0
  holds := []
  report := none
  halted := false
  doomed := false
  ended := false

/-- The state with a group that executes the words as its next step. -/
def State.withWords (s : State) (ws : List Word) : State :=
  { s with
    agenda := [.run s.fresh]
    fresh := s.fresh + 2
    groups := rowGroup s.fresh (s.fresh + 1) ws :: s.groups
    teams := rowTeam (s.fresh + 1) :: s.teams }

end Sys2Proof.Machine
end

