-- ==== Sys2Proof/Machine/Step.lean ====
section
/-!
DEFINITION. One step of the part: the move that comes next, then a cycle.
-/
namespace Sys2Proof.Machine

/-- One step. -/
def step (s : State) : Host.Outcome State Fault Refusal :=
  match s.move with
  | .next s' => .next s'.advance
  | .fault r => .fault r
  | .refused r => .refused r

/-- The state with the instruction of a row of the table where the next step runs it: a clause of that one instruction, fetched and checked, at its
first word, for a group and a team that stand in for a launch (log entry 31, DESIGN CHOICE). -/
def State.withFetchWord (s : State) (nbits w : Nat) : State := s.withWords (rowWords nbits w)

end Sys2Proof.Machine
end

