-- ==== Sys2Proof/Safety.lean ====
section
/-!
DEFINITION. The terms in which statements about the part are made: where a word stands, which registers it can rely on, what a word that only
changes registers leaves behind, what a counted word leaves behind, and the canonical form of the memories.
-/
namespace Sys2Proof.Machine

/-! ## Before a word -/

/-- How a word executes where the lanes of its issue have parted (R44, R65, R126, R158, R159, R189, R220, R241, R311): the collective words, the ordering and
cast words, RGIVE, RCLAIM, REGRP and the others that execute once for the issue join; scalar words execute for the first part that comes. -/
def shareOf : Instr → Share
  | .sadd _ | .ssub _ | .smul _ | .smulhn _ | .sand _ | .sor _ | .sxor _ | .sandn _ | .sshl _ | .sshr _ | .ssar _
  | .smin _ | .smax _ | .sminu _ | .smaxu _ | .saddi _ | .slit _ _ | .slitW64 _ _ _ | .slea _ => .first
  | .shflIdx _ | .shflUp _ | .shflDown _ | .shflXor _ | .vall _ | .vany _ | .ballot _ | .pand _ | .por _ | .pxor _ | .pset _ | .vmatch _
  | .gredAdd _ | .gredMin _ | .gredMax _ | .gredMinu _ | .gredMaxu _ | .gredFadd _ | .gredFmin _ | .gredFmax _
  | .scani _ | .scanx _ | .scanf _ | .scanfx _ | .scanmax _ | .scanmin _ | .segscan _
  | .rdln _ | .rdsr _ | .wrsr _ | .ldSc _ | .stSc _
  | .gang _ | .obres _ | .obrel _ | .tfetch _ | .mma _ | .mmaq _ | .accz _ | .acczD _ | .cpyt _ | .cpyn _ | .nmc _
  | .bari _ | .bara _ | .barw _ | .bars _ | .barb _ | .regrpTeam _ | .regrpCore _ | .rgive _ | .rclaim _
  | .rel _ | .acq _ | .acqr _ | .fence _ | .fencex _ | .waitc _ | .snap _ | .revert _ | .sndrop _ => .joined
  | _ => .each

/-- Group g stands in the focus and its run r is about to execute a word; no replay report waits for g (R288), no other part of the issue has executed the word for
it, and a word that executes once for the issue finds all its lanes together (log entry 68). -/
structure AtWord (s : State) (g : Group) (r : Run) (share : Share := .each) : Prop where
  focus : s.group? s.focus = some g
  run : s.current? g = some r
  calm : g.report = none
  first : r.ran.contains r.pos = false
  whole : share = .joined → g.parted r = false

/-- A recent result of a lane is due: every read of it comes at an issue distance of its latency at least (R76, R78). -/
def Due (g : Group) (l : Nat) (f : Fresh) : Prop :=
  f.lat ≤ g.dist - f.group0 ∧ (f.own = true → f.lat ≤ (g.lane l).dist - f.lane0)
/-- The same for an s register (R126). -/
def DueS (g : Group) (f : SFresh) : Prop :=
  f.lat ≤ g.dist - f.group0 ∧ ∀ l, inMask f.issuers l = true → f.lat ≤ (g.lane l).dist - f.lane0.getD l 0

/-- Every recent result of a register that a word uses is due, and none of them is pending (R78, R80): its operands are what the registers
hold. -/
structure Settled (g : Group) (u : Uses) : Prop where
  fresh : ∀ l, ∀ n ∈ u.vr ++ u.vw ++ u.names, ∀ f ∈ (g.lane l).fresh, f.reg = n → Due g l f
  pend : ∀ l, ∀ n ∈ u.vr ++ u.vw ++ u.names, ∀ p ∈ (g.lane l).pend, p.reg ≠ n
  sfresh : ∀ n ∈ u.sr ++ u.sw, ∀ f ∈ g.sfresh, f.reg = n → DueS g f
  spend : ∀ n ∈ u.sr ++ u.sw, n ≠ 0 → ∀ p ∈ g.spend, p.reg ≠ n

/-- The lanes of the split that executes the word, ascending. -/
def Group.splitOf (g : Group) (r : Run) : List Nat := (maskLanes r.lanes).filter fun l => !(g.lane l).exited
/-- Issue: the lanes of the split whose guard is true (R8, R65). -/
def Group.issueOf (g : Group) (r : Run) (p : Nat) : List Nat := (g.splitOf r).filter fun l => (g.lane l).getP p

/-- v register n of lane l. -/
def Group.vr (g : Group) (l n : Nat) : Word := (g.lane l).getV n
/-- The pair of v registers at n (R125). -/
def Group.vr64 (g : Group) (l n : Nat) : DWord := Word.pair (g.vr l n) (g.vr l (n + 1))
/-- The b operand of a 32-bit word: a v register, or the low half of an s register (R66). -/
def Group.opB (g : Group) (l b : Nat) (s : Bool) : Word := if s then Word.lo (g.getS b) else g.vr l b
/-- The b operand of a 64-bit word. -/
def Group.opB64 (g : Group) (l b : Nat) (s : Bool) : DWord := if s then g.getS b else g.vr64 l b

/-- The context in which a word executes. -/
def ctxOf (s : State) (g : Group) (r : Run) (p : Option Nat) : Ctx :=
  { s := s, g := g, r := r, issue := match p with
    | none => g.splitOf r
    | some q => g.issueOf r q }

/-! ## After a word -/

/-- Registers with some of them set, in order. -/
def setAll {α : Type} (xs : List α) (ws : List (Nat × α)) : List α := ws.foldl (fun xs w => xs.set w.1 w.2) xs
/-- The same for registers whose number 0 discards what is written (p0, s0: R8). -/
def setAll0 {α : Type} (xs : List α) (ws : List (Nat × α)) : List α := setAll xs (ws.filter fun w => w.1 != 0)

/-- What a word writes: v registers and predicates of each lane, s registers, flags. -/
structure Writes where
  v : Nat → List (Nat × Word) := fun _ => []
  p : Nat → List (Nat × Bool) := fun _ => []
  s : List (Nat × DWord) := []
  flags : Flags := 0

/-- Lane l of a group after a word: its registers are written, its place and its count of issued words may change, nothing else does. -/
structure LaneWrote (x y : Lane) (v : List (Nat × Word)) (p : List (Nat × Bool)) : Prop where
  v : y.v = setAll x.v v
  p : y.p = setAll0 x.p p
  rest : y = { x with v := y.v, p := y.p, vpc := y.vpc, dist := y.dist, fresh := y.fresh }

/-- A group after a word that only writes registers. -/
structure GroupWrote (g h : Group) (w : Writes) : Prop where
  lanes : ∀ l, LaneWrote (g.lane l) (h.lane l) (w.v l) (w.p l)
  s : h.s = setAll0 g.s w.s
  flags : h.fpflags = g.fpflags ||| w.flags
  rest : h = { g with lanes := h.lanes, s := h.s, fpflags := h.fpflags, runs := h.runs, dist := h.dist, sfresh := h.sfresh,
                      active := h.active, yielded := h.yielded, pendingSince := h.pendingSince }

/-- The state after a word of group g that only writes registers: no byte of memory, no other group and no other object changes. -/
structure Wrote (s t : State) (g : Group) (w : Writes) : Prop where
  rest : t = { s with groups := t.groups }
  others : ∀ n, n ≠ g.gid → t.group? n = s.group? n
  group : ∃ h, t.group? g.gid = some h ∧ GroupWrote g h w

/-- A word completes, wherever it stands, with the writes that the group's registers determine. -/
def Completes (i : Instr) (w : State → Group → Run → Writes) : Prop :=
  ∀ s g r, AtWord s g r (shareOf i) → Settled g (usesOf i) → ∃ t, exec i s = .next t ∧ Wrote s t g (w s g r)

/-- It writes v register d of every lane of Issue, and nothing else. -/
def SetsV (i : Instr) (guard d : Nat) (f : Group → Nat → Word) : Prop :=
  Completes i fun _ g r => { v := fun l => if l ∈ g.issueOf r guard then [(d, f g l)] else [] }

/-- It writes the pair of v registers at d of every lane of Issue, and nothing else. -/
def SetsPair (i : Instr) (guard d : Nat) (f : Group → Nat → DWord) : Prop :=
  Completes i fun _ g r =>
    { v := fun l => if l ∈ g.issueOf r guard then [(d, Word.lo (f g l)), (d + 1, Word.hi (f g l))] else [] }

/-- The union of the flags that the lanes of Issue raise. -/
def unionOver (ls : List Nat) (f : Nat → Flags) : Flags := ls.foldl (fun a l => a ||| f l) 0

/-- It writes v register d of every lane of Issue with a rounded result, whose flags accrue (R112, R113). -/
def SetsF (i : Instr) (guard d : Nat) (f : Group → Nat → Nat × Flags) : Prop :=
  Completes i fun _ g r =>
    { v := fun l => if l ∈ g.issueOf r guard then [(d, BitVec.ofNat 32 (f g l).1)] else []
      flags := unionOver (g.issueOf r guard) fun l => (f g l).2 }

/-- The same with a pair as result. -/
def SetsF64 (i : Instr) (guard d : Nat) (f : Group → Nat → Nat × Flags) : Prop :=
  Completes i fun _ g r =>
    { v := fun l => if l ∈ g.issueOf r guard then
        [(d, BitVec.ofNat 32 (f g l).1), (d + 1, BitVec.ofNat 32 ((f g l).1 / 2 ^ 32))] else []
      flags := unionOver (g.issueOf r guard) fun l => (f g l).2 }

/-- It writes s register d once, whichever lanes execute it, and nothing else (R126). -/
def SetsS (i : Instr) (d : Nat) (f : Group → DWord) : Prop := Completes i fun _ g _ => { s := [(d, f g)] }

/-- It writes predicate d of every lane of Issue, and nothing else. -/
def SetsP (i : Instr) (guard d : Nat) (f : Group → Nat → Bool) : Prop :=
  Completes i fun _ g r => { p := fun l => if l ∈ g.issueOf r guard then [(d, f g l)] else [] }

/-! ## Values -/

/-- The value of the range nearest to x (R95). -/
def clampInt (lo hi x : Int) : Int := max lo (min hi x)
/-- The element of n bits at place i of a register (R94). -/
def element (n : Nat) (x : Word) (i : Nat) : BitVec n := x.extractLsb' (n * i) n
/-- The dot product of the four bytes of two registers (R137). -/
def dotBytes (f : BitVec 8 → Int) (h : BitVec 8 → Int) (a b : Word) : Int :=
  f (element 8 a 0) * h (element 8 b 0) + f (element 8 a 1) * h (element 8 b 1) + f (element 8 a 2) * h (element 8 b 2)
    + f (element 8 a 3) * h (element 8 b 3)
/-- A byte as N8. -/
def byteNat (x : BitVec 8) : Int := x.toNat
/-- The lanes of a group that are present and whose predicate is true, ascending (R165). -/
def Group.contributors (g : Group) (p : Nat) : List Nat := g.alive.filter fun l => (g.lane l).getP p
/-- The values of register n in some lanes. -/
def Group.column (g : Group) (ls : List Nat) (n : Nat) : List Word := ls.map fun l => g.vr l n
/-- The mask of the lanes of a list. -/
def laneMask (ls : List Nat) : Word := maskOf ls

/-- Two results side by side in one register, with the union of their flags (R94, R113). -/
def twoHalves (x y : Nat × Flags) : Nat × Flags := (x.1 + y.1 * 2 ^ 16, x.2 ||| y.2)
/-- Two results in a pair of registers. -/
def twoWords (x y : Nat × Flags) : Nat × Flags := (x.1 + y.1 * 2 ^ 32, x.2 ||| y.2)

/-- R74: what a compare makes of pd1 and pd2; none where both are unchanged. -/
def combined (k : Nat) (guard c : Bool) : Option (Bool × Bool) :=
  match k with
  | 0 => if guard then some (c, !c) else none
  | 1 => some (guard && c, guard && !c)
  | 2 => if guard && !c then some (false, false) else none
  | 3 => if guard && c then some (true, true) else none
  | 4 => if guard && c then some (false, false) else none
  | 5 => if guard && !c then some (true, true) else none
  | 6 => if guard && c then some (true, false) else none
  | 7 => if guard && !c then some (false, true) else none
  | _ => none

/-- A compare writes its two predicates in the lanes of its split as R74 says, raises the flags of its operands in Issue, and changes nothing
else. -/
def CompareWrites (i : Instr) (o : ArgsCmp) (c : Group → Nat → Bool) (f : Group → Nat → Flags) : Prop :=
  Completes i fun _ g r =>
    { p := fun l => if l ∈ g.splitOf r then
        (match combined o.k ((g.lane l).getP o.g) (c g l) with
          | some (x, y) => [(o.p, x), (o.q, y)]
          | none => []) else []
      flags := unionOver (g.issueOf r o.g) (f g) }

/-- NV where an operand is a signalling NaN (R109). -/
def signalling (t : Fmt) (a b : Nat) : Flags := if (t.value a).isSnan || (t.value b).isSnan then fNV else 0

/-! ## Memory -/

/-- The published image and host memory are in canonical form. -/
structure MemoriesOk (s : State) : Prop where
  image : Memory.wf s.image = true
  host : Memory.wf s.hostMem = true

/-- Every byte of local logical space and of host memory reads as before. -/
def SameMemory (s t : State) : Prop := ∀ a, t.image.get a = s.image.get a ∧ t.hostMem.get a = s.hostMem.get a

/-! ## Counted words (R79, R80) -/

/-- A group after the issue of a counted word: the counters of its lanes are one higher, its destinations are pending on the operation, and no
register changes. `k` is what the word does to the group beside that. -/
structure GroupAsked (g h : Group) (k : Group → Group) (q : Request) (id : Nat) : Prop where
  lanes : ∀ l, h.lane l = { g.lane l with
    sb := if l ∈ q.lanes then (g.lane l).sb.set q.ctr ((g.lane l).counter q.ctr + 1) else (g.lane l).sb
    pend := (g.lane l).pend ++ (q.dests.filter fun d => d.1 == l).map fun d => { reg := d.2, ctr := q.ctr, op := id, mx := q.mx, keep := false }
    vpc := (h.lane l).vpc
    dist := (h.lane l).dist
    fresh := (h.lane l).fresh }
  spend : h.spend = g.spend ++ (q.sdests.filter (· != 0)).map fun r => { reg := r, ctr := q.ctr, op := id, lanes := 0xFFFFFFFF, keep := false }
  rest : h = { k g with
    lanes := h.lanes
    spend := h.spend
    runs := h.runs
    dist := h.dist
    active := h.active
    yielded := h.yielded
    pendingSince := h.pendingSince }

/-- The operation that a counted word leaves outstanding. -/
def Request.op (q : Request) (s : State) (g : Group) : Op where
  id := s.fresh
  gid := g.gid
  team := q.team.getD ((g.lane (q.lanes.headD 0)).team)
  ctx := s.ctxOfGroup g
  ctr := q.ctr
  kind := q.kind
  parts := q.parts
  counted := laneMask q.lanes
  point := s.pubs
  aux := 0

/-- The state after the issue of a counted word of group g: no byte of memory changes. -/
structure Asked (s t : State) (g : Group) (k : Group → Group) (q : Request) : Prop where
  rest : t = { s with
    groups := t.groups
    ops := s.ops ++ [q.op s g]
    fresh := s.fresh + 1 }
  others : ∀ n, n ≠ g.gid → t.group? n = s.group? n
  group : ∃ h, t.group? g.gid = some h ∧ GroupAsked g h k q s.fresh

/-- A counted word. Where its operands are as it needs them and no counter of its lanes stands at 63 it issues; with no lane it only passes; and
while a counter of one of its lanes stands at 63 it is held (R79). -/
def Asks (i : Instr) (k : Group → Group) (need : State → Group → Run → Prop) (q : State → Group → Run → Request) : Prop :=
  ∀ s g r, AtWord s g r (shareOf i) → Settled g (usesOf i) →
    (need s g r → (q s g r).lanes ≠ [] → (∀ l ∈ (q s g r).lanes, (g.lane l).counter (q s g r).ctr ≠ 63) →
      ∃ t, exec i s = .next t ∧ Asked s t g k (q s g r)) ∧
    (need s g r → (q s g r).lanes = [] → ∃ t, exec i s = .next t ∧ Wrote s t g {}) ∧
    ((∃ l ∈ (q s g r).lanes, (g.lane l).counter (q s g r).ctr = 63) →
      exec i s = .next (s.putGroup (g.rotate r { r with wait := .retry })))

/-- The address of a global access in a lane (R186, R190). -/
def Group.address (g : Group) (wide : Bool) (l base idx : Nat) : Nat :=
  (g.getS base + if wide then g.vr64 l idx else (g.vr l idx).setWidth 64).toNat
/-- The window offset of a scratchpad access in a lane (R183). -/
def Group.offset (g : Group) (l base idx : Nat) : Nat := (Word.lo (g.getS base) + g.vr l idx).toNat
/-- n registers of a lane from register t on, the first one lowest. -/
def Group.bundle (g : Group) (l t n : Nat) : BitVec 128 := BitVec.ofNat 128 ((List.range n).map fun j => (g.vr l (t + j)).toNat * 2 ^ (32 * j)).sum
/-- The bytes of the window of the team whose tag a lane carries. -/
def State.windowOf (s : State) (g : Group) (l : Nat) : Nat := ((s.team? (g.lane l).team).map (·.window)).getD 0
/-- The v registers of lanes that receive a value of that many bytes from register t on. -/
def receivers (ls : List Nat) (t size : Nat) : List (Nat × Nat) := ls.flatMap fun l => (List.range ((size + 3) / 4)).map fun j => (l, t + j)

/-- R173, checks 1 and 2: canonical and aligned. -/
abbrev Canonical (a size : Nat) : Prop := a < 2 ^ 56 ∧ a % size = 0
/-- R183: aligned, and within a window of w bytes. -/
abbrev InWindow (w o size : Nat) : Prop := o % size = 0 ∧ o + size ≤ w

/-- A load of `size` bytes for each lane of Issue (R187, R190). -/
def AsksLoad (i : Instr) (o : ArgsM) (size : Nat) (sext wide : Bool) : Prop :=
  Asks i id (fun _ g r => ∀ l ∈ g.issueOf r o.g, Canonical (g.address wide l o.base o.idx) size) fun _ g r =>
    { kind := .load size sext o.t, ctr := o.ctr, lanes := g.issueOf r o.g
      parts := (g.issueOf r o.g).map fun l => Part.new l (g.address wide l o.base o.idx) size
      dests := receivers (g.issueOf r o.g) o.t size }

/-- A store of `size` bytes for each lane of Issue (R188, R190). -/
def AsksStore (i : Instr) (o : ArgsM) (size : Nat) (wide : Bool) : Prop :=
  Asks i id (fun _ g r => ∀ l ∈ g.issueOf r o.g, Canonical (g.address wide l o.base o.idx) size) fun _ g r =>
    { kind := .store size, ctr := o.ctr, lanes := g.issueOf r o.g
      parts := (g.issueOf r o.g).map fun l => Part.new l (g.address wide l o.base o.idx) size (g.bundle l o.t ((size + 3) / 4)) }

/-- A word of the scratchpad for each lane of Issue (R183): what each lane brings, and the register from which on it receives. -/
def AsksSpad (i : Instr) (guard base idx ctr size : Nat) (kind : OpKind) (data : Group → Nat → BitVec 128) (recv : Option (Nat × Nat)) : Prop :=
  Asks i id (fun s g r => ∀ l ∈ g.issueOf r guard, InWindow (s.windowOf g l) (g.offset l base idx) size) fun _ g r =>
    { kind := kind, ctr := ctr, lanes := g.issueOf r guard
      parts := (g.issueOf r guard).map fun l => Part.new l (g.offset l base idx) size (data g l)
      dests := match recv with
        | some (t, n) => receivers (g.issueOf r guard) t n
        | none => [] }

/-- A global atomic on elements of `size` bytes: the operands of each lane, and the new value of CAS (R195, R196). -/
def AsksAtomic (i : Instr) (o : ArgsM) (op : AtomOp) (size : Nat) (new : Group → Nat → BitVec 128) : Prop :=
  Asks i id (fun _ g r => ∀ l ∈ g.issueOf r o.g, Canonical (g.address false l o.base o.idx) size) fun _ g r =>
    { kind := .atomic op size o.t, ctr := o.ctr, lanes := g.issueOf r o.g
      parts := (g.issueOf r o.g).map fun l =>
        Part.new l (g.address false l o.base o.idx) size (g.bundle l o.t (size / 4)) (new g l)
      dests := receivers (g.issueOf r o.g) o.t size }

/-- A bank command: FB stands in bits 33 and 32 of the base register (R324 to R326). -/
def AsksBank (i : Instr) (o : ArgsM) (op : BankOp) (size : Nat) : Prop :=
  Asks i id
    (fun s g r => field (g.getS o.base).toNat 32 2 ≠ 3 ∧ ∀ l ∈ g.issueOf r o.g, InWindow (s.windowOf g l) (g.offset l o.base o.idx) size)
    fun _ g r =>
    { kind := .bank op (field (g.getS o.base).toNat 32 2), ctr := o.ctr, lanes := g.issueOf r o.g
      parts := (g.issueOf r o.g).map fun l => Part.new l (g.offset l o.base o.idx) size (g.bundle l o.t (size / 4)) }

/-- A matrix word that carries nothing for single lanes: it counts for every lane that has not exited and acts for the owner of the slot. -/
def AsksMx (i : Instr) (ctr : Nat) (k : Group → Group) (need : State → Group → Prop) (kind : Group → OpKind) (parts : Group → List Part)
    (regs sregs : List Nat) : Prop :=
  Asks i k (fun s g _ => need s g) fun _ g _ =>
    { kind := kind g, ctr := ctr, lanes := g.alive, parts := parts g, mx := true, team := some g.owner, sdests := sregs
      dests := g.alive.flatMap fun l => regs.map fun n => (l, n) }

/-! ## Faults (R55, R283, R284) -/

/-- %errst after one more recorded event (R283). -/
structure ErrstAfter (e e' : DWord) (code t : Nat) : Prop where
  err : e'.getLsbD 63 = true
  nflt : field e'.toNat 48 15 = min 0x7FFF (field e.toNat 48 15 + 1)
  last : field e'.toNat 40 8 = code
  first : field e'.toNat 32 8 = if e.getLsbD 63 then field e.toNat 32 8 else code
  fteam : field e'.toNat 0 32 = if e.getLsbD 63 then field e.toNat 0 32 else t % 2 ^ 32

/-- The 32 bytes of an event record (R284). -/
structure RecordAt (m : Memory) (a : Nat) (e : EventInfo) (seq : Nat) : Prop where
  kind : m.nat a 1 = e.kind % 256
  code : m.nat (a + 1) 1 = e.code % 256
  acc : m.nat (a + 2) 1 = e.acc % 256
  core : m.nat (a + 3) 1 = e.core % 256
  place : m.nat (a + 4) 2 = e.grp % 64 + e.kslot % 4 * 64
  launch : m.nat (a + 6) 2 = e.launchid % 2 ^ 16
  team : m.nat (a + 8) 4 = e.teamidx % 2 ^ 32
  seq : m.nat (a + 12) 4 = seq % 2 ^ 32
  vaddr : m.nat (a + 16) 8 = e.vaddr % 2 ^ 64
  mask : m.nat (a + 24) 4 = e.mask.toNat
  zero : m.nat (a + 28) 4 = 0

/-- An event of a context takes the next number and stands in the ring at the tail, unless the ring is full (R284). -/
def Recorded (s t : State) (ctx : Nat) (e : EventInfo) : Prop :=
  ∀ c, s.ctx? ctx = some c → ∃ d, t.ctx? ctx = some d ∧ d.seq = (c.seq + 1) % 2 ^ 32 ∧ d.evhead = c.evhead ∧
    (c.ringFull = false → d.evtail = (c.evtail + 1) % 2 ^ c.evn ∧
      (Memory.wf s.hostMem = true → RecordAt t.hostMem (c.evring + 32 * c.evtail) e c.seq)) ∧
    (c.ringFull = true → d.evtail = c.evtail ∧ t.hostMem = s.hostMem)

/-- What goes on of a group that has ended: a part of a bank command that its bank has begun to apply, which no lane counts (R336). -/
abbrev Op.begun (o : Op) : Prop := o.counted = 0 ∧ ∃ b n, o.kind = .bank b n

/-- What Kill(group, code) leaves (R55, R281, R283, R284, R336): every lane of the group has exited with no counter and no clause, nothing of it is
outstanding but what a bank has begun, one event is recorded, and no byte of local memory changes. -/
structure Killed (s t : State) (g : Group) (code : Nat) (f : FaultInfo) : Prop where
  image : t.image = s.image
  group : ∃ h, t.group? g.gid = some h ∧ h.alive = [] ∧ h.runs = [] ∧ ∀ x ∈ h.lanes, x.exited = true ∧ x.sb = List.replicate 4 0
  ops : ∀ o ∈ t.ops, o.gid = g.gid → o.begun
  monitors : ∀ m ∈ t.monitors, m.gid ≠ some g.gid
  errst : ∀ c, s.ctx? (s.ctxOfGroup g) = some c → ∃ d, t.ctx? c.num = some d ∧
    ErrstAfter c.errst d.errst code (((s.ownerOf g).map (·.index)).getD 0)
  record : Recorded s t (s.ctxOfGroup g) (s.groupEvent g 1 code f.acc (f.mask.getD (laneMask g.alive)) f.vaddr)

/-- R173: the code of the first check that an address fails at issue. -/
def addressCode (a size : Nat) : Option Nat := if 2 ^ 56 ≤ a then some 0x08 else if a % size ≠ 0 then some 0x06 else none
/-- R183: the code of the first check that an offset in a window of w bytes fails. -/
def offsetCode (w o size : Nat) : Option Nat := if o % size ≠ 0 then some 0x06 else if w < o + size then some 0x07 else none

/-- A word with a lane of Issue that fails a check makes no access: its group ends with the code of the lowest failing lane, and the record
names every failing lane (R173, R183, R284). -/
def FaultsBy (i : Instr) (guard ctr acc : Nat) (need : Group → Prop) (code : State → Group → Nat → Option Nat) (va : Group → Nat → Nat) : Prop :=
  ∀ s g r, AtWord s g r (shareOf i) → Settled g (usesOf i) → need g → g.ended = false → (∀ l ∈ g.issueOf r guard, (g.lane l).counter ctr ≠ 63) →
    ∀ l ∈ g.issueOf r guard, ∀ c, code s g l = some c → (∀ m ∈ g.issueOf r guard, m < l → code s g m = none) →
      ∃ t, exec i s = .next t ∧
        Killed s t g c { mask := some (laneMask ((g.issueOf r guard).filter fun m => (code s g m).isSome)), vaddr := va g l, acc := acc }

/-! ## Completion of accesses -/

/-- The writer slot of the team whose tag a lane carries. -/
def State.slotOf (s : State) (g : Group) (l : Nat) : Nat := ((s.team? (g.lane l).team).map Team.slot).getD Config.writerSlots
/-- The writes of n registers from register t on with a value. -/
def spread (t n x : Nat) : List (Nat × Word) := (List.range n).map fun j => (t + j, BitVec.ofNat 32 (x / 2 ^ (32 * j)))

/-- A group after an access of lane l has completed: the lane's registers are written and its counter is one lower; nothing else changes. -/
structure Delivered (g h : Group) (l ctr : Nat) (ws : List (Nat × Word)) : Prop where
  v : (h.lane l).v = setAll (g.lane l).v ws
  counter : (h.lane l).counter ctr = (g.lane l).counter ctr - 1
  p : (h.lane l).p = (g.lane l).p
  others : ∀ m, m ≠ l → h.lane m = g.lane m
  s : h.s = g.s
  runs : h.runs = g.runs

/-- The part of lane l of an operation can be performed: its group stands on a core, the lane counts for it, and nothing that it follows is left. -/
structure CanPerform (s : State) (o : Op) (p : Part) (g : Group) : Prop where
  op : s.op? o.id = some o
  part : o.part? p.lane = some p
  group : s.group? o.gid = some g
  here : g.place ≠ .saved
  counts : p.lane ∈ maskLanes o.counted
  alive : (g.lane p.lane).exited = false
  counter : o.ctr < (g.lane p.lane).sb.length
  kept : ∀ e ∈ (g.lane p.lane).pend, e.op = o.id → e.keep = false
  free : s.blocked o p = false

/-- No LDF and no STSF is outstanding. -/
abbrev NoFullWaits (s : State) : Prop := ∀ e ∈ s.ops, e.kind ≠ .stsf ∧ ∀ n c t, e.kind ≠ .ldf n c t

/-- Byte k of a number. -/
def byteOf (x k : Nat) : Byte := BitVec.ofNat 8 (x / 256 ^ k)

/-! ## Words that wait, and words that move lanes -/

/-- A word has issued and its run waits at it; no register and no byte of memory changes. -/
structure Waits (s t : State) (g : Group) (r : Run) (w : Wait) : Prop where
  rest : t = { s with groups := t.groups }
  others : ∀ n, n ≠ g.gid → t.group? n = s.group? n
  group : ∃ h, t.group? g.gid = some h ∧ { r with wait := w } ∈ h.runs ∧ GroupWrote g h {}

/-- Some lanes of a word wait in a run of their own; the others go on past it. -/
structure Forked (s t : State) (g : Group) (ls : List Nat) (w : Wait) : Prop where
  others : ∀ n, n ≠ g.gid → t.group? n = s.group? n
  group : ∃ h, t.group? g.gid = some h ∧ (∃ x ∈ h.runs, x.lanes = laneMask ls ∧ x.wait = w) ∧ GroupWrote g h {}

/-- The word is the last of its clause, and no word before it has set a target. -/
abbrev Last (r : Run) : Prop := r.words.length = r.pos + 1 ∧ r.targets = []

/-- No other run of the group holds a lane of r. -/
abbrev Apart (g : Group) (r : Run) : Prop := ∀ x ∈ g.runs, x ≠ r → x.lanes &&& r.lanes = 0

/-- The lanes of a split after the last word of their clause: where each stands, with which call stack; no register changes. -/
structure Jumped (s t : State) (g : Group) (r : Run) (vpc : Nat → DWord) (stack : Nat → List DWord) : Prop where
  memory : SameMemory s t
  others : ∀ n, n ≠ g.gid → t.group? n = s.group? n
  group : ∃ h, t.group? g.gid = some h ∧ h.s = g.s ∧ h.fpflags = g.fpflags ∧
    ∀ l ∈ g.splitOf r, h.lane l = { g.lane l with
      vpc := vpc l
      stack := stack l
      dist := (h.lane l).dist
      fresh := (h.lane l).fresh }

/-- The target of BRA and CALL (R204). -/
def Run.target (r : Run) (disp : BitVec 21) : DWord := r.hdr + BitVec.ofInt 64 (4 * disp.toInt)

/-- A team's stores at the home slices and in the buffers, and its mark, after a mark step (R236, R243): everything pending under its slot is
published at once, and nothing stays pending. -/
structure Published (s t : State) (slot : Nat) : Prop where
  image : let b := (s.landWhere fun e => e.slot == slot)
    t.image = b.image.overlay (b.definedBytes (b.pendingOf slot))
  pending : t.pendingOf slot = []
  mark : t.mark slot = s.mark slot + 1

/-! ## Teams, calls and commands that end -/

/-- A team is placed again after a kill (R281): its kernel asks for task records, it has published nothing, and it has attempts left. -/
def State.again (s : State) (tm : Team) : Bool := ((s.launchOf tm).map (·.taskrec)).getD false && !tm.pub && decide (tm.att < 3)

/-- What Kill(team, code) leaves (R55, R239, R281, R283): no lane with its tag is alive, nothing of it is pending, no byte of memory that was
published changes, and its record keeps the code. -/
structure TeamEnded (s t : State) (tm : Team) (code : Nat) : Prop where
  image : t.image = s.image
  lanes : ∀ h ∈ t.groups, ∀ x ∈ h.lanes, x.team = tm.tid → x.exited = true
  pending : ∀ w, tm.wslot = some w → t.pendingOf w = [] ∧ ∀ e ∈ t.wcb, e.slot ≠ w
  kept : ∀ u, t.team? tm.tid = some u → u.lcode = code ∧ u.spad = [] ∧
    (s.again tm = true → u.state = .waiting ∧ u.att = tm.att + 1 ∧ u.wslot = tm.wslot) ∧ (s.again tm = false → u.state = .killed ∧ u.wslot = none)
  errst : ∀ c, s.ctx? (s.ctxOfTeam tm) = some c → ∃ d, t.ctx? c.num = some d ∧ ErrstAfter c.errst d.errst code tm.index

/-- Every group stands once, with 32 lanes. -/
abbrev GroupsOk (s : State) : Prop := (s.groups.map (·.gid)).Nodup ∧ ∀ g ∈ s.groups, g.lanes.length = 32

/-- A near-memory call is over (R376, R377): its place in the queue is gone, its outcome is known, and the completion that is due next, whichever lane it names,
writes its status to register t, ends its operation, and changes no byte of memory. -/
structure CallDone (u : State) (o : Op) (t status : Nat) : Prop where
  queue : ∀ c ∈ u.calls, c.2 ≠ o.id
  known : ∃ v, u.op? o.id = some v ∧ ∀ p ∈ v.parts, p.isDone = true
  completes : ∀ lane, ∃ w h, exec (.countedCompletion o.id lane) u = .next w ∧ SameMemory u w ∧ w.op? o.id = none ∧ w.group? o.gid = some h ∧
    h.getS t = BitVec.ofNat 64 status

/-- A sequencer is about to perform a call, of which it has done nothing yet: entry e with its arguments, for a group that stands on a core. -/
structure AtCall (s : State) (stack : Nat) (o : Op) (e : Nat) (args : List Word) (t : Nat) : Prop where
  call : s.callAt stack = some o
  kind : o.kind = .nmc e args t
  reg : 0 < t ∧ t < 63
  group : ∃ g, s.group? o.gid = some g ∧ g.place ≠ .saved ∧ g.s.length = 64 ∧ ∀ p ∈ g.spend, p.op = o.id → p.keep = false
  fresh : ∀ r ∈ s.seqs, r.op ≠ o.id

/-- A sequencer has begun a call, for a group that stands on a core. -/
structure InCall (s : State) (stack : Nat) (r : CallRun) (o : Op) (t : Nat) : Prop where
  run : s.begun stack = some r
  call : s.op? r.op = some o
  kind : ∃ e args, o.kind = .nmc e args t
  reg : 0 < t ∧ t < 63
  group : ∃ g, s.group? o.gid = some g ∧ g.place ≠ .saved ∧ g.s.length = 64 ∧ ∀ p ∈ g.spend, p.op = o.id → p.keep = false

/-- An address of an extent stands in n rows from a row on, in the banks of a mask (R308). -/
abbrev inRows (ext row n : Nat) (banks : List Nat) (a : Nat) : Prop :=
  extentOf a = ext ∧ row ≤ a / 2 ^ 14 % 4096 ∧ a / 2 ^ 14 % 4096 < row + n ∧ a / 2 ^ 5 % 16 ∈ banks

/-- The command of a form stands at the head of a queue and can start (R257 to R259). -/
structure Starts (s : State) (queue : Nat) (q : Queue) (x : Nat) (fm : Nat × Nat) (fields : List (Nat × Nat)) : Prop where
  next : s.nextCommand queue = some (q, x)
  form : commandForm x = fm
  named : namedOnly fields x = true
  allowed : allowedOn fm.1 queue = true
  free : ∀ c ∈ q.running, c.slot ≠ q.head

/-- The command at the head of a queue has started and completed (R257): its completion word is written, the head has passed its slot, it is
outstanding no more, and an interrupt is raised if it asked for one. -/
structure Done (s t : State) (q : Queue) (x status : Nat) : Prop where
  word : Memory.wf s.hostMem = true → t.hostMem.nat (q.slotAddr q.head + 56) 8 = 2 ^ 63 + field x 32 32 * 2 ^ 8 + status
  queue : t.queue? q.num = some { q with head := (q.head + 1) % 2 ^ q.n }

/-- It has completed and done nothing else, but that every start of a LAUNCH or RESUME is a dispatch opportunity (R267). -/
structure OnlyDone (s t : State) (q : Queue) (x status : Nat) : Prop where
  done : Done s t q x status
  rest : t = { s with
    queues := t.queues
    hostMem := t.hostMem
    irqs := s.irqs + if x.testBit 9 then 1 else 0
    dispatchDue := s.dispatchDue || isPlacing (commandForm x).1
    dueIn := if isPlacing (commandForm x).1 then s.dueFor q.ctx else s.dueIn }
  memory : Memory.wf s.hostMem = true → ∀ a, (a < q.slotAddr q.head + 56 ∨ q.slotAddr q.head + 64 ≤ a) → t.hostMem.get a = s.hostMem.get a

/-- The command at the head of a queue has started and goes on. -/
structure Started (s t : State) (q : Queue) (x : Nat) : Prop where
  queue : t.queue? q.num = some { q with
    head := (q.head + 1) % 2 ^ q.n
    running := q.running ++ [{ slot := q.head, op := field x 0 8, tag := BitVec.ofNat 32 (field x 32 32), irq := x.testBit 9 }] }
  memory : SameMemory s t

end Sys2Proof.Machine
end

