-- ==== Sys2Proof/Certificates/Slice0/Obligations.lean ====
section
/-!
DEFINITION. The statements about the part that the provers are given.
-/
open Sys2Proof Sys2Proof.Machine

/-! ## Vector and scalar integer words (08_alu) -/

/-- R128, sums, differences and products: the Result column of the table, for every lane of Issue; no other register, no flag and no byte of memory
changes.
Then: R128 and R129, bitwise words, minima, maxima and shifts. -/
def Obligations.IntegerWords : Prop :=
  (∀ o : ArgsRS,
  SetsV (.iadd o) o.g o.d (fun g l => BitVec.ofNat 32 ((g.vr l o.a).toNat + (g.opB l o.b o.s).toNat)) ∧
  SetsV (.iadds o) o.g o.d (fun g l =>
    BitVec.ofInt 32 (clampInt (-2 ^ 31) (2 ^ 31 - 1) ((g.vr l o.a).toInt + (g.opB l o.b o.s).toInt))) ∧
  SetsV (.iaddus o) o.g o.d (fun g l => BitVec.ofNat 32 (min (2 ^ 32 - 1) ((g.vr l o.a).toNat + (g.opB l o.b o.s).toNat))) ∧
  SetsV (.isub o) o.g o.d (fun g l => BitVec.ofInt 32 ((g.vr l o.a).toNat - (g.opB l o.b o.s).toNat : Int)) ∧
  SetsV (.isubs o) o.g o.d (fun g l =>
    BitVec.ofInt 32 (clampInt (-2 ^ 31) (2 ^ 31 - 1) ((g.vr l o.a).toInt - (g.opB l o.b o.s).toInt))) ∧
  SetsV (.isubus o) o.g o.d (fun g l => BitVec.ofNat 32 ((g.vr l o.a).toNat - (g.opB l o.b o.s).toNat)) ∧
  SetsV (.irsub o) o.g o.d (fun g l => BitVec.ofInt 32 ((g.opB l o.b o.s).toNat - (g.vr l o.a).toNat : Int)) ∧
  SetsV (.imul o) o.g o.d (fun g l => BitVec.ofNat 32 ((g.vr l o.a).toNat * (g.opB l o.b o.s).toNat)) ∧
  SetsV (.imulhi o) o.g o.d (fun g l =>
    (BitVec.ofInt 64 ((g.vr l o.a).toInt * (g.opB l o.b o.s).toInt)).extractLsb' 32 32) ∧
  SetsV (.imulhu o) o.g o.d (fun g l =>
    (BitVec.ofNat 64 ((g.vr l o.a).toNat * (g.opB l o.b o.s).toNat)).extractLsb' 32 32) ∧
  SetsV (.imad o) o.g o.d (fun g l =>
    BitVec.ofNat 32 ((g.vr l o.a).toNat * (g.opB l o.b o.s).toNat + (g.vr l o.d).toNat))) ∧
  (∀ o : ArgsRS,
  SetsV (.and o) o.g o.d (fun g l => g.vr l o.a &&& g.opB l o.b o.s) ∧
  SetsV (.or o) o.g o.d (fun g l => g.vr l o.a ||| g.opB l o.b o.s) ∧
  SetsV (.xor o) o.g o.d (fun g l => g.vr l o.a ^^^ g.opB l o.b o.s) ∧
  SetsV (.andn o) o.g o.d (fun g l => g.vr l o.a &&& ~~~(g.opB l o.b o.s)) ∧
  SetsV (.imin o) o.g o.d (fun g l => BitVec.ofInt 32 (min (g.vr l o.a).toInt (g.opB l o.b o.s).toInt)) ∧
  SetsV (.imax o) o.g o.d (fun g l => BitVec.ofInt 32 (max (g.vr l o.a).toInt (g.opB l o.b o.s).toInt)) ∧
  SetsV (.iminu o) o.g o.d (fun g l => BitVec.ofNat 32 (min (g.vr l o.a).toNat (g.opB l o.b o.s).toNat)) ∧
  SetsV (.imaxu o) o.g o.d (fun g l => BitVec.ofNat 32 (max (g.vr l o.a).toNat (g.opB l o.b o.s).toNat)) ∧
  SetsV (.shl o) o.g o.d (fun g l =>
    if (g.opB l o.b o.s).toNat ≤ 31 then BitVec.ofNat 32 ((g.vr l o.a).toNat * 2 ^ (g.opB l o.b o.s).toNat) else 0) ∧
  SetsV (.shr o) o.g o.d (fun g l =>
    if (g.opB l o.b o.s).toNat ≤ 31 then BitVec.ofNat 32 ((g.vr l o.a).toNat / 2 ^ (g.opB l o.b o.s).toNat) else 0) ∧
  SetsV (.sar o) o.g o.d (fun g l =>
    if (g.opB l o.b o.s).toNat ≤ 31 then BitVec.ofInt 32 ((g.vr l o.a).toInt / 2 ^ (g.opB l o.b o.s).toNat)
    else if (g.vr l o.a).msb then 0xFFFFFFFF else 0) ∧
  SetsV (.rol o) o.g o.d (fun g l =>
    g.vr l o.a <<< ((g.opB l o.b o.s).toNat % 32) ||| g.vr l o.a >>> (32 - (g.opB l o.b o.s).toNat % 32)))

/-- R130 to R133, R135, R137: bit counts, bit fields, shifted sums, immediates and dot products.
Then: R134, R136, R138: SEL, the 64-bit words, and MIX as the network of R139. -/
def Obligations.IntegerFieldsAndPairs : Prop :=
  ((∀ o : ArgsR2,
    SetsV (.popc o) o.g o.d (fun g l => BitVec.ofNat 32 ((List.range 32).countP fun i => (g.vr l o.a).getLsbD i)) ∧
    SetsV (.clz o) o.g o.d (fun g l => BitVec.ofNat 32 (if g.vr l o.a = 0 then 32 else 31 - (g.vr l o.a).toNat.log2)) ∧
    SetsV (.brev o) o.g o.d (fun g l => (g.vr l o.a).reverse) ∧
    SetsV (.ffs o) o.g o.d (fun g l => BitVec.ofNat 32 ((List.range 32).findIdx fun i => (g.vr l o.a).getLsbD i))) ∧
  (∀ o : ArgsRS,
    SetsV (.bfe o) o.g o.d (fun g l =>
      let b := g.opB l o.b o.s
      let n := min 32 (element 8 b 1).toNat
      ((g.vr l o.a >>> (element 8 b 0).toNat).setWidth n).setWidth 32) ∧
    SetsV (.bfes o) o.g o.d (fun g l =>
      let b := g.opB l o.b o.s
      let n := min 32 (element 8 b 1).toNat
      ((g.vr l o.a >>> (element 8 b 0).toNat).setWidth n).signExtend 32) ∧
    SetsV (.bfi o) o.g o.d (fun g l =>
      let b := g.opB l o.b o.s
      let p := (element 8 b 0).toNat
      let mask := (BitVec.ofNat 32 (2 ^ min 32 (element 8 b 1).toNat - 1)) <<< p
      (g.vr l o.d &&& ~~~mask) ||| ((g.vr l o.a <<< p) &&& mask)) ∧
    SetsV (.idp4Ss o) o.g o.d (fun g l =>
      BitVec.ofInt 32 ((g.vr l o.d).toInt + dotBytes BitVec.toInt BitVec.toInt (g.vr l o.a) (g.opB l o.b o.s))) ∧
    SetsV (.idp4Nn o) o.g o.d (fun g l =>
      BitVec.ofInt 32 ((g.vr l o.d).toInt + dotBytes byteNat byteNat (g.vr l o.a) (g.opB l o.b o.s))) ∧
    SetsV (.idp4Sn o) o.g o.d (fun g l =>
      BitVec.ofInt 32 ((g.vr l o.d).toInt + dotBytes BitVec.toInt byteNat (g.vr l o.a) (g.opB l o.b o.s)))) ∧
  (∀ o : ArgsLea, SetsV (.lea o) o.g o.d (fun g l => BitVec.ofNat 32 ((g.vr l o.a).toNat * 2 ^ o.k + (g.opB l o.b o.s).toNat))) ∧
  (∀ o : ArgsImm, SetsV (.iaddi o) o.g o.d (fun g l => BitVec.ofInt 32 ((g.vr l o.a).toInt + o.imm.toInt)))) ∧
  ((∀ o : ArgsSel, SetsV (.sel o) o.g o.d (fun g l => if (g.lane l).getP o.p then g.vr l o.a else g.vr l o.b)) ∧
  (∀ o : ArgsRS,
    SetsPair (.add64 o) o.g o.d (fun g l => BitVec.ofNat 64 ((g.vr64 l o.a).toNat + (g.opB64 l o.b o.s).toNat)) ∧
    SetsPair (.sub64 o) o.g o.d (fun g l => BitVec.ofInt 64 ((g.vr64 l o.a).toNat - (g.opB64 l o.b o.s).toNat : Int)) ∧
    SetsPair (.mul64 o) o.g o.d (fun g l => BitVec.ofNat 64 ((g.vr64 l o.a).toNat * (g.opB64 l o.b o.s).toNat)) ∧
    SetsPair (.mulw o) o.g o.d (fun g l => BitVec.ofInt 64 ((g.vr l o.a).toInt * (g.opB l o.b o.s).toInt))) ∧
  (∀ o : ArgsMix, SetsV (.mix o) o.g o.d (fun g l => mixValue (8 + 4 * o.w) (g.getS o.b) (g.vr l o.a))))

/-- t of round i of R139: the top h bits of the product. -/
def mixTop (h : Nat) (key : DWord) (i lo : Nat) : Nat :=
  ((lo ^^^ key.toNat / 2 ^ (16 * i) % 2 ^ h) + i * 2 ^ h) * 0x9E3779B1 % 2 ^ 32 / 2 ^ (32 - h)
/-- Round i of R139. -/
def mixStep (h : Nat) (key : DWord) (i : Nat) (x : Nat × Nat) : Nat × Nat := (x.2, x.1 ^^^ mixTop h key i x.2)

/-- R139: MIX is the four rounds, a round has the inverse that the rule gives, and for every width w and every key the 2^w values go one-to-one onto
themselves, whatever stands above bit w. -/
def Obligations.MixIsBijection : Prop :=
  (∀ o : ArgsMix, o.w ≤ 6 → SetsV (.mix o) o.g o.d fun g l =>
    let h := 4 + 2 * o.w
    let x := (g.vr l o.a).toNat % 2 ^ (2 * h)
    let k := g.getS o.b
    let y := mixStep h k 3 (mixStep h k 2 (mixStep h k 1 (mixStep h k 0 (x / 2 ^ h, x % 2 ^ h))))
    BitVec.ofNat 32 (y.1 * 2 ^ h + y.2)) ∧
  (∀ (h : Nat) (k : DWord) (i : Nat) (x : Nat × Nat), let y := mixStep h k i x; (y.2 ^^^ mixTop h k i y.1, y.1) = x) ∧
  ∀ (k : DWord) (c : Nat), c ≤ 6 →
    (∀ a : Word, (mixValue (8 + 4 * c) k a).toNat < 2 ^ (8 + 4 * c)) ∧
    (∀ a b : Word, mixValue (8 + 4 * c) k a = mixValue (8 + 4 * c) k b → a.toNat % 2 ^ (8 + 4 * c) = b.toNat % 2 ^ (8 + 4 * c)) ∧
    (∀ y : Nat, y < 2 ^ (8 + 4 * c) → ∃ a : Word, a.toNat < 2 ^ (8 + 4 * c) ∧ (mixValue (8 + 4 * c) k a).toNat = y)

/-- R140, R141 and R71, scalar arithmetic: one s register is written for the whole split, s0 discards, nothing else changes. -/
def Obligations.ScalarWords : Prop :=
  (∀ o : ArgsS3,
    SetsS (.sadd o) o.d (fun g => BitVec.ofNat 64 ((g.getS o.a).toNat + (g.getS o.b).toNat)) ∧
    SetsS (.ssub o) o.d (fun g => BitVec.ofInt 64 ((g.getS o.a).toNat - (g.getS o.b).toNat : Int)) ∧
    SetsS (.smul o) o.d (fun g => BitVec.ofNat 64 ((g.getS o.a).toNat * (g.getS o.b).toNat)) ∧
    SetsS (.smulhn o) o.d (fun g => (BitVec.ofNat 128 ((g.getS o.a).toNat * (g.getS o.b).toNat)).extractLsb' 64 64) ∧
    SetsS (.sand o) o.d (fun g => g.getS o.a &&& g.getS o.b) ∧
    SetsS (.sor o) o.d (fun g => g.getS o.a ||| g.getS o.b) ∧
    SetsS (.sxor o) o.d (fun g => g.getS o.a ^^^ g.getS o.b) ∧
    SetsS (.sandn o) o.d (fun g => g.getS o.a &&& ~~~(g.getS o.b)) ∧
    SetsS (.sshl o) o.d (fun g =>
      if (g.getS o.b).toNat < 64 then BitVec.ofNat 64 ((g.getS o.a).toNat * 2 ^ (g.getS o.b).toNat) else 0) ∧
    SetsS (.sshr o) o.d (fun g =>
      if (g.getS o.b).toNat < 64 then BitVec.ofNat 64 ((g.getS o.a).toNat / 2 ^ (g.getS o.b).toNat) else 0) ∧
    SetsS (.ssar o) o.d (fun g =>
      if (g.getS o.b).toNat < 64 then BitVec.ofInt 64 ((g.getS o.a).toInt / 2 ^ (g.getS o.b).toNat)
      else if (g.getS o.a).msb then BitVec.allOnes 64 else 0) ∧
    SetsS (.smin o) o.d (fun g => BitVec.ofInt 64 (min (g.getS o.a).toInt (g.getS o.b).toInt)) ∧
    SetsS (.smax o) o.d (fun g => BitVec.ofInt 64 (max (g.getS o.a).toInt (g.getS o.b).toInt)) ∧
    SetsS (.sminu o) o.d (fun g => BitVec.ofNat 64 (min (g.getS o.a).toNat (g.getS o.b).toNat)) ∧
    SetsS (.smaxu o) o.d (fun g => BitVec.ofNat 64 (max (g.getS o.a).toNat (g.getS o.b).toNat))) ∧
  (∀ o : ArgsSImm, SetsS (.saddi o) o.d (fun g => BitVec.ofInt 64 ((g.getS o.a).toInt + o.imm.toInt))) ∧
  (∀ o : ArgsSLea, SetsS (.slea o) o.d (fun g => BitVec.ofNat 64 ((g.getS o.a).toNat * 2 ^ o.k + (g.getS o.b).toNat))) ∧
  (∀ (o : ArgsLit) (x y : Word),
    SetsS (.slit o x) o.d (fun _ => BitVec.ofInt 64 x.toInt) ∧
    SetsS (.slitW64 o x y) o.d (fun _ => BitVec.ofNat 64 (x.toNat + y.toNat * 2 ^ 32)))

/-! ## Floating point and conversion (08_alu, 06_numbers) -/

/-- R142 to R145: the single-precision words; the operand places, the accumulator of FFMA and FFMS, and flags that accrue. -/
def Obligations.SinglePrecision : Prop :=
  (∀ o : ArgsRM,
    SetsF (.fadd o) o.g o.d (fun g l => F32.add (g.vr l o.a).toNat (g.vr l o.b).toNat o.rm) ∧
    SetsF (.fsub o) o.g o.d (fun g l => F32.sub (g.vr l o.a).toNat (g.vr l o.b).toNat o.rm) ∧
    SetsF (.ffma o) o.g o.d (fun g l => F32.fma (g.vr l o.a).toNat (g.vr l o.b).toNat (g.vr l o.d).toNat false o.rm) ∧
    SetsF (.ffms o) o.g o.d (fun g l => F32.fma (g.vr l o.a).toNat (g.vr l o.b).toNat (g.vr l o.d).toNat true o.rm)) ∧
  (∀ o : ArgsRMS, SetsF (.fmul o) o.g o.d (fun g l => F32.mul (g.vr l o.a).toNat (g.opB l o.b o.s).toNat o.rm)) ∧
  (∀ o : ArgsRS,
    SetsF (.fmin o) o.g o.d (fun g l => F32.select false false (g.vr l o.a).toNat (g.opB l o.b o.s).toNat) ∧
    SetsF (.fmax o) o.g o.d (fun g l => F32.select true false (g.vr l o.a).toNat (g.opB l o.b o.s).toNat) ∧
    SetsF (.fminp o) o.g o.d (fun g l => F32.select false true (g.vr l o.a).toNat (g.opB l o.b o.s).toNat) ∧
    SetsF (.fmaxp o) o.g o.d (fun g l => F32.select true true (g.vr l o.a).toNat (g.opB l o.b o.s).toNat))

/-- R146: the special-function words. FRCP, FRSQ and FSQRT are the rounded results; FEX2, FLG2, FSNT and FCST are what the model's own evaluation gives,
which computes with 256 fraction bits and rounds once (F32.exp2, F32.log2, F32.circ; log entry 14, DEDUCED). -/
def Obligations.SpecialFunctions : Prop := ∀ o : ArgsR2,
  SetsF (.frcp o) o.g o.d (fun g l => F32.recip (g.vr l o.a).toNat) ∧
  SetsF (.frsq o) o.g o.d (fun g l => F32.rsqrt (g.vr l o.a).toNat) ∧
  SetsF (.fsqrt o) o.g o.d (fun g l => F32.sqrt (g.vr l o.a).toNat) ∧
  SetsF (.fex2 o) o.g o.d (fun g l => F32.exp2 (g.vr l o.a).toNat) ∧
  SetsF (.flg2 o) o.g o.d (fun g l => F32.log2 (g.vr l o.a).toNat) ∧
  SetsF (.fsnt o) o.g o.d (fun g l => F32.circ false (g.vr l o.a).toNat) ∧
  SetsF (.fcst o) o.g o.d (fun g l => F32.circ true (g.vr l o.a).toNat)

/-- R147 and R148: double precision on pairs, packed halves element by element. -/
def Obligations.DoubleAndHalf : Prop :=
  (∀ o : ArgsR3,
    SetsF64 (.dadd o) o.g o.d (fun g l => F64.add (g.vr64 l o.a).toNat (g.vr64 l o.b).toNat 0) ∧
    SetsF64 (.dsub o) o.g o.d (fun g l => F64.sub (g.vr64 l o.a).toNat (g.vr64 l o.b).toNat 0) ∧
    SetsF64 (.dmul o) o.g o.d (fun g l => F64.mul (g.vr64 l o.a).toNat (g.vr64 l o.b).toNat 0) ∧
    SetsF64 (.dfma o) o.g o.d (fun g l => F64.fma (g.vr64 l o.a).toNat (g.vr64 l o.b).toNat (g.vr64 l o.d).toNat false 0) ∧
    SetsF64 (.dmin o) o.g o.d (fun g l => F64.select false false (g.vr64 l o.a).toNat (g.vr64 l o.b).toNat) ∧
    SetsF64 (.dmax o) o.g o.d (fun g l => F64.select true false (g.vr64 l o.a).toNat (g.vr64 l o.b).toNat) ∧
    SetsF64 (.ddiv o) o.g o.d (fun g l => F64.div (g.vr64 l o.a).toNat (g.vr64 l o.b).toNat)) ∧
  (∀ o : ArgsR2, SetsF64 (.dsqrt o) o.g o.d (fun g l => F64.sqrt (g.vr64 l o.a).toNat)) ∧
  (∀ o : ArgsH,
    let t : Fmt := if o.bf then BF16 else F16
    let x : Group → Nat → Nat → Nat → Nat := fun g l n e => (element 16 (g.vr l n) e).toNat
    SetsF (.hadd2 o) o.g o.d (fun g l =>
      twoHalves (t.add (x g l o.a 0) (x g l o.b 0) 0) (t.add (x g l o.a 1) (x g l o.b 1) 0)) ∧
    SetsF (.hmul2 o) o.g o.d (fun g l =>
      twoHalves (t.mul (x g l o.a 0) (x g l o.b 0) 0) (t.mul (x g l o.a 1) (x g l o.b 1) 0)) ∧
    SetsF (.hfma2 o) o.g o.d (fun g l =>
      twoHalves (t.fma (x g l o.a 0) (x g l o.b 0) (x g l o.d 0) false 0) (t.fma (x g l o.a 1) (x g l o.b 1) (x g l o.d 1) false 0)) ∧
    SetsF (.hmax2 o) o.g o.d (fun g l =>
      twoHalves (t.select true false (x g l o.a 0) (x g l o.b 0)) (t.select true false (x g l o.a 1) (x g l o.b 1))))

/-- R149 to R153: conversions. A pack word shifts its two codes into vd from the top, an unpack word widens two elements into a pair, QI8 shifts one
code into vd, DQ4 gives two values. -/
def Obligations.Conversions : Prop :=
  (∀ o : ArgsCvt,
    let x : Group → Nat → DWord := fun g l => if cvtWide o.src then g.vr64 l o.a else (g.vr l o.a).setWidth 64
    if cvtWide o.dst then SetsF64 (.cvt o) o.g o.d (fun g l => cvtResult o.src o.dst o.rm o.sat (x g l))
    else SetsF (.cvt o) o.g o.d (fun g l => cvtResult o.src o.dst o.rm o.sat (x g l))) ∧
  (∀ o : ArgsR3,
    let v : Group → Nat → Nat → FVal := fun g l n => F32.value (g.vr l n).toNat
    let top : Nat → (FVal → Nat × Flags) → Group → Nat → Nat × Flags := fun w cv g l =>
      let e0 := cv (v g l o.a)
      let e1 := cv (v g l o.b)
      (e1.1 % 2 ^ w * 2 ^ (32 - w) + e0.1 % 2 ^ w * 2 ^ (32 - 2 * w) + (g.vr l o.d).toNat / 2 ^ (2 * w), e0.2 ||| e1.2)
    SetsF (.pk8e4 o) o.g o.d (top 8 fun x => E4M3.roundSat x 0) ∧
    SetsF (.pk8e5 o) o.g o.d (top 8 fun x => E5M2.roundSat x 0) ∧
    SetsF (.pk4 o) o.g o.d (top 4 fun x => if x.isNan then (0, fNV) else E2M1.roundSat x 0) ∧
    (let j : Group → Nat := fun g => 2 * field (g.getS o.b).toNat 16 1
     let e : Fmt → Group → Nat → Nat → Nat × Flags := fun t g l k => F32.round (t.value (element 8 (g.vr l o.a) (j g + k)).toNat) 0
     SetsF64 (.up8e4 o) o.g o.d (fun g l => twoWords (e E4M3 g l 0) (e E4M3 g l 1)) ∧
     SetsF64 (.up8e5 o) o.g o.d (fun g l => twoWords (e E5M2 g l 0) (e E5M2 g l 1))) ∧
    (let j : Group → Nat := fun g => 2 * field (g.getS o.b).toNat 16 2
     let e : Group → Nat → Nat → Nat × Flags := fun g l k =>
       F32.round (decodeE2m1 ((g.getS o.b).setWidth 16) (element 4 (g.vr l o.a) (j g + k)).toNat) 0
     SetsF64 (.up4 o) o.g o.d (fun g l => twoWords (e g l 0) (e g l 1))) ∧
    SetsF (.qi8 o) o.g o.d (fun g l =>
      let q := quantize 8 (v g l o.a) ((g.getS o.b).setWidth 16) (field (g.getS o.b).toNat 16 8)
      (q.1 % 2 ^ 8 * 2 ^ 24 + (g.vr l o.d).toNat / 2 ^ 8, q.2)) ∧
    (let j : Group → Nat := fun g => 2 * field (g.getS o.b).toNat 20 2
     let e : Group → Nat → Nat → Nat × Flags := fun g l k =>
       let d := deq (element 4 (g.vr l o.a) (j g + k)).toNat (field (g.getS o.b).toNat 16 4) ((g.getS o.b).setWidth 16)
       ((F32.round d.1 0).1, d.2)
     SetsF64 (.dq4 o) o.g o.d (fun g l => twoWords (e g l 0) (e g l 1))))

/-- R103 to R105: rounding to a multiple of a unit gives one of the two neighbours, the nearest one under .RN with ties to even, the one that the
mode names otherwise, and says whether it is exact.
Then: R96, R103: the value of every finite encoding of a format rounds back to that encoding in every mode, without a flag. -/
def Obligations.RoundingIsDirectedAndExact : Prop :=
  (∀ (rm : Nat) (neg : Bool) (m : Nat) (x u : Int), rm ≤ 3 → x < u →
    let d := 2 ^ (u - x).toNat
    let n := (roundUnit rm neg m x u).1
    (n = m / d ∨ n = m / d + 1) ∧
    ((roundUnit rm neg m x u).2 = true ↔ m % d ≠ 0) ∧
    (m % d = 0 → n * d = m) ∧
    (rm = 0 → 2 * (n * d) ≤ 2 * m + d ∧ 2 * m ≤ 2 * (n * d) + d ∧ (2 * (m % d) = d → n % 2 = 0)) ∧
    (rm = 1 → n * d ≤ m) ∧
    (rm = 2 → if neg then n * d ≤ m else m ≤ n * d) ∧
    (rm = 3 → if neg then m ≤ n * d else n * d ≤ m)) ∧
  (∀ (t : Fmt) (code rm : Nat), t ∈ [F64, F32, F16, BF16, E5M2, E4M3] → code < 2 * t.signBit → code % t.signBit ≤ t.maxCode →
    t.round (t.value code) rm = (code, 0))

/-! ## Compares, moves and special registers -/

/-- R74 and R155: which lanes a compare writes, what it writes by combine type, guard and condition, and its conditions. -/
def Obligations.Compares : Prop := ∀ o : ArgsCmp,
  CompareWrites (.icmp o) o (fun g l =>
    let a := g.vr l o.a
    let b := g.vr l o.b
    match o.c with
    | 0 => decide (a = b)
    | 1 => decide (a.toInt < b.toInt)
    | 2 => decide (a.toInt ≤ b.toInt)
    | _ => decide (a &&& b ≠ 0)) (fun _ _ => 0) ∧
  CompareWrites (.ucmp o) o (fun g l =>
    let a := (g.vr l o.a).toNat
    let b := (g.vr l o.b).toNat
    match o.c with
    | 0 => decide (a < b)
    | 1 => decide (a ≤ b)
    | 2 => decide (a > b)
    | _ => decide (a ≥ b)) (fun _ _ => 0) ∧
  CompareWrites (.fcmp o) o (fun g l =>
    let a := F32.value (g.vr l o.a).toNat
    let b := F32.value (g.vr l o.b).toNat
    match o.c with
    | 0 => a.eqv b
    | 1 => a.lt b
    | 2 => a.lt b || a.eqv b
    | _ => a.isNan || b.isNan) (fun g l => signalling F32 (g.vr l o.a).toNat (g.vr l o.b).toNat) ∧
  CompareWrites (.dcmp o) o (fun g l =>
    let a := F64.value (g.vr64 l o.a).toNat
    let b := F64.value (g.vr64 l o.b).toNat
    match o.c with
    | 0 => a.eqv b
    | 1 => a.lt b
    | 2 => a.lt b || a.eqv b
    | _ => a.isNan || b.isNan) (fun g l => signalling F64 (g.vr64 l o.a).toNat (g.vr64 l o.b).toNat) ∧
  CompareWrites (.scmp o) o (fun g _ =>
    let a := g.getS o.a
    let b := g.getS o.b
    match o.c with
    | 0 => decide (a = b)
    | 1 => decide (a.toInt < b.toInt)
    | 2 => decide (a.toInt ≤ b.toInt)
    | _ => decide (a.toNat < b.toNat)) (fun _ _ => 0)

/-- R157: MOV and MOVS copy bits. -/
def Obligations.MovesCopyBits : Prop :=
  (∀ o : ArgsR2, SetsV (.mov o) o.g o.d (fun g l => g.vr l o.a)) ∧
  (∀ o : ArgsMovs, SetsV (.movs o) o.g o.d (fun g _ =>
    if o.hi then (g.getS o.a).extractLsb' 32 32 else (g.getS o.a).extractLsb' 0 32))

/-- R72, R158, R161: VLIT, RDLN from a lane in any state, WRLN only into a lane of Issue, RDPC. -/
def Obligations.LaneAndLiteralMoves : Prop :=
  (∀ (o : ArgsVLit) (x : Word), SetsV (.vlit o x) o.g o.d (fun _ _ => x)) ∧
  (∀ o : ArgsLn, SetsS (.rdln o) o.d (fun g => (g.vr o.lane o.a).setWidth 64)) ∧
  (∀ o : ArgsLn, Completes (.wrln o) fun _ g r =>
    { v := fun l => if l = o.lane ∧ l ∈ g.issueOf r o.g then [(o.d, (g.getS o.a).extractLsb' 0 32)] else [] }) ∧
  (∀ o : ArgsR1, Completes (.rdpc o) fun _ g r =>
    { v := fun l => if l ∈ g.issueOf r o.g then [(o.d, r.hdr.extractLsb' 0 32), (o.d + 1, r.hdr.extractLsb' 32 32)] else [] })

/-- R159, R160, R68: RDSR gives every lane of Issue the register, in one v register or a pair by its width; WRSR writes %fpflags, and a WRSR of any
other number ends the group with 0x09. That %teamid is given by each lane's own team tag, as R35 and R68 say, and not sampled once for the word, is the model's
choice (log entry 33, DESIGN CHOICE). -/
def Obligations.SpecialRegisters : Prop :=
  (∀ o : ArgsSr, Completes (.rdsr o) fun s g r =>
    let x : Nat → DWord := fun l => (ctxOf s g r (some o.g)).special o.n l
    { v := fun l => if l ∈ g.issueOf r o.g then
        (if specialWidth o.n = some 64 then [(o.d, (x l).extractLsb' 0 32), (o.d + 1, (x l).extractLsb' 32 32)]
         else [(o.d, (x l).extractLsb' 0 32)]) else [] }) ∧
  (∀ (c : Ctx) (l : Nat),
    c.special 0x001 l = BitVec.ofNat 64 l ∧
    c.special 0x002 l = BitVec.ofNat 64 c.g.slot ∧
    c.special 0x007 l = (c.g.lane l).origin ∧
    c.special 0x008 l = BitVec.ofNat 64 c.g.core ∧
    c.special 0x009 l = BitVec.ofNat 64 (c.s.clusterOf c.g.core) ∧
    c.special 0x00A l = BitVec.ofNat 64 (c.s.clusterOf c.g.core / 4) ∧
    c.special 0x00B l = BitVec.ofNat 64 c.s.conf.devid ∧
    c.special 0x010 l = BitVec.ofNat 64 c.g.alloc ∧
    c.special 0x012 l = c.g.gang ∧
    c.special 0x031 l = c.g.fpflags.setWidth 64 ∧
    (∀ t, c.s.team? (c.g.lane l).team = some t → c.special 0x003 l = BitVec.ofNat 64 t.index)) ∧
  (∀ (o : ArgsSr) (s : State) (g : Group) (r : Run), AtWord s g r .joined → Settled g (usesOf (.wrsr o)) →
    (o.n = 0x031 → ∃ t, exec (.wrsr o) s = .next t ∧ Wrote s t { g with fpflags := (g.getS o.d).extractLsb' 0 6 } {}) ∧
    (o.n ≠ 0x031 → exec (.wrsr o) s = .next (s.killGroup g.gid 0x09)))

/-! ## Lane operations (08_alu) -/

/-- R163 and R164: shuffles and votes. -/
def Obligations.ShufflesAndVotes : Prop :=
  (∀ o : ArgsRS,
    let keep : Group → Nat → Nat → Word := fun g l j => if j ∈ g.alive then g.vr j o.a else g.vr l o.a
    SetsV (.shflIdx o) o.g o.d (fun g l => keep g l ((g.opB l o.b o.s).toNat % 32)) ∧
    SetsV (.shflUp o) o.g o.d (fun g l =>
      if (g.opB l o.b o.s).toNat ≤ l then keep g l (l - (g.opB l o.b o.s).toNat) else g.vr l o.a) ∧
    SetsV (.shflDown o) o.g o.d (fun g l => keep g l (l + (g.opB l o.b o.s).toNat)) ∧
    SetsV (.shflXor o) o.g o.d (fun g l => keep g l (l ^^^ ((g.opB l o.b o.s).toNat % 32)))) ∧
  (∀ o : ArgsR2,
    SetsP (.vall o) o.g o.d (fun g _ => g.alive.all fun j => (g.lane j).getP o.a) ∧
    SetsP (.vany o) o.g o.d (fun g _ => g.alive.any fun j => (g.lane j).getP o.a) ∧
    SetsV (.ballot o) o.g o.d (fun g _ => laneMask (g.contributors o.a)) ∧
    SetsV (.vmatch o) o.g o.d (fun g l => laneMask (g.alive.filter fun j => g.vr j o.a == g.vr l o.a))) ∧
  (∀ o : ArgsR3,
    SetsP (.pand o) o.g o.d (fun g l => (g.lane l).getP o.a && (g.vr l o.b).getLsbD l) ∧
    SetsP (.por o) o.g o.d (fun g l => (g.lane l).getP o.a || (g.vr l o.b).getLsbD l) ∧
    SetsP (.pxor o) o.g o.d (fun g l => (g.lane l).getP o.a ^^ (g.vr l o.b).getLsbD l)) ∧
  (∀ o : ArgsPset, SetsP (.pset o) o.g o.d (fun g l => (g.vr l o.b).getLsbD l))

/-- R165: a reduction gives every lane of Issue the same result over the contributing lanes, with the result of an empty set that the table gives;
the flags are those of the steps, and none are raised where no lane is in Issue.
Then: R166: scans over the contributing lanes up to each lane, and sums within segments. -/
def Obligations.ReductionsAndScans : Prop :=
  (∀ o : ArgsR3,
  let col : Group → List Word := fun g => g.column (g.contributors o.b) o.a
  SetsV (.gredAdd o) o.g o.d (fun g _ => BitVec.ofNat 32 ((col g).map BitVec.toNat).sum) ∧
  SetsV (.gredMin o) o.g o.d (fun g _ => BitVec.ofInt 32 (((col g).map BitVec.toInt).foldl min (2 ^ 31 - 1))) ∧
  SetsV (.gredMax o) o.g o.d (fun g _ => BitVec.ofInt 32 (((col g).map BitVec.toInt).foldl max (-2 ^ 31))) ∧
  SetsV (.gredMinu o) o.g o.d (fun g _ => BitVec.ofNat 32 (((col g).map BitVec.toNat).foldl min (2 ^ 32 - 1))) ∧
  SetsV (.gredMaxu o) o.g o.d (fun g _ => BitVec.ofNat 32 (((col g).map BitVec.toNat).foldl max 0)) ∧
  (let fl : Group → Run → Nat × Flags → Writes := fun g r x =>
     { v := fun l => if l ∈ g.issueOf r o.g then [(o.d, BitVec.ofNat 32 x.1)] else []
       flags := if g.issueOf r o.g = [] then 0 else x.2 }
   Completes (.gredFadd o) (fun _ g r => fl g r (F32.fold ((col g).map BitVec.toNat))) ∧
   Completes (.gredFmin o) (fun _ g r => fl g r (F32.foldSelect false ((col g).map BitVec.toNat))) ∧
   Completes (.gredFmax o) (fun _ g r => fl g r (F32.foldSelect true ((col g).map BitVec.toNat))))) ∧
  (∀ o : ArgsR3,
  let upTo : Group → Nat → List Word := fun g i => g.column ((g.contributors o.b).filter fun j => decide (j ≤ i)) o.a
  let below : Group → Nat → List Word := fun g i => g.column ((g.contributors o.b).filter fun j => decide (j < i)) o.a
  let sum : List Word → Word := fun l => BitVec.ofNat 32 (l.map BitVec.toNat).sum
  SetsV (.scani o) o.g o.d (fun g i => sum (upTo g i)) ∧
  SetsV (.scanx o) o.g o.d (fun g i => sum (below g i)) ∧
  SetsF (.scanf o) o.g o.d (fun g i => F32.fold ((upTo g i).map BitVec.toNat)) ∧
  SetsF (.scanfx o) o.g o.d (fun g i => F32.fold ((below g i).map BitVec.toNat)) ∧
  SetsV (.scanmax o) o.g o.d (fun g i => BitVec.ofInt 32 (((upTo g i).map BitVec.toInt).foldl max (-2 ^ 31))) ∧
  SetsV (.scanmin o) o.g o.d (fun g i => BitVec.ofInt 32 (((upTo g i).map BitVec.toInt).foldl min (2 ^ 31 - 1))) ∧
  SetsV (.segscan o) o.g o.d (fun g i =>
    let starts := (g.contributors o.b).filter fun j => decide (j ≤ i)
    sum (g.column (g.alive.filter fun j => decide (starts.getLastD 0 ≤ j) && decide (j ≤ i)) o.a)))
/-! ## Words of the MEM class (10_memory) -/

/-- R79, R80, R186, R187, R189, R190: a load issues for every lane of Issue at the address that its registers give, its destinations pending; no
register and no byte of memory changes yet. LD.SC is one access for the split.
Then: R188 to R190, R201: stores carry the data of their lanes; prefetches check nothing. That LD.SC and ST.SC act for the team whose tag the first lane of the
split carries is the model's choice (log entry 81, DESIGN CHOICE). -/
def Obligations.LoadsAndStoresIssue : Prop :=
  ((∀ o : ArgsM,
    AsksLoad (.ldB o) o 1 false false ∧ AsksLoad (.ldH o) o 2 false false ∧ AsksLoad (.ldW o) o 4 false false ∧
    AsksLoad (.ldD o) o 8 false false ∧ AsksLoad (.ldQ o) o 16 false false ∧ AsksLoad (.ldSb o) o 1 true false ∧
    AsksLoad (.ldSh o) o 2 true false ∧ AsksLoad (.ldaW o) o 4 false true ∧ AsksLoad (.ldaD o) o 8 false true ∧
    AsksLoad (.ldaQ o) o 16 false true) ∧
  (∀ o : ArgsMTB, Asks (.ldSc o) id (fun _ g _ => Canonical (g.getS o.base).toNat 8) fun _ g r =>
    { kind := .loadScalar o.t, ctr := o.ctr, lanes := g.splitOf r, sdests := [o.t]
      parts := [Part.new ((g.splitOf r).headD 0) (g.getS o.base).toNat 8] })) ∧
  ((∀ o : ArgsM,
    AsksStore (.stB o) o 1 false ∧ AsksStore (.stH o) o 2 false ∧ AsksStore (.stW o) o 4 false ∧ AsksStore (.stD o) o 8 false ∧
    AsksStore (.stQ o) o 16 false ∧ AsksStore (.staW o) o 4 true ∧ AsksStore (.staD o) o 8 true ∧ AsksStore (.staQ o) o 16 true) ∧
  (∀ o : ArgsMTB, Asks (.stSc o) id (fun _ g _ => Canonical (g.getS o.base).toNat 8) fun _ g r =>
    { kind := .storeScalar, ctr := o.ctr, lanes := g.splitOf r
      parts := [Part.new ((g.splitOf r).headD 0) (g.getS o.base).toNat 8 ((g.getS o.t).setWidth 128)] }) ∧
  (∀ o : ArgsMBI, ∀ x ∈ [(Instr.prefL2 o, false), (Instr.prefL1 o, true)],
    Asks x.1 id (fun _ _ _ => True) fun _ g r =>
      { kind := .prefetch x.2, ctr := o.ctr, lanes := g.issueOf r o.g
        parts := (g.issueOf r o.g).map fun l => Part.new l (g.address false l o.base o.idx) 1 }))

/-- R183, R191 to R194: words of the scratchpad issue within the window of each lane's team; LDF's lanes then wait for their reads.
Then: R324 to R326: bank commands issue with FB and the operands of their lanes. -/
def Obligations.ScratchpadAndBanksIssue : Prop :=
  ((∀ o : ArgsM,
    (∀ x ∈ [(Instr.ldsB o, 1, false), (Instr.ldsH o, 2, false), (Instr.ldsW o, 4, false), (Instr.ldsD o, 8, false), (Instr.ldsQ o, 16, false),
        (Instr.ldsSb o, 1, true), (Instr.ldsSh o, 2, true)],
      AsksSpad x.1 o.g o.base o.idx o.ctr x.2.1 (.lds x.2.1 x.2.2 o.t) (fun _ _ => 0) (some (o.t, x.2.1))) ∧
    (∀ x ∈ [(Instr.stsB o, 1), (Instr.stsH o, 2), (Instr.stsW o, 4), (Instr.stsD o, 8), (Instr.stsQ o, 16)],
      AsksSpad x.1 o.g o.base o.idx o.ctr x.2 (.sts x.2) (fun g l => g.bundle l o.t ((x.2 + 3) / 4)) none) ∧
    AsksSpad (.stsf o) o.g o.base o.idx o.ctr 16 .stsf (fun g l => g.bundle l o.t 4) none) ∧
  (∀ o : ArgsMBI, AsksSpad (.sete o) o.g o.base o.idx o.ctr 1 .sete (fun _ _ => 0) none) ∧
  (∀ o : ArgsLdf, ∀ x ∈ [(Instr.ldfW o, 4), (Instr.ldfD o, 8), (Instr.ldfQ o, 16)],
    AsksSpad x.1 o.g o.base o.idx o.ctr x.2 (.ldf x.2 o.clr o.t) (fun _ _ => 0) (some (o.t, x.2)) ∧
    ∀ s g r, AtWord s g r → Settled g (usesOf x.1) → (∀ l ∈ g.issueOf r o.g, InWindow (s.windowOf g l) (g.offset l o.base o.idx) x.2) →
      g.issueOf r o.g ≠ [] → (∀ l ∈ g.issueOf r o.g, (g.lane l).counter o.ctr ≠ 63) →
      ∃ t h, exec x.1 s = .next t ∧ t.group? g.gid = some h ∧ ∃ y ∈ h.runs, y.lanes = laneMask (g.issueOf r o.g) ∧ y.wait = .ldf s.fresh)) ∧
  (∀ o : ArgsM,
  (∀ x ∈ [(Instr.badd o, BankOp.add), (.bmax o, .max), (.bmin o, .min), (.bmul o, .mul), (.biadd o, .iadd), (.bimax o, .imax), (.bset o, .set)],
    AsksBank x.1 o x.2 4) ∧
  AsksBank (.bsmx o) o .smx 8)

/-- R195, R196, R200: atomics carry their operands; each receives its old value in the registers of its operand. -/
def Obligations.AtomicsIssue : Prop := ∀ o : ArgsM,
  (∀ x ∈ [(Instr.atomAdd o, AtomOp.add, 4), (.atomSmin o, .smin, 4), (.atomSmax o, .smax, 4), (.atomUmin o, .umin, 4), (.atomUmax o, .umax, 4),
      (.atomAnd o, .and, 4), (.atomOr o, .or, 4), (.atomXor o, .xor, 4), (.atomxXchg32 o, .xchg, 4), (.atomxXchg64 o, .xchg, 8),
      (.atomxAdd64 o, .add, 8), (.atomxFadd32 o, .fadd, 4), (.atomxFmin32 o, .fmin, 4), (.atomxFmax32 o, .fmax, 4),
      (.atomxFadd64 o, .fadd, 8), (.atomxIncw o, .incw, 4)],
    AsksAtomic x.1 o x.2.1 x.2.2 fun _ _ => 0) ∧
  AsksAtomic (.cas32 o) o .cas 4 (fun g l => g.bundle l (o.t + 1) 1) ∧
  AsksAtomic (.cas64 o) o .cas 8 (fun g l => g.bundle l (o.t + 2) 2) ∧
  (∀ x ∈ [(Instr.atomsAdd o, AtomOp.add), (.atomsSmin o, .smin), (.atomsSmax o, .smax), (.atomsUmin o, .umin), (.atomsUmax o, .umax),
      (.atomsAnd o, .and), (.atomsOr o, .or), (.atomsXor o, .xor)],
    AsksSpad x.1 o.g o.base o.idx o.ctr 4 (.atomS x.2 o.t) (fun g l => g.bundle l o.t 1) (some (o.t, 4)))

/-! ## Matrix words, copies, near-memory calls (22_matrix, 24_engines, 18_log) -/

/-- The accumulators of a matrix word of t in the allotment, for the B range that its control word names: those that become pending on it, and those that it reads
at issue (R352, R356). -/
def accumulators (s : State) (g : Group) (quant : Bool) (t : Nat) (k : DWord) : List Nat × List Nat :=
  let x := s.accumulators g.owner quant t k.toNat
  (x.1.filter (· < g.alloc), x.2.filter (· < g.alloc))

/-- R338, R349, R356: MMA and MMAQ. An accumulator that waits for an earlier matrix word is not read at issue. -/
def IssuesMma (i : Instr) (quant : Bool) (o : ArgsMTB) : Prop :=
  ∀ s g r, AtWord s g r .joined → Settled g { sr := [o.base] } →
    let acc := accumulators s g quant o.t (g.getS o.base)
    (∀ l, (∀ n ∈ acc.1 ++ acc.2, ∀ f ∈ (g.lane l).fresh, f.reg = n → Due g l f) ∧ ∀ n ∈ acc.1, ∀ p ∈ (g.lane l).pend, p.reg = n → p.mx = true) →
    g.alive ≠ [] → (∀ l ∈ g.alive, (g.lane l).counter o.ctr ≠ 63) →
    ∃ t parts, exec i s = .next t ∧
      Asked s t g (fun g => { g with mmaCount := g.mmaCount + 1 })
        { kind := .mma quant o.t (g.getS o.base) (g.mmaCount + 1), ctr := o.ctr, lanes := g.alive, parts := parts, mx := true
          team := some g.owner
          dests := g.alive.flatMap fun l => acc.1.map fun n => (l, n) } ∧
      (parts.map fun p => (p.lane, p.addr)) = g.alive.flatMap (fun l => acc.2.map fun n => (l, n)) ∧
      ∀ p ∈ parts, p.len = 0 → (∀ e ∈ (g.lane p.lane).pend, e.reg ≠ p.addr) → p.data = (g.vr p.lane p.addr).setWidth 128

/-- R338 to R345, R348, R349, R356, R357: the words of the MMX class issue for every lane of their group that has not exited. That they act for the team that
owns the group's slot also where lanes of other teams stand in it is the model's inference (log entry 19, DEDUCED), and so is its choice of registers where no B
range is held at issue (log entry 77, DESIGN CHOICE). -/
def Obligations.MatrixIssue : Prop :=
  (∀ o : ArgsMB,
    (∀ old : DWord, AsksMx (.gang o) o.ctr
      (fun g => { g with
        mmaCount := 0
        former := if field old.toNat 36 3 = 0 then g.former else (old, g.mmaCount) :: g.former })
      (fun s g => s.namedGang g = old) (fun g => .gang (g.getS o.base)) (fun _ => []) [] []) ∧
    AsksMx (.obrel o) o.ctr id
      (fun s g => ((s.team? g.owner).bind fun t => t.reservation? (field (g.getS o.base).toNat 0 4)).isSome = true)
      (fun g => .obrel (field (g.getS o.base).toNat 0 4)) (fun _ => []) [] []) ∧
  (∀ o : ArgsMTB,
    AsksMx (.obres o) o.ctr id (fun _ _ => True) (fun g => .obres (g.getS (o.base + 1) ++ g.getS o.base) o.t) (fun _ => []) [] [o.t, o.t + 1] ∧
    IssuesMma (.mma o) false o ∧ IssuesMma (.mmaq o) true o) ∧
  (∀ o : ArgsMT,
    AsksMx (.accz o) o.ctr id (fun _ _ => True) (fun _ => .accz o.t 16) (fun _ => []) ((List.range 16).map (o.t + ·)) [] ∧
    AsksMx (.acczD o) o.ctr id (fun _ _ => True) (fun _ => .accz o.t 32) (fun _ => []) ((List.range 32).map (o.t + ·)) []) ∧
  (∀ o : ArgsM,
    AsksMx (.tfetch o) o.ctr id
      (fun s g =>
        let k := (g.getS o.base).toNat
        (g.getS o.t).toNat % 32 = 0 ∧ (g.getS o.idx).toNat % 32 = 0 ∧ field k 36 8 ≠ 0 ∧ field k 6 18 % 32 = 0 ∧
        ∃ t a, s.team? g.owner = some t ∧ t.reservation? (field k 0 4) = some a ∧
          field k 6 18 + field k 24 12 * (32 * field k 36 8) ≤ a.len)
      (fun g => .tfetch (field (g.getS o.base).toNat 0 4))
      (fun g =>
        let k := (g.getS o.base).toNat
        tileParts (g.getS o.t).toNat (g.getS o.idx).toNat (field k 24 12) (32 * field k 36 8) (field k 6 18)) [] [])

/-- R365, R368: a lane of CPY copies z bytes from s to d. -/
def CopyLaneOk (s : State) (g : Group) (k : Nat) (l a d : Nat) : Prop :=
  ctlMode k ≠ 3 ∧ field k 2 2 ≠ 3 ∧ a < 2 ^ 56 ∧ (ctlDsp k = false → d < 2 ^ 56) ∧ a % ctlSize k = 0 ∧ d % ctlSize k = 0 ∧
  (ctlMode k = 2 → ctlStamp k % 8 = 0) ∧ (ctlDsp k = true → d + ctlSize k ≤ s.windowOf g l) ∧
  (ctlMode k = 1 → (s.barrier? (g.lane l).team (ctlBarrier k)).isSome = true)

/-- A copy of the whole group (R367 to R369): the team of the slot's owner, its block and its control word pass the checks of R368. -/
def BlockOk (s : State) (g : Group) (t base : Nat) (sq : Option Nat) (tm : Team) : Prop :=
  let k := (g.getS t).toNat
  let a := field (g.getS base).toNat 0 32
  let b := copyBlock (tm.read a 32)
  s.team? g.owner = some tm ∧ ctlMode k ≠ 3 ∧ (sq.isSome = true → ctlDsp k = false) ∧ a % 32 = 0 ∧ a + 32 ≤ tm.window ∧
  b.fault (ctlDsp k) sq.isSome (if ctlMode k = 2 then some (ctlStamp k) else none) = none ∧
  (ctlDsp k = true → ∀ w ∈ b.words true, w.2 + 4 ≤ tm.window) ∧
  (ctlMode k = 1 → (s.barrier? tm.tid (ctlBarrier k)).isSome = true) ∧
  (∀ n, sq = some n → ∃ x, assoc s.sendq (field (g.getS n).toNat 0 10) = some x ∧ x.getLsbD 0 = true ∧ field x.toNat 52 12 = s.ctxOfGroup g)

/-- The parts of a block's words in row order, then its stamp. -/
def blockParts (b : CopyBlock) (dsp : Bool) (done : CopyDone) : List Part :=
  ((b.words dsp).zipIdx.map fun x => { Part.new x.2 x.1.1 4 with addr2 := x.1.2 }) ++ done.parts

/-- R366, R369, R376, R320: copies, near-memory calls and RFENCE issue with what their registers and their blocks in the window say. That CPYT, CPYN and NMC act
for the team that owns the group's slot is the model's inference (log entry 19, DEDUCED), and so are the order of the checks of R368 and 0x06 for a ROWLEN that is
not a multiple of 4, which BlockOk holds (log entry 20, DEDUCED). -/
def Obligations.CopiesIssue : Prop :=
  (∀ o : ArgsM,
    (let src := fun (g : Group) l => (g.getS (o.base + 1) + (g.vr l o.t).setWidth 64).toNat
     let dst := fun (g : Group) l => if ctlDsp (g.getS (o.base + 2)).toNat then g.offset l o.base o.idx else g.address false l o.base o.idx
     Asks (.cpy o) id
      (fun s g r => ∀ l ∈ g.issueOf r o.g, CopyLaneOk s g (g.getS (o.base + 2)).toNat l (src g l) (dst g l)) fun _ g r =>
      let k := (g.getS (o.base + 2)).toNat
      let done := ctlDone k (g.getS (o.base + 3))
      { kind := .copy true (ctlDsp k) done, ctr := o.ctr, lanes := g.issueOf r o.g
        parts := ((g.issueOf r o.g).map fun l => { Part.new l (src g l) (ctlSize k) with addr2 := dst g l }) ++ done.parts }) ∧
    (∀ tm : Team,
      Asks (.cpyn o) id (fun s g _ => BlockOk s g o.t o.base (some o.idx) tm) fun _ g _ =>
        let q := (g.getS o.idx).toNat
        let b := copyBlock (tm.read (field (g.getS o.base).toNat 0 32) 32)
        let done := ctlDone (g.getS o.t).toNat (g.getS (o.t + 1))
        { kind := .send (field q 0 10) (field q 16 10) (BitVec.ofNat 32 (field q 32 32)) (BitVec.ofNat 64 b.dst) done
          ctr := o.ctr, lanes := g.alive, parts := blockParts b false done, team := some tm.tid })) ∧
  (∀ (o : ArgsMTB) (tm : Team),
    Asks (.cpyt o) id (fun s g _ => BlockOk s g o.t o.base none tm) fun _ g _ =>
      let k := (g.getS o.t).toNat
      let b := copyBlock (tm.read (field (g.getS o.base).toNat 0 32) 32)
      let done := ctlDone k (g.getS (o.t + 1))
      { kind := .copy false (ctlDsp k) done, ctr := o.ctr, lanes := g.alive, parts := blockParts b (ctlDsp k) done, team := some tm.tid }) ∧
  (∀ (o : ArgsNmc) (tm : Team),
    Asks (.nmc o) id
      (fun s g _ =>
        let a := field (g.getS o.base).toNat 0 32
        s.team? g.owner = some tm ∧ a % 64 = 0 ∧ a + 64 ≤ tm.window ∧ tm.read a 8 < 2 ^ 56) fun _ g _ =>
      let a := field (g.getS o.base).toNat 0 32
      { kind := .nmc o.entry ((List.range 16).map fun j => BitVec.ofNat 32 (tm.read (a + 4 * j) 4)) o.t, ctr := o.ctr, lanes := g.alive
        parts := [Part.new 0 (tm.read a 8) 1], sdests := [o.t, o.t + 1], team := some tm.tid }) ∧
  (∀ o : ArgsMC, ∀ s g r, AtWord s g r → g.issueOf r o.g ≠ [] → (∀ l ∈ g.issueOf r o.g, (g.lane l).counter o.ctr ≠ 63) →
    let slots := (s.teamsIn g).map Team.slot
    let s' := slots.foldl (fun (s : State) w => s.appendAndSeal w fun e => decide (0 < e.nrep)) s
    ∃ t, exec (.rfence o) s = .next t ∧ SameMemory s t ∧
      Asked s' t g id { kind := .rfence (slots.map fun w => (w, s'.mark w)), ctr := o.ctr, lanes := g.issueOf r o.g, parts := [] })

/-! ## Faults of accesses, translation, completion (10_memory, 16_scheduling) -/

/-- R173, R183, R326, R55, R283, R284: an address that fails a check at issue ends the group, with its record and %errst, for every word of the MEM and BNK
classes that is checked at issue; a bank command with FB = 3 ends it with 0x01 before any other check. That the record of a scratchpad or bank fault holds 0 in
VADDR is the model's inference (log entry 35, DEDUCED). -/
def Obligations.AccessFaults : Prop :=
  (∀ o : ArgsM,
    (∀ x ∈ [(Instr.ldB o, 1, 0, false), (.ldH o, 2, 0, false), (.ldW o, 4, 0, false), (.ldD o, 8, 0, false), (.ldQ o, 16, 0, false),
        (.ldSb o, 1, 0, false), (.ldSh o, 2, 0, false), (.ldaW o, 4, 0, true), (.ldaD o, 8, 0, true), (.ldaQ o, 16, 0, true),
        (.stB o, 1, 1, false), (.stH o, 2, 1, false), (.stW o, 4, 1, false), (.stD o, 8, 1, false), (.stQ o, 16, 1, false),
        (.staW o, 4, 1, true), (.staD o, 8, 1, true), (.staQ o, 16, 1, true),
        (.atomAdd o, 4, 2, false), (.atomSmin o, 4, 2, false), (.atomSmax o, 4, 2, false), (.atomUmin o, 4, 2, false), (.atomUmax o, 4, 2, false),
        (.atomAnd o, 4, 2, false), (.atomOr o, 4, 2, false), (.atomXor o, 4, 2, false), (.atomxXchg32 o, 4, 2, false), (.atomxXchg64 o, 8, 2, false),
        (.atomxAdd64 o, 8, 2, false), (.atomxFadd32 o, 4, 2, false), (.atomxFmin32 o, 4, 2, false), (.atomxFmax32 o, 4, 2, false),
        (.atomxFadd64 o, 8, 2, false), (.atomxIncw o, 4, 2, false), (.cas32 o, 4, 2, false), (.cas64 o, 8, 2, false)],
      FaultsBy x.1 o.g o.ctr x.2.2.1 (fun _ => True) (fun _ g l => addressCode (g.address x.2.2.2 l o.base o.idx) x.2.1)
        (fun g l => g.address x.2.2.2 l o.base o.idx)) ∧
    (∀ x ∈ [(Instr.ldsB o, 1), (.ldsH o, 2), (.ldsW o, 4), (.ldsD o, 8), (.ldsQ o, 16), (.ldsSb o, 1), (.ldsSh o, 2),
        (.stsB o, 1), (.stsH o, 2), (.stsW o, 4), (.stsD o, 8), (.stsQ o, 16), (.stsf o, 16), (.atomsAdd o, 4), (.atomsSmin o, 4), (.atomsSmax o, 4),
        (.atomsUmin o, 4), (.atomsUmax o, 4), (.atomsAnd o, 4), (.atomsOr o, 4), (.atomsXor o, 4)],
      FaultsBy x.1 o.g o.ctr 9 (fun _ => True) (fun s g l => offsetCode (s.windowOf g l) (g.offset l o.base o.idx) x.2) (fun _ _ => 0)) ∧
    (∀ x ∈ [(Instr.badd o, 4), (.bmax o, 4), (.bmin o, 4), (.bmul o, 4), (.biadd o, 4), (.bimax o, 4), (.bset o, 4), (.bsmx o, 8)],
      FaultsBy x.1 o.g o.ctr 9 (fun g => field (g.getS o.base).toNat 32 2 ≠ 3)
        (fun s g l => offsetCode (s.windowOf g l) (g.offset l o.base o.idx) x.2) (fun _ _ => 0) ∧
      ∀ s g r, AtWord s g r → Settled g (usesOf x.1) → g.ended = false → field (g.getS o.base).toNat 32 2 = 3 → g.issueOf r o.g ≠ [] →
        (∀ l ∈ g.issueOf r o.g, (g.lane l).counter o.ctr ≠ 63) → ∃ t, exec x.1 s = .next t ∧ Killed s t g 0x01 {})) ∧
  (∀ o : ArgsMBI, FaultsBy (.sete o) o.g o.ctr 9 (fun _ => True) (fun s g l => offsetCode (s.windowOf g l) (g.offset l o.base o.idx) 1) (fun _ _ => 0)) ∧
  (∀ o : ArgsLdf, ∀ x ∈ [(Instr.ldfW o, 4), (.ldfD o, 8), (.ldfQ o, 16)],
    FaultsBy x.1 o.g o.ctr 9 (fun _ => True) (fun s g l => offsetCode (s.windowOf g l) (g.offset l o.base o.idx) x.2) (fun _ _ => 0))

/-- R168 to R173: a walk of four levels through tables in fixed extents of the context to a leaf of 64 KiB that grants the right. -/
structure WalksTo (s : State) (ctx a e : Nat) : Prop where
  root : ∃ c, s.ctx? ctx = some c ∧ s.tableOk ctx c.ptroot = true ∧ extentOf c.ptroot = extentOf (c.ptroot + 32767) ∧
    ∃ e3 e2 e1, e3 = s.image.nat (c.ptroot + 8 * (a / 2 ^ 44 % 4096)) 8 ∧ pteV e3 = true ∧ tableEntryOk e3 4096 = true ∧
      s.tableOk ctx (pteOa e3) = true ∧ e2 = s.image.nat (pteOa e3 + 8 * (a / 2 ^ 35 % 512)) 8 ∧ pteV e2 = true ∧ tableEntryOk e2 4096 = true ∧
      s.tableOk ctx (pteOa e2) = true ∧ e1 = s.image.nat (pteOa e2 + 8 * (a / 2 ^ 26 % 512)) 8 ∧ pteV e1 = true ∧ tableEntryOk e1 8192 = true ∧
      s.tableOk ctx (pteOa e1) = true ∧
      (∀ k < 32, (fun x => !(pteV x && pteLeaf x && ptePs x == 1)) (s.image.nat (pteOa e1 + 8 * (a / 2 ^ 16 % 1024 / 32 * 32 + k)) 8) = true) ∧
      e = s.image.nat (pteOa e1 + 8 * (a / 2 ^ 16 % 1024)) 8
  leaf : pteV e = true ∧ pteLeaf e = true ∧ ptePs e = 0 ∧ leafEntryOk e (2 ^ 16) = true

/-- R168 to R174: TRANSLATION of a lane's part of a load with no cached entry: the part has the output of the leaf; an entry with V = 0 at the root
holds it with a replayable-fault record; an output where no extent is defined or that lies in another context's extent ends the group with 0x08, and a leaf that
grants no read ends it with 0x09, in an extent of the context and outside local memory alike, the record naming the lanes that failed. That each access that is
held writes a record of its own, with code 0, is the model's inference (log entry 36, DEDUCED). -/
def Obligations.TranslationOfLoads : Prop :=
  ∀ (s : State) (o : Op) (p : Part) (g : Group) (size : Nat) (sext : Bool) (t : Nat), s.op? o.id = some o → o.part? p.lane = some p →
    s.group? o.gid = some g → g.place ≠ .saved → g.ended = false → o.kind = .load size sext t → p.st = .issued → p.addr < 2 ^ 56 → s.tlb = [] →
    s.ctxOfGroup g = o.ctx → p.len ≠ 0 → p.lane < 32 →
    let failed : Word → Prop := fun m => inMask m p.lane = true ∧ (o.parts = [p] → m = laneMask [p.lane])
    (∀ e x, WalksTo s o.ctx p.addr e → pteTgt e = 0 → e.testBit 6 = true → s.extent? (extentOf (pteOa e + p.addr % 2 ^ 16)) = some x → x.ctx = o.ctx →
      ∃ u q, exec (.translation o.id p.lane) s = .next u ∧ SameMemory s u ∧ (u.op? o.id).bind (·.part? p.lane) = some q ∧
        q.st = .ready { tgt := 0, dev := pteDev e, addr := pteOa e + p.addr % 2 ^ 16, nl1 := e.testBit 4 }) ∧
    (∀ e, WalksTo s o.ctx p.addr e → pteTgt e = 0 → (∀ x, s.extent? (extentOf (pteOa e + p.addr % 2 ^ 16)) = some x → x.ctx ≠ o.ctx) →
      ∃ u m, exec (.translation o.id p.lane) s = .next u ∧ failed m ∧ Killed s u g 0x08 { mask := some m, vaddr := p.addr, acc := 0 }) ∧
    (∀ e x, WalksTo s o.ctx p.addr e → pteTgt e = 0 → e.testBit 6 = false → s.extent? (extentOf (pteOa e + p.addr % 2 ^ 16)) = some x → x.ctx = o.ctx →
      ∃ u m, exec (.translation o.id p.lane) s = .next u ∧ failed m ∧ Killed s u g 0x09 { mask := some m, vaddr := p.addr, acc := 0 }) ∧
    (∀ e, WalksTo s o.ctx p.addr e → pteTgt e = 1 → e.testBit 6 = false →
      ∃ u m, exec (.translation o.id p.lane) s = .next u ∧ failed m ∧ Killed s u g 0x09 { mask := some m, vaddr := p.addr, acc := 0 }) ∧
    (∀ c, s.ctx? o.ctx = some c → s.tableOk o.ctx c.ptroot = true → extentOf c.ptroot = extentOf (c.ptroot + 32767) → pteV (s.image.nat (c.ptroot + 8 * (p.addr / 2 ^ 44 % 4096)) 8) = false →
      ∃ u h, exec (.translation o.id p.lane) s = .next u ∧ Recorded s u o.ctx (s.groupEvent g 2 0 0 (laneMask [p.lane]) p.addr) ∧
        u.group? g.gid = some h ∧ h.holds = g.holds ++ [{ seq := c.seq, lanes := laneMask [p.lane], vaddr := p.addr, acc := 0 }])

/-- R177, R178, R182, R187, R188, R316, R317: COUNTED_COMPLETION of loads and stores. A load of local memory that finds no L1 copy gives the bytes that its team
has stored over the published ones, once L2 holds the line: before, the event brings a copy into L2, where one that fails its check is lost, or ends the team if it
is pending. A store stands in the write-combining buffer of its core; host memory is read and written in place. That a store to host memory is performed as it
completes is the model's choice (log entry 16, DESIGN CHOICE), and so is that an access of at most eight bytes is one step (log entry 18, DESIGN CHOICE). -/
def Obligations.LoadsAndStoresComplete : Prop :=
  ∀ (s : State) (o : Op) (p : Part) (g : Group) (f : Phys), CanPerform s o p g → p.st = .ready f →
    MemoriesOk s →
    (∀ size sext t, o.kind = .load size sext t → p.len = size → size ≤ 16 → (sext = true → size = 1 ∨ size = 2) →
      let value : Nat → Nat := fun x => if sext then ((BitVec.ofNat (8 * size) x).signExtend 32).toNat else x
      (f.tgt = 0 → (lineOf f.addr ∉ s.lost) → (f.nl1 = true ∨ ∀ l ∈ s.l1, ¬(l.core = g.core ∧ l.line = lineOf f.addr)) →
        let w := s.slotOf g p.lane
        let x := (s.landWhere fun e => e.line == lineOf f.addr && e.slot == w).teamView w f.addr size
        let brings : (State → Prop) → Prop := fun ready =>
          ∃ u, exec (.countedCompletion o.id p.lane) s = .next u ∧ SameMemory s u ∧ ready u ∧ u.groups = s.groups ∧ u.ops = s.ops
        (s.lineReady (lineOf f.addr) w = true →
          ∃ u h, exec (.countedCompletion o.id p.lane) s = .next u ∧ SameMemory s u ∧ u.group? g.gid = some h ∧
            Delivered g h p.lane o.ctr (spread t ((size + 3) / 4) (value x))) ∧
        (s.publishedReady (lineOf f.addr) = false → s.fails (lineOf f.addr) none = false → brings fun u => u.publishedReady (lineOf f.addr) = true) ∧
        (s.publishedReady (lineOf f.addr) = false → s.fails (lineOf f.addr) none = true → (∀ tag data, s.repairsFrom (lineOf f.addr) tag data = false) →
          brings fun u => lineOf f.addr ∈ u.lost) ∧
        (s.publishedReady (lineOf f.addr) = true → s.pendingReady (lineOf f.addr) w = false →
          (s.fails (lineOf f.addr) (some (w, none)) = false → brings fun u => u.lineReady (lineOf f.addr) w = true) ∧
          (∀ tm, s.fails (lineOf f.addr) (some (w, none)) = true → s.teamOfSlot w = some tm → s.team? tm.tid = some tm → GroupsOk s →
            tm.state = .resident → ∃ u, exec (.countedCompletion o.id p.lane) s = .next u ∧ TeamEnded s u tm 0x0F))) ∧
      (f.tgt = 1 →
        ∃ u h, exec (.countedCompletion o.id p.lane) s = .next u ∧ SameMemory s u ∧ u.group? g.gid = some h ∧
          Delivered g h p.lane o.ctr (spread t ((size + 3) / 4) (value (s.hostMem.nat f.addr size))))) ∧
    (∀ size, o.kind = .store size → p.len = size →
      (f.tgt = 0 →
        ∃ u h, exec (.countedCompletion o.id p.lane) s = .next u ∧ SameMemory s u ∧ u.group? g.gid = some h ∧ Delivered g h p.lane o.ctr [] ∧
          (∀ l ∈ u.l1, ¬(l.core = g.core ∧ l.line = lineOf f.addr)) ∧
          ∃ e ∈ u.wcb, e.core = g.core ∧ e.line = lineOf f.addr ∧ e.slot = s.slotOf g p.lane ∧
            ∀ k < size, cellAt e.bytes (f.addr + k) = some (byteOf p.data.toNat k)) ∧
      (f.tgt = 1 →
        ∃ u h, exec (.countedCompletion o.id p.lane) s = .next u ∧ u.group? g.gid = some h ∧ Delivered g h p.lane o.ctr [] ∧ u.image = s.image ∧
          (∀ k < size, u.hostMem.get (f.addr + k) = byteOf p.data.toNat k) ∧
          ∀ a, (a < f.addr ∨ f.addr + size ≤ a) → u.hostMem.get a = s.hostMem.get a))

/-- R185, R191 to R194, R327 to R331: COUNTED_COMPLETION in the scratchpad. Only the window of the lane's team changes, and only at the bytes
stored. A bank command's part updates its element; with the last part of the command in a granule its full bit takes the value of FB, and with the last part of
all the command completes for every lane. -/
def Obligations.ScratchpadCompletes : Prop :=
  ∀ (s : State) (o : Op) (p : Part) (g : Group) (tm : Team), CanPerform s o p g → p.isDone = false → s.team? (g.lane p.lane).team = some tm →
    Memory.wf tm.spad = true →
    let others : State → Prop := fun u => ∀ n, n ≠ tm.tid → u.team? n = s.team? n
    (∀ size sext t, o.kind = .lds size sext t → NoFullWaits s → size ≤ 16 → (sext = true → size = 1 ∨ size = 2) →
      let x := tm.read p.addr size
      ∃ u h, exec (.countedCompletion o.id p.lane) s = .next u ∧ others u ∧ SameMemory s u ∧ u.group? g.gid = some h ∧
        Delivered g h p.lane o.ctr (spread t ((size + 3) / 4) (if sext then ((BitVec.ofNat (8 * size) x).signExtend 32).toNat else x)) ∧
        u.team? tm.tid = some tm) ∧
    (∀ size, o.kind = .sts size → NoFullWaits s →
      ∃ u h m, exec (.countedCompletion o.id p.lane) s = .next u ∧ others u ∧ SameMemory s u ∧ u.group? g.gid = some h ∧ Delivered g h p.lane o.ctr [] ∧
        u.team? tm.tid = some { tm with spad := m } ∧ (∀ k < size, m.get (p.addr + k) = byteOf p.data.toNat k) ∧
        ∀ a, (a < p.addr ∨ p.addr + size ≤ a) → m.get a = tm.spad.get a) ∧
    (o.kind = .sete → NoFullWaits s →
      ∃ u h, exec (.countedCompletion o.id p.lane) s = .next u ∧ others u ∧ SameMemory s u ∧ u.group? g.gid = some h ∧ Delivered g h p.lane o.ctr [] ∧
        u.team? tm.tid = some { tm with full := tm.full.filter (· != p.addr / 16) }) ∧
    (∀ size clr t, o.kind = .ldf size clr t → size ≤ 16 → s.ops = [o] → o.parts = [p] → o.counted = laneMask [p.lane] → p.addr / 16 ∈ tm.full →
      ∃ u h, exec (.countedCompletion o.id p.lane) s = .next u ∧ others u ∧ SameMemory s u ∧ u.group? g.gid = some h ∧ u.ops = [] ∧
        (h.lane p.lane).v = setAll (g.lane p.lane).v (spread t ((size + 3) / 4) (tm.read p.addr size)) ∧
        u.team? tm.tid = some { tm with full := if clr then tm.full.filter (· != p.addr / 16) else tm.full }) ∧
    (o.kind = .stsf → s.ops = [o] → o.parts = [p] → o.counted = laneMask [p.lane] → p.addr / 16 ∉ tm.full →
      ∃ u h m fs, exec (.countedCompletion o.id p.lane) s = .next u ∧ others u ∧ SameMemory s u ∧ u.group? g.gid = some h ∧ u.ops = [] ∧
        Delivered g h p.lane o.ctr [] ∧ u.team? tm.tid = some { tm with spad := m, full := fs } ∧
        (∀ n, n ∈ fs ↔ n ∈ tm.full ∨ n = p.addr / 16) ∧ (∀ k < 16, m.get (p.addr + k) = byteOf p.data.toNat k) ∧
        ∀ a, (a < p.addr ∨ p.addr + 16 ≤ a) → m.get a = tm.spad.get a) ∧
    (∀ op fb, o.kind = .bank op fb → fb < 3 → (o.parts.map (·.lane)).Nodup → NoFullWaits s →
      let more := ∃ q ∈ o.parts, q.lane ≠ p.lane ∧ q.isDone = false ∧ q.addr / 16 = p.addr / 16 ∧ (g.lane q.lane).team = tm.tid
      ∃ u m fs, exec (.countedCompletion o.id p.lane) s = .next u ∧ others u ∧ SameMemory s u ∧
        u.team? tm.tid = some { tm with spad := m, full := fs } ∧
        (∀ k < op.size, m.get (p.addr + k) = byteOf (bankNew op (tm.read p.addr op.size) p.data.toNat) k) ∧
        (∀ a, (a < p.addr ∨ p.addr + op.size ≤ a) → m.get a = tm.spad.get a) ∧
        (fb = 0 ∨ more → fs = tm.full) ∧
        (fb = 1 → ¬more → ∀ n, n ∈ fs ↔ n ∈ tm.full ∨ n = p.addr / 16) ∧
        (fb = 2 → ¬more → fs = tm.full.filter (· != p.addr / 16)) ∧
        ((∃ q ∈ o.parts, q.lane ≠ p.lane ∧ q.isDone = false) →
          u.groups = s.groups ∧ ∃ v, u.op? o.id = some v ∧ (v.part? p.lane).map Part.isDone = some true) ∧
        ((∀ q ∈ o.parts, q.lane = p.lane ∨ q.isDone = true) → u.op? o.id = none ∧ ∃ h, u.group? g.gid = some h ∧
          (∀ l ∈ maskLanes o.counted, (h.lane l).counter o.ctr = (g.lane l).counter o.ctr - 1) ∧ (h.lane p.lane).v = (g.lane p.lane).v))

/-- R121, R196 to R198: ATOMIC_PERFORM. The lanes of one team on one element are taken in ascending order: each has as its old value what the lanes
before it leave, and the element that all of them leave is published; FADD32 and FADD64 add the fold of the lanes' operands to the element. With it every byte
that the team holds pending of the line is published (R198), and no other byte of memory changes. -/
def Obligations.AtomicsPerform : Prop :=
  ∀ (s : State) (o : Op) (g : Group) (a : Nat) (f : Phys) (op : AtomOp) (size t team : Nat), s.op? o.id = some o → s.group? o.gid = some g →
    g.place ≠ .saved → o.kind = .atomic op size t → (size = 4 ∨ size = 8) → o.parts ≠ [] → (o.parts.map (·.lane)).Nodup →
    (∀ p ∈ o.parts, p.addr = a ∧ p.st = .ready f ∧ (g.lane p.lane).team = team ∧ s.blocked o p = false ∧
      p.data.toNat < 2 ^ (8 * size) ∧ p.data2.toNat < 2 ^ (8 * size)) →
    (op = .fmin ∨ op = .fmax → size = 4) → MemoriesOk s → f.addr % size = 0 →
    let w := ((s.team? team).map Team.slot).getD Config.writerSlots
    let landed := s.landWhere fun e => e.line == lineOf f.addr && e.slot == w
    let x : Fmt := if size = 4 then F32 else F64
    let after : Nat → List Part → Nat := fun m ps =>
      if op = .fadd then (if ps = [] then m else (x.add m (x.fold (ps.map fun q => q.data.toNat)).1 0).1)
      else ps.foldl (fun m q => atomNew op size m q.data.toNat q.data2.toNat) m
    (f.tgt = 0 → lineOf f.addr ∉ s.lost → (s.extent? (extentOf f.addr)).isSome = true → s.lineReady (lineOf f.addr) w = true →
      let m := landed.teamView w f.addr size
      ∃ u v, exec (.atomicPerform o.id a) s = .next u ∧ u.image.nat f.addr size = after m o.parts % 2 ^ (8 * size) ∧ u.op? o.id = some v ∧
        (∀ n < o.parts.length, (v.parts.getD n (Part.new 0 0 0)).st = .done (BitVec.ofNat 128 (after m (o.parts.take n)))) ∧
        (∀ b, lineOf b ≠ lineOf f.addr → u.image.get b = s.image.get b) ∧
        (Overlay.wf (landed.pendingOf w) = true → ∀ b, lineOf b = lineOf f.addr → (b < f.addr ∨ f.addr + size ≤ b) →
          u.image.get b = (cellAt (landed.pendingOf w) b).getD (s.image.get b)) ∧
        (s.monitors = [] → u.groups = s.groups ∧ u.hostMem = s.hostMem)) ∧
    (f.tgt = 1 →
      let m := s.hostMem.nat f.addr size
      ∃ u v, exec (.atomicPerform o.id a) s = .next u ∧ u.image = s.image ∧ u.groups = s.groups ∧
        u.hostMem.nat f.addr size = after m o.parts % 2 ^ (8 * size) ∧ u.op? o.id = some v ∧
        (∀ b, (b < f.addr ∨ f.addr + size ≤ b) → u.hostMem.get b = s.hostMem.get b) ∧
        ∀ n < o.parts.length, (v.parts.getD n (Part.new 0 0 0)).st = .done (BitVec.ofNat 128 (after m (o.parts.take n))))

/-! ## Ordering words and monitors (14_ordering, 12_control, 18_log) -/

/-- R242 to R247: REL, ACQ, FENCE, FENCEX and ACQR as their word comes to execute. At scope GRP a release is over once the group's own LS accesses
are; wider releases, and ACQR, wait for their mark step. -/
def Obligations.OrderingWords : Prop :=
  ∀ s g r, AtWord s g r .joined → r.wait = .none →
    let quiet := s.lsDone g.gid s.fresh = true
    let clean := fun (point : Nat) => Ctx.acquired (ctxOf s g r none) point s.fresh = true
    (∀ o : ArgsRel,
      (o.scope = 0 → quiet → ∃ t, exec (.rel o) s = .next t ∧ Wrote s t g {}) ∧
      (o.scope = 0 → ¬quiet → ∃ t, exec (.rel o) s = .next t ∧ Waits s t g r (.after s.fresh)) ∧
      (o.scope ≠ 0 → ∃ t, exec (.rel o) s = .next t ∧ Waits s t g r (.rel o.scope o.sealed false s.fresh ((s.teamsIn g).map (·.tid))))) ∧
    (∀ o : ArgsScope,
      let point := if 2 ≤ o.scope then s.pubs else 0
      (clean point → ∃ t, exec (.acq o) s = .next t ∧ Wrote s t g {}) ∧
      (¬clean point → ∃ t, exec (.acq o) s = .next t ∧ Waits s t g r (.acq point s.fresh none)) ∧
      (o.scope = 0 → quiet → clean 0 → ∃ t, exec (.fence o) s = .next t ∧ Wrote s t g {}) ∧
      (o.scope ≠ 0 → ∃ t, exec (.fence o) s = .next t ∧ Waits s t g r (.rel o.scope false true s.fresh ((s.teamsIn g).map (·.tid))))) ∧
    (∀ o : ArgsPaths,
      (s.pathDone g.gid s.fresh o.pa = true → s.pathDone g.gid s.fresh o.pb = true →
        let slots := (s.teamsIn g).map Team.slot
        let s' := if o.pa = 0 ∨ o.pb = 0 then s.landWhere fun e => slots.contains e.slot else s
        ∃ t, exec (.fencex o) s = .next t ∧ SameMemory s t ∧ Wrote s' t g {}) ∧
      (s.pathDone g.gid s.fresh o.pa = false ∨ s.pathDone g.gid s.fresh o.pb = false →
        ∃ t, exec (.fencex o) s = .next t ∧ Waits s t g r (.fence o.pa o.pb s.fresh))) ∧
    (∀ o : ArgsTB, Settled g (usesOf (.acqr o)) →
      let x := (g.getS o.base).toNat
      ∃ t, exec (.acqr o) s = .next t ∧ Waits s t g r (.acqr (field x 0 8) (field x 8 2) (field x 16 32) o.t s.fresh))

/-- R236, R243, R245, R247: the mark step of a release whose stores are performed publishes everything that its team holds, at once, and the
release is over, or goes on as an acquire, once what REL.SEAL appends has found its segments; the promotion of ACQR does the same for the team that it names and empties
the L1 of its core. That the mark step also publishes what another group of the team stored after the REL and what stands in a write-combining entry by then, which
R255 permits either way, is the model's choice (log entry 72, DESIGN CHOICE). -/
def Obligations.ReleasesPublish : Prop :=
  ∀ (s : State) (g : Group) (r : Run) (tm : Team), s.group? g.gid = some g → g.place ≠ .saved → g.runs = [r] → r.lanes ≠ 0 → g.report = none →
    (∀ scope sealed acq since, r.wait = .rel scope sealed acq since [tm.tid] → s.team? tm.tid = some tm → scope < 5 → s.lsDone g.gid since = true →
      s.storesLanded tm.tid since scope = true →
      ∃ t h, exec (.relMarkStep g.gid) s = .next t ∧ Published s t tm.slot ∧ t.group? g.gid = some h ∧
        ((sealed = false ∨ ∀ e ∈ s.extents, Config.logSlack e.home s.tick ≠ 0) →
          (acq = false → ∀ x ∈ h.runs, x.wait = .none ∧ x.pos = r.pos + 1) ∧
          (acq = true → ∃ n, h.runs = [{ r with wait := .acq (if 2 ≤ scope then t.pubs else 0) n none }]))) ∧
    (∀ scope sealed acq since teams, r.wait = .rel scope sealed acq since teams → s.lsDone g.gid since = false →
      exec (.relMarkStep g.gid) s = .next s) ∧
    (∀ core k n reg since, r.wait = .acqr core k n reg since →
      (s.victim (s.ctxOfGroup g) core k n = some tm → s.storesLanded tm.tid since 0 = true →
        ∃ t h m, exec (.acqrPromotion g.gid) s = .next t ∧ Published s t tm.slot ∧ (∀ l ∈ t.l1, l.core ≠ core) ∧ t.group? g.gid = some h ∧
          h.runs = [{ r with wait := .acq t.pubs m (some (reg, 0)) }]) ∧
      (s.victim (s.ctxOfGroup g) core k n = none →
        ∃ t h m, exec (.acqrPromotion g.gid) s = .next t ∧ SameMemory s t ∧ t.group? g.gid = some h ∧
          h.runs = [{ r with wait := .acq s.pubs m (some (reg, 1)) }]))

/-- R219, R220, R234, R310 to R313, R316: WAITC, SNAP, REVERT and SNDROP. A condition that holds gives its value and status 0 at once; one that does not sets a
monitor. The read follows the earlier accesses of its lanes to the same bytes, and comes once L2 holds the line: until then the lanes wait at the word. SNAP's handle names a cast of the image as published; REVERT publishes that image again; a handle that names no cast gives status 1. -/
def Obligations.MonitorsAndCasts : Prop :=
  ∀ s g r, AtWord s g r .joined → r.wait = .none →
    (∀ (o : ArgsWaitc) (f : Phys) (s' : State), Settled g (usesOf (.waitc o)) →
      let size := if o.dword then 8 else 4
      let a := (g.getS o.base).toNat
      g.issueOf r o.g ≠ [] → Canonical a size → s.translate (.core g.core) (s.ctxOfGroup g) a { rd := true } s.fresh = (.ok f, s') → f.tgt = 0 →
      lineOf f.addr ∉ s'.lost → s.readFollows g.gid (laneMask (g.issueOf r o.g)) a size s.fresh false = false →
      let x := s'.image.nat f.addr size
      (s'.publishedReady (lineOf f.addr) = false → ∃ t, exec (.waitc o) s = .next t ∧ SameMemory s t ∧
        Forked s t g (g.issueOf r o.g) (.look a (g.getS o.t).toNat s.fresh false)) ∧
      (s'.publishedReady (lineOf f.addr) = true → monitorCond o.op size x ((g.getS o.t).toNat % 2 ^ (8 * size)) = true →
        ∃ t, exec (.waitc o) s = .next t ∧ Wrote s' t g { s := [(o.t, BitVec.ofNat 64 x), (o.t + 1, 0)] }) ∧
      (s'.publishedReady (lineOf f.addr) = true → monitorCond o.op size x ((g.getS o.t).toNat % 2 ^ (8 * size)) = false →
        ∃ t m, exec (.waitc o) s = .next t ∧ t.monitors = s'.monitors ++ [m] ∧ m.addr = f.addr ∧ m.size = size ∧ m.op = o.op ∧ m.value = g.getS o.t ∧
          m.gid = some g.gid ∧ Forked s t g (g.issueOf r o.g) (.monitor m.id o.t) ∧ SameMemory s t)) ∧
    (∀ o : ArgsWaitc, Settled g (usesOf (.waitc o)) →
      (g.issueOf r o.g = [] → ∃ t, exec (.waitc o) s = .next t ∧ Wrote s t g {}) ∧
      (let a := (g.getS o.base).toNat
       let size := if o.dword then 8 else 4
       g.issueOf r o.g ≠ [] → Canonical a size → s.readFollows g.gid (laneMask (g.issueOf r o.g)) a size s.fresh false = true →
        ∃ t, exec (.waitc o) s = .next t ∧ SameMemory s t ∧ Forked s t g (g.issueOf r o.g) (.look a (g.getS o.t).toNat s.fresh false))) ∧
    (s.lsDone g.gid s.fresh = true →
      (∀ (o : ArgsTB) (f : Phys) (s' : State), Settled g (usesOf (.snap o)) →
        s.translate (.core g.core) (s.ctxOfGroup g) (g.getS o.base).toNat { w := true, names := true } s.fresh = (.ok f, s') → f.tgt = 0 →
        ∃ t k reason, exec (.snap o) s = .next t ∧ SameMemory s t ∧
          Wrote (s'.snapExtent (extentOf f.addr)).1 t g { s := [(o.t, BitVec.ofNat 64 k), (o.t + 1, BitVec.ofNat 64 reason)] } ∧
          ∀ e, s'.extent? (extentOf f.addr) = some e → e.num < 8192 →
            (e.kind ≠ 0 → k = 0 ∧ reason = 1) ∧ (e.kind = 0 → 64 ≤ e.casts.length → k = 0 ∧ reason = 2) ∧
            (e.kind = 0 → e.casts.length < 64 → if s'.isLow e.home = true then k = 0 ∧ reason = 3 else
              reason = 0 ∧ ∃ e' c, t.validCast e.ctx k = some (e', c) ∧ e'.num = e.num ∧ c.image = s.image.filter fun x => x.1 / 2 ^ 26 == e.num)) ∧
      (∀ o : ArgsTB, Settled g (usesOf (.revert o)) → Settled g (usesOf (.sndrop o)) →
        let k := field (g.getS o.base).toNat 0 32
        (s.validCast (s.ctxOfGroup g) k = none →
          (∃ t, exec (.revert o) s = .next t ∧ Wrote s t g { s := [(o.t, 1)] }) ∧
          (∃ t, exec (.sndrop o) s = .next t ∧ Wrote s t g { s := [(o.t, 1)] })) ∧
        (∀ e c, s.validCast (s.ctxOfGroup g) k = some (e, c) →
          (∃ t, exec (.revert o) s = .next t ∧ (MemoriesOk s → Memory.wf c.image = true → (∀ x ∈ c.image, extentOf x.1 = e.num) →
            ∀ a, t.image.get a = if extentOf a = e.num then c.image.get a else s.image.get a)) ∧
          (∃ t, exec (.sndrop o) s = .next t ∧ SameMemory s t ∧ Wrote (s.dropCast e c) t g { s := [(o.t, 0)] } ∧
            ∀ x, t.extent? e.num = some x → x.cast? c.idx = none))))

/-! ## Barriers, regroup, the register pool (12_control) -/

/-- R210 to R215: the barrier words, and the end with 0x09 of a group one of whose teams has no barrier of that number.
Then: R214, R216: BARRIER_ARRIVAL. Lanes of one team arrive together at a barrier that is not broken and counts lanes: the count falls by as many, and
with the last of them the phase advances; BARA gives each lane the phase that it arrived in; the lanes of BARS wait for that phase, and with the last of them go
on with status 0. -/
def Obligations.BarrierWordsAndArrivals : Prop :=
  (∀ (o : ArgsTB) s g r, AtWord s g r .joined → g.runs = [r] → Settled g (usesOf (.barw o)) →
    let x := (g.getS o.base).toNat
    let n := field x 0 16
    let count := field x 32 32
    (∀ tid ∈ g.tags, ∃ b, s.barrier? tid n = some b) →
    (count ≤ 512 → ∃ t, exec (.bari { g := o.g, base := o.base }) s = .next t ∧ SameMemory s t ∧ ∀ tid ∈ g.tags, ∀ b, s.barrier? tid n = some b →
      t.barrier? tid n = some { b with
        broken := false
        mode := if count = 0 then .all else .fixed
        exp := count
        cnt := if count = 0 then (s.aliveOrigins tid).length else count
        members := []
        arrived := []
        groups := [] }) ∧
    (512 < count → g.ended = false → ∃ t, exec (.bari { g := o.g, base := o.base }) s = .next t ∧ Killed s t g 0x09 {}) ∧
    (∃ t h, exec (.barb o) s = .next t ∧ SameMemory s t ∧ t.group? g.gid = some h ∧ ∀ tid ∈ g.tags, ∀ b, s.barrier? tid n = some b →
      (∀ l ∈ g.alive, (g.lane l).team = tid → (h.lane l).v = (g.lane l).v.set o.t (BitVec.ofNat 32 b.ph)) ∧
      t.barrier? tid n = some { b with
        broken := false
        mode := .byte
        exp := 0
        ph := if count = 0 then (b.ph + 1) % 2 ^ 16 else b.ph
        cnt := count
        members := []
        arrived := []
        groups := [g.gid] }) ∧
    (∀ y ∈ [(Instr.bara o, false), (Instr.bars o, true)],
      (g.issueOf r o.g ≠ [] → ∃ t, exec y.1 s = .next t ∧ t = { s with groups := t.groups } ∧
        Forked s t g (g.issueOf r o.g) (.arrive n o.t count y.2 s.fresh)) ∧
      (g.issueOf r o.g = [] → ∃ t, exec y.1 s = .next t ∧ Wrote s t g {})) ∧
    (∃ t h, exec (.barw o) s = .next t ∧ SameMemory s t ∧ t.group? g.gid = some h ∧ ∀ l ∈ g.issueOf r o.g, ∀ b, s.barrier? (g.lane l).team n = some b →
      let k := field (g.vr l o.t).toNat 0 16
      (b.broken = true → (h.lane l).v = (g.lane l).v.set o.t 0x0D) ∧
      (b.broken = false → b.ph ≠ k → (h.lane l).v = (g.lane l).v.set o.t 0) ∧
      (b.broken = false → b.ph = k → (h.lane l).v = (g.lane l).v ∧ ∃ y ∈ h.runs, inMask y.lanes l = true ∧ y.waitsOn n = true))) ∧
  (∀ (o : ArgsTB) s g r, AtWord s g r .joined → Settled g (usesOf (.barw o)) → g.ended = false →
    (∃ tid ∈ g.tags, s.barrier? tid (field (g.getS o.base).toNat 0 16) = none) →
    ∀ i ∈ [Instr.bari { g := o.g, base := o.base }, .barb o, .bara o, .bars o, .barw o], ∃ t, exec i s = .next t ∧ Killed s t g 0x09 {}) ∧
  (∀ (s : State) (g : Group) (r : Run) (n reg count since tid : Nat) (thenWait : Bool) (b : Barrier), s.group? g.gid = some g → g.place ≠ .saved →
    s.arrivalDue g = some r → r.wait = .arrive n reg count thenWait since → g.runs = [r] → g.report = none →
    g.splitOf r ≠ [] → r.lanes = laneMask (g.splitOf r) → (∀ l ∈ g.splitOf r, (g.lane l).team = tid) → s.barrier? tid n = some b → b.broken = false → b.mode ≠ .byte →
    (g.splitOf r).length ≤ b.cnt →
    ∃ t h d, exec (.barrierArrival g.gid) s = .next t ∧ SameMemory s t ∧ t.group? g.gid = some h ∧ t.barrier? tid n = some d ∧
      (thenWait = false →
        (∀ l ∈ g.splitOf r, (h.lane l).v = (g.lane l).v.set reg (BitVec.ofNat 32 b.ph)) ∧ ∀ x ∈ h.runs, x.wait = .none ∨ x.lanes = 0) ∧
      (thenWait = true →
        ((g.splitOf r).length < b.cnt → ∀ l ∈ g.splitOf r, (h.lane l).v = (g.lane l).v ∧ ∃ y ∈ h.runs, inMask y.lanes l = true ∧ y.waitsOn n = true) ∧
        ((g.splitOf r).length = b.cnt → (∀ l ∈ g.splitOf r, (h.lane l).v = (g.lane l).v.set reg 0) ∧ ∀ x ∈ h.runs, x.wait = .none ∨ x.lanes = 0)) ∧
      ((g.splitOf r).length < b.cnt → d.ph = b.ph ∧ d.cnt = b.cnt - (g.splitOf r).length) ∧
      ((g.splitOf r).length = b.cnt → d.ph = (b.ph + 1) % 2 ^ 16 ∧ d.arrived = [] ∧
        d.cnt = match b.mode with
          | .all => (s.aliveOrigins tid).length
          | _ => b.exp))

/-- R223 to R231: REGRP, RGIVE and RCLAIM at their word. -/
def Obligations.RegroupAndPoolWords : Prop :=
  ∀ s g r, AtWord s g r .joined → r.wait = .none → g.splitOf r ≠ [] → (s.groups.map (·.gid)).Nodup →
    (∀ (o : ArgsRegrp), ∀ x ∈ [(Instr.regrpTeam o, false), (Instr.regrpCore o, true)], Settled g (usesOf x.1) →
      ∃ t ps, exec x.1 s = .next t ∧ t = { s with groups := t.groups } ∧
        Forked s t g (g.splitOf r) (.regrp x.2 o.p (g.alive.map fun l => (l, (g.vr l o.v).toNat % 2 ^ 8)) ps) ∧
        ((∀ h ∈ s.groups, h.regrp? = none) → ps = s.participants g x.2)) ∧
    (∀ o : ArgsN,
      (g.alloc ≤ 4 * o.n4 → ∃ t, exec (.rgive o) s = .next t ∧ Wrote s t g {}) ∧
      (4 * o.n4 < g.alloc → (∃ x ∈ g.lanes, ∃ k < 4, x.counter k ≠ 0) →
        exec (.rgive o) s = .next (s.putGroup (g.rotate r { r with wait := .retry }))) ∧
      (4 * o.n4 < g.alloc → (∀ x ∈ g.lanes, ∀ k < 4, x.counter k = 0) → s.claims g.owner = [] →
        ∃ t h, exec (.rgive o) s = .next t ∧ SameMemory s t ∧ t.group? g.gid = some h ∧ GroupWrote { g with
          alloc := 4 * o.n4
          lent := min g.lent o.n4 } h {})) ∧
    (∀ (o : ArgsNB), Settled g (usesOf (.rclaim o)) →
      (4 * o.n4 ≤ g.alloc → ∃ t, exec (.rclaim o) s = .next t ∧ Wrote s t g { s := [(o.base, 0)] }) ∧
      (∀ tm, g.alloc < 4 * o.n4 → s.claims g.owner = [] → s.team? g.owner = some tm →
        ((4 * o.n4 - g.alloc) / 4 ≤ s.reserve tm →
          ∃ t h, exec (.rclaim o) s = .next t ∧ SameMemory s t ∧ t.group? g.gid = some h ∧ h.alloc = 4 * o.n4 ∧ h.getS o.base = 0 ∧
            ∀ l n, n < (g.lane l).v.length →
              h.vr l n = if g.alloc ≤ n ∧ n < 4 * o.n4 then 0 else g.vr l n) ∧
        (s.reserve tm < (4 * o.n4 - g.alloc) / 4 →
          ∃ t, exec (.rclaim o) s = .next t ∧ SameMemory s t ∧ Forked s t g (g.splitOf r) (.claim (4 * o.n4) o.base s.fresh))))

/-- What a lane takes with it when it is relocated, but for predicate q, which its REGRP writes (R226): %origin, v registers, predicates, call stack, team, and the
address at which it goes on. -/
def carried (q : Nat) (x : Lane) (vpc : DWord) : DWord × List Word × List Bool × List DWord × Nat × DWord :=
  (x.origin, x.v, x.p.set q false, x.stack, x.team, vpc)
/-- Where a lane goes on after the clause in which it stands (R226). -/
def afterClause (g : Group) (l : Nat) : DWord := ((g.runs.find? fun r => inMask r.lanes l).map Run.fallThrough).getD (g.lane l).vpc

/-- R225 to R227, R231: a relocation moves every lane of its groups, with its registers, its predicates but the one that REGRP names, its call stack and its team,
to exactly one position, at the fall-through address of its clause, and loses none; a claim deadlock breaks every claim of the team that waits with status 0x0D
and records 0x0C. -/
def Obligations.RelocationKeepsLanes : Prop :=
  (∀ (s : State) (g : Group) (core : Bool) (p q : Nat) (keys : List (Nat × Nat)) (ps : List Nat), s.group? g.gid = some g →
    g.regrp? = some (core, p, keys, ps) → (s.groups.map (·.gid)).Nodup →
    (∀ h ∈ s.remaining ps, h.report = none ∧ ∀ r ∈ h.runs, ∀ c x ks w, r.wait = .regrp c x ks w → x = q) →
    (∀ h ∈ s.remaining ps, h.isResident = true ∧ h.regrp?.map (·.2.2.2) = some ps ∧ h.regrp?.map (·.1) = some core ∧ h.alloc = g.alloc ∧
      h.lanes.length = 32 ∧ ∀ x ∈ h.lanes, ∀ k < 4, x.counter k = 0) →
    s.remaining ps ≠ [] →
    ∃ t, exec (.regrpRelocation g.gid) s = .next t ∧ SameMemory s t ∧
      ((s.remaining ps).flatMap fun h => h.alive.map fun l => carried q (h.lane l) (afterClause h l)).Perm
        ((s.remaining ps).flatMap fun h => ((t.group? h.gid).map fun k => k.alive.map fun l => carried q (k.lane l) (k.lane l).vpc).getD [])) ∧
  (∀ (s : State) (tm : Team), s.team? tm.tid = some tm → s.claimStuck tm = true → ((s.claims tm.tid).map (·.1)).Nodup → (s.groups.map (·.gid)).Nodup →
    ∃ t, exec (.claimDeadlock tm.tid) s = .next t ∧ t.image = s.image ∧
      (∀ gid n reg since g, (gid, n, reg, since) ∈ s.claims tm.tid → s.group? gid = some g → g.s.length = 64 → reg < 64 → reg ≠ 0 → g.report = none →
        ∃ h, t.group? gid = some h ∧ h.getS reg = 0x0D ∧ ∀ x ∈ h.runs, x.claims = none) ∧
      ∀ c, s.ctx? (s.ctxOfTeam tm) = some c → ∃ d, t.ctx? c.num = some d ∧ ErrstAfter c.errst d.errst 0x0C tm.index)

/-! ## Control flow, traps, clauses (12_control, 02_execution, 16_scheduling) -/

/-- R204 to R208, R53, R73: branches, calls, returns and exits at the end of their clause; YIELD; NOP. -/
def Obligations.ControlFlow : Prop :=
  (∀ (o : ArgsJ) s g r, AtWord s g r → Apart g r → Last r →
    (let aim := fun l => if l ∈ g.issueOf r o.g then r.target o.disp else r.fallThrough
     (∃ t, exec (.bra o) s = .next t ∧ Jumped s t g r aim fun l => (g.lane l).stack) ∧
     ((∀ l ∈ g.issueOf r o.g, (g.lane l).stack.length < 16) →
       ∃ t, exec (.call o) s = .next t ∧ Jumped s t g r aim fun l =>
         if l ∈ g.issueOf r o.g then r.fallThrough :: (g.lane l).stack else (g.lane l).stack) ∧
     ((∃ l ∈ g.issueOf r o.g, 16 ≤ (g.lane l).stack.length) → g.ended = false →
       ∃ t, exec (.call o) s = .next t ∧ Killed s t g 0x0A {}))) ∧
  (∀ (o : ArgsBx) s g r, AtWord s g r → Apart g r → Last r → Settled g { vr := [o.a, o.a + 1] } →
    (let aim := fun l => if l ∈ g.issueOf r o.g then g.vr64 l o.a else r.fallThrough
     ((∀ l ∈ g.issueOf r o.g, (g.vr64 l o.a).toNat % 4 = 0) →
       (∃ t, exec (.brx o) s = .next t ∧ Jumped s t g r aim fun l => (g.lane l).stack) ∧
       ((∀ l ∈ g.issueOf r o.g, (g.lane l).stack.length < 16) →
         ∃ t, exec (.callx o) s = .next t ∧ Jumped s t g r aim fun l =>
           if l ∈ g.issueOf r o.g then r.fallThrough :: (g.lane l).stack else (g.lane l).stack)) ∧
     ((∃ l ∈ g.issueOf r o.g, (g.vr64 l o.a).toNat % 4 ≠ 0) → g.ended = false →
       ∀ i ∈ [Instr.brx o, .callx o], ∃ t, exec i s = .next t ∧ Killed s t g 0x06 {}) ∧
     ((∀ l ∈ g.issueOf r o.g, (g.vr64 l o.a).toNat % 4 = 0) → (∃ l ∈ g.issueOf r o.g, 16 ≤ (g.lane l).stack.length) → g.ended = false →
       ∃ t, exec (.callx o) s = .next t ∧ Killed s t g 0x0A {}))) ∧
  (∀ (o : ArgsC) s g r, AtWord s g r →
    (Apart g r → Last r → (∀ l ∈ g.issueOf r o.g, (g.lane l).stack ≠ []) →
      ∃ t, exec (.ret o) s = .next t ∧
        Jumped s t g r (fun l => if l ∈ g.issueOf r o.g then (g.lane l).stack.headD 0 else r.fallThrough) fun l =>
          if l ∈ g.issueOf r o.g then (g.lane l).stack.tail else (g.lane l).stack) ∧
    (g.runs = [r] → Last r →
      (∃ t h, exec (.exit o) s = .next t ∧ SameMemory s t ∧ t.group? g.gid = some h ∧ ∀ l ∈ g.splitOf r,
        (h.lane l).exited = decide (l ∈ g.issueOf r o.g) ∧ (h.lane l).v = (g.lane l).v) ∧
      (∃ t h, exec (.ret o) s = .next t ∧ SameMemory s t ∧ t.group? g.gid = some h ∧ ∀ l ∈ g.splitOf r, (h.lane l).v = (g.lane l).v ∧
        (l ∈ g.issueOf r o.g → (g.lane l).stack = [] → (h.lane l).exited = true) ∧
        (l ∈ g.issueOf r o.g → (g.lane l).stack ≠ [] →
          (h.lane l).exited = false ∧ (h.lane l).vpc = (g.lane l).stack.headD 0 ∧ (h.lane l).stack = (g.lane l).stack.tail) ∧
        (l ∉ g.issueOf r o.g → (h.lane l).exited = false ∧ (h.lane l).vpc = r.fallThrough ∧ (h.lane l).stack = (g.lane l).stack))) ∧
    (∃ t, exec (.nop o) s = .next t ∧ Wrote s t g {}) ∧
    (∃ t, exec (.yield o) s = .next t ∧ Wrote s t g {} ∧ (Last r → r.lanes ≠ 0 → ∀ h, t.group? g.gid = some h → h.active = false)))

/-- R209, R264, R288, R289: TRAP and BRK with a lane in Issue. Without a handler the group ends with the cause; with one the lanes of Issue push the
fall-through address and stand at the handler, s61 to s63 holding 0, cause and argument, and the lanes; an armed BRK halts the group. The word counts
like any other. -/
def Obligations.Traps : Prop :=
  ∀ (o : ArgsTrap) s g r, AtWord s g r →
    let armed := ((s.ctx? (s.ctxOfGroup g)).map (·.armed)).getD false
    ∀ x ∈ [(Instr.trap o, 0x11), (Instr.brk o, 0x12)],
      (g.issueOf r o.g = [] → ∃ t, exec x.1 s = .next t ∧ Wrote s t g {}) ∧
      (g.issueOf r o.g ≠ [] → (x.2 = 0x11 ∨ armed = false) → s.handlerOf g = 0 → g.ended = false →
        ∃ t, exec x.1 s = .next t ∧ Killed s t g x.2 {}) ∧
      (g.issueOf r o.g ≠ [] → (x.2 = 0x11 ∨ armed = false) → s.handlerOf g ≠ 0 → (∀ l ∈ g.issueOf r o.g, (g.lane l).stack.length < 16) →
        ∃ t h, exec x.1 s = .next t ∧ SameMemory s t ∧ t.group? g.gid = some h ∧
          h.s = setAll g.s [(61, 0), (62, BitVec.ofNat 64 (x.2 + o.n * 256)), (63, (laneMask (g.issueOf r o.g)).setWidth 64)] ∧
          ∀ l ∈ g.splitOf r, h.lane l = if l ∈ g.issueOf r o.g then
              { g.lane l with
                vpc := vpcOf (s.handlerOf g)
                stack := r.fallThrough :: (g.lane l).stack
                dist := (g.lane l).dist + 1 + o.stall
                fresh := (h.lane l).fresh }
            else { g.lane l with
                vpc := r.fallThrough
                dist := (g.lane l).dist + 1 + o.stall
                fresh := (h.lane l).fresh }) ∧
      (g.issueOf r o.g ≠ [] → (x.2 = 0x11 ∨ armed = false) → s.handlerOf g ≠ 0 → (∃ l ∈ g.issueOf r o.g, 16 ≤ (g.lane l).stack.length) →
        g.ended = false → ∃ t, exec x.1 s = .next t ∧ Killed s t g 0x0A {}) ∧
      (g.issueOf r o.g ≠ [] → x.2 = 0x12 → armed = true →
        ∃ t h, exec x.1 s = .next t ∧ SameMemory s t ∧ t.group? g.gid = some h ∧ (g.ended = false → h.halted = true) ∧
          ∀ l ∈ g.splitOf r, h.lane l = { g.lane l with
            vpc := r.fallThrough
            dist := (g.lane l).dist + 1 + o.stall
            fresh := (h.lane l).fresh })

/-- R39, R41, R45, R46, R60, R82, R272: CLAUSE_ISSUE starts the clause of the ready lanes at the issue address, or ends the group with the code of its
first failing check; a group of parked lanes ends with 0x0B; a pending group with a ready lane enters the active set while it has a place.
Then, where the lanes of an issue have parted at a word that waits (log entry 68, DESIGN CHOICE): a word that executes once for its issue waits for the others, and a
scalar word that another part has executed is passed. -/
def Obligations.Clauses : Prop :=
  (∀ (i : Instr) (s : State) (g : Group) (r : Run), s.group? s.focus = some g → s.current? g = some r →
    (shareOf i = .joined → r.wait = .none → g.parted r = true →
      exec i s = .next (s.putGroup ((g.rotate r { r with wait := .join }).settle s.tick))) ∧
    (shareOf i = .first → r.ran.contains r.pos = true → g.report = none → Settled g (usesOf i) → ∃ t, exec i s = .next t ∧ Wrote s t g {})) ∧
  (∀ (s s' : State) (g : Group) (a hdr : Nat) (ls : List Nat) (ws : List Word), s.group? g.gid = some g → s.mayIssue g = true →
    s.issueLanes g = some (a, ls) → s.fetchClause g 32 a = (.ok hdr ws, s') →
    (clauseFault (s'.checkFor g hdr) hdr ws = none →
      ∃ t h r, exec (.clauseIssue g.gid) s = .next t ∧ SameMemory s t ∧ t.group? g.gid = some h ∧ h.runs = g.runs ++ [r] ∧
        r.hdr = BitVec.ofNat 64 a ∧ r.words = ws ∧ r.pos = 0 ∧ r.lanes = laneMask ls ∧ r.wait = .none ∧ r.yields = hdr.testBit 20 ∧
        h.s = g.s ∧ ∀ l, (h.lane l).v = (g.lane l).v ∧ (h.lane l).vpc = (g.lane l).vpc) ∧
    (∀ code, clauseFault (s'.checkFor g hdr) hdr ws = some code → g.ended = false →
      ∃ t, exec (.clauseIssue g.gid) s = .next t ∧ Killed s t g code {}) ∧
    (field hdr 28 4 = 0 ∨ field hdr 0 18 ≠ 0 → clauseFault (s'.checkFor g hdr) hdr ws = some 0x01)) ∧
  (∀ (s : State) (g : Group), s.group? g.gid = some g → g.isResident = true → g.ended = false →
    (s.collectivelyStuck g = true → ∃ t, exec (.collectiveDeadlock g.gid) s = .next t ∧ Killed s t g 0x0B {}) ∧
    (s.collectivelyStuck g = false → exec (.collectiveDeadlock g.gid) s = .next s) ∧
    (s.setBroken g.gid = true → ∃ t, exec (.matchedSetBreak g.gid) s = .next t ∧ Killed s t g 0x0B {}) ∧
    (s.setBroken g.gid = false → exec (.matchedSetBreak g.gid) s = .next s)) ∧
  (∀ (s : State) (core : Nat) (p : Group), s.nextPending core = some p → s.group? p.gid = some p →
    (((s.groupsOn core).filter (·.active)).length < 8 →
      ∃ t, exec (.activeSetExchange core) s = .next t ∧ t.group? p.gid = some { p with active := true }) ∧
    (∀ q, 8 ≤ ((s.groupsOn core).filter (·.active)).length → s.idleActive core = some q → s.group? q.gid = some q → q.gid ≠ p.gid →
      ∃ t, exec (.activeSetExchange core) s = .next t ∧ t.group? p.gid = some { p with active := true } ∧
        t.group? q.gid = some { q with
          active := false
          pendingSince := s.tick }))

/-! ## Ends of groups, saving (02_execution, 16_scheduling) -/

/-- R53, R54, R276 to R278: GROUP_END ends a group whose lanes have all exited, retires a team of which nothing is left in two steps, a release at DEV
and then the return of what it held; FORCED_SAVE takes a team that is ready out as it stands, where shadow storage has room for it or saved state that moves to the
save areas makes room (R278); that it waits where neither gives room is the model's choice (log entry 80, DESIGN CHOICE); DRAIN_TIMEOUT asks for that; SAVE_AREA_MOVE
and what makes room write the save areas' extents alone. -/
def Obligations.GroupsEndAndSave : Prop :=
  (∀ (s : State) (g : Group), s.group? g.gid = some g → (s.groups.map (·.gid)).Nodup → (s.teams.map (·.tid)).Nodup →
    (g.over = true →
      (∀ tm ∈ s.teams, (tm.tid = g.owner ∨ ∃ x ∈ g.lanes, x.team = tm.tid) → ∃ h ∈ s.groups, h.gid ≠ g.gid ∧ h.owner = tm.tid ∧ h.ended = false) →
      ∃ t, exec (.groupEnd g.gid) s = .next t ∧ SameMemory s t ∧ t.dispatchDue = true ∧
        t.group? g.gid = some { g with
          ended := true
          runs := []
          active := false } ∧
        ∀ tm ∈ t.teams, ∀ b ∈ tm.barriers, g.gid ∉ b.groups) ∧
    (∀ tm, s.team? tm.tid = some tm → g.owner = tm.tid → (∀ x ∈ g.lanes, x.team = tm.tid) → g.ended = true → s.canRetire tm = true →
      (tm.released = false → (∀ x ∈ s.awaiting, x.team ≠ tm.tid) →
        ∃ t u, exec (.groupEnd g.gid) s = .next t ∧ Published s t tm.slot ∧ t.team? tm.tid = some u ∧ u.released = true ∧ u.state = .resident) ∧
      (tm.released = true → (∀ x ∈ s.awaiting, x.team ≠ tm.tid) → (∀ l, s.launch? tm.launch = some l → l.placed < l.crews) →
        ∃ t u, exec (.groupEnd g.gid) s = .next t ∧ SameMemory s t ∧ t.team? tm.tid = some u ∧ u.state = .retired ∧ u.spad = [] ∧ u.full = [] ∧
          u.barriers = [] ∧ u.reservations = [] ∧ u.lease = .none ∧ u.wslot = none ∧ ∀ w, tm.wslot = some w → t.holder? w = none))) ∧
  (∀ (s : State) (tm : Team), s.team? tm.tid = some tm → (s.groups.map (·.gid)).Nodup →
    let roomy := s.makeShadow tm.core (s.teamBytes tm)
    (s.saveReady tm = true → roomy.shadowFits tm.core (s.teamBytes tm) = true →
      ∃ t u, exec (.forcedSave tm.tid) s = .next t ∧ t.image = roomy.image ∧ (s.shadowFits tm.core (s.teamBytes tm) = true → t.image = s.image) ∧
        (MemoriesOk s → ∀ a, (∀ c ∈ s.ctxs, extentOf a < c.savex ∨ c.savex + c.saven ≤ extentOf a) → t.image.get a = s.image.get a) ∧
        (∀ e ∈ t.wcb, e.slot ≠ tm.slot) ∧ t.team? tm.tid = some u ∧
        u.state = .saved ∧ u.spad = tm.spad ∧ u.full = tm.full ∧ u.barriers = tm.barriers ∧ u.reservations = tm.reservations ∧ u.wslot = tm.wslot ∧
        ∀ g ∈ s.groups, g.owner = tm.tid → g.ended = false → t.group? g.gid = some { g.written with
          place := .saved
          active := false }) ∧
    (s.saveReady tm = false ∨ roomy.shadowFits tm.core (s.teamBytes tm) = false → exec (.forcedSave tm.tid) s = .next s)) ∧
  (∀ (s : State) (c : Context) (p : Partition), s.ctx? c.num = some c → s.part? c.pnum = some p → s.vacations = [] →
    (∃ t, exec (.drainTimeout c.num) s = .next t ∧ t = { s with teams := t.teams } ∧
      ∀ tid tm, s.team? tid = some tm →
        let late := (c.drainSince.map fun d => decide (d + 2 ^ p.drn ≤ s.tick)).getD false
        t.team? tid = some { tm with leaving := tm.leaving || (tm.state == .resident && s.ctxOfTeam tm == c.num && late) }) ∧
    (c.saved = false → (∀ tm ∈ s.teams, tm.state = .saved → s.ctxOfTeam tm ≠ c.num) → exec (.saveAreaMove c.num) s = .next s) ∧
    (s.areaFits c = false → exec (.saveAreaMove c.num) s = .next s) ∧
    (s.areaFits c = true → MemoriesOk s →
      ∃ t, exec (.saveAreaMove c.num) s = .next t ∧ t.hostMem = s.hostMem ∧ t.groups = s.groups ∧
        t.ctx? c.num = some { c with inArea := c.inArea || c.saved } ∧
        (∀ tid tm, s.team? tid = some tm → t.team? tid = some { tm with inArea := tm.inArea || (tm.state == .saved && s.ctxOfTeam tm == c.num) }) ∧
        ∀ a, (extentOf a < c.savex ∨ c.savex + c.saven ≤ extentOf a) → t.image.get a = s.image.get a))

/-! ## The write-combining buffer, L1 and L2, monitors, shootdowns (10_memory, 12_control, 14_ordering) -/

/-- R179, R180, R203, R237, R293, R316, R317: WCB_IDLE_DRAIN, WCB_ENTRY_LAND, L1_INVALIDATE and L2_FILL. No event of the caches changes a published byte. That
the record of a kill by L2_FILL holds 0xFF in ACC and 0 in VADDR is the model's choice (log entry 87, DESIGN CHOICE), and so is that bytes of an entry that fall in
no extent or in a replica extent are discarded (log entry 86, DESIGN CHOICE).
Then: R175, R222, R285: SHOOTDOWN_ARRIVAL takes the range from a translator and cancels monitors of the context on it; SHOOTDOWN_COMPLETE ends the
shootdown once every translator has been reached and every access that was translated before has landed; LONG_WAIT records a wait of 2^LWN
cycles once. -/
def Obligations.CacheEventsAndShootdowns : Prop :=
  ((∀ (s : State) (id : Nat),
    ∃ t, exec (.wcbIdleDrain id) s = .next t ∧ t = { s with wcb := t.wcb } ∧ ∀ (n : Nat) (e : WcbEntry), s.wcb[n]? = some e →
      t.wcb[n]? = some { e with drained := e.drained || (e.id == id && decide (e.merged + 512 ≤ s.tick)) }) ∧
  (∀ (s : State) (e : WcbEntry), s.wcb.find? (fun x => x.id == e.id) = some e →
    (e.drained = false → exec (.wcbEntryLand e.id) s = .next s) ∧
    (e.drained = true → e.bytes ≠ [] → Overlay.wf e.bytes = true → (∀ x ∈ s.wcb, x.line = e.line → x.slot = e.slot → e.id ≤ x.id) →
      ∃ t c, exec (.wcbEntryLand e.id) s = .next t ∧ SameMemory s t ∧ c ∈ e.bytes ∧
        (∀ a, cellAt (t.pendingOf e.slot) a =
          if granuleOf a = granuleOf c.1 ∧ (cellAt e.bytes a).isSome ∧ ∃ x, s.extent? (extentOf a) = some x ∧ x.kind ≠ 3 then cellAt e.bytes a
          else cellAt (s.pendingOf e.slot) a) ∧
        (∀ w, w ≠ e.slot → t.pendingOf w = s.pendingOf w) ∧
        ∀ x ∈ t.wcb, x.id = e.id → ∀ a, cellAt x.bytes a = if granuleOf a = granuleOf c.1 then none else cellAt e.bytes a)) ∧
  (∀ (s : State) (core line : Nat),
    ∃ t, exec (.l1Invalidate core line) s = .next t ∧ t = { s with l1 := t.l1 } ∧
      ∀ l, l ∈ t.l1 ↔ l ∈ s.l1 ∧ ¬(l.core = core ∧ l.line = line ∧ l.stale ≠ none)) ∧
  (∀ (s : State) (sector gid : Nat),
    (s.failsCheck sector = false → s.failingTeam sector = none → ∃ t, exec (.l2Fill sector gid false) s = .next t ∧ (t = { s with
      l2 := t.l2
      ilc := t.ilc }) ∧ t.inL2 sector none = true ∧ ∀ tm ∈ s.teams, tm.wslot.isSome = true → t.pendingReady sector tm.slot = true) ∧
    (∀ tm, s.failsCheck sector = false → s.failingTeam sector = some tm → s.team? tm.tid = some tm → GroupsOk s → tm.state = .resident →
      ∃ t, exec (.l2Fill sector gid false) s = .next t ∧ TeamEnded s t tm 0x0F) ∧
    (∀ bad, (bad = true ∧ s.pendingTeam sector = none) ∨ (bad = false ∧ s.failsCheck sector = true) →
      (s.hasCopy sector = false → exec (.l2Fill sector gid bad) s = .next s) ∧
      (s.repairs sector = true → ∃ t, exec (.l2Fill sector gid bad) s = .next t ∧ SameMemory s t ∧ t.groups = s.groups ∧ t.lost = s.lost) ∧
      (∀ g, s.repairs sector = false → s.hasCopy sector = true → s.group? gid = some g → g.ended = false →
        ∃ t, exec (.l2Fill sector gid bad) s = .next t ∧ Killed s t g 0x0F {} ∧ ((s.indexed sector).isSome = true → sector ∈ t.lost))) ∧
    (∀ tm, s.pendingTeam sector = some tm → s.hasCopy sector = false → s.team? tm.tid = some tm → GroupsOk s → tm.state = .resident →
      ∃ t, exec (.l2Fill sector gid true) s = .next t ∧ TeamEnded s t tm 0x0F))) ∧
  ((∀ (s : State) (h : Shoot) (w : Translator), s.shoots.find? (fun x => x.id == h.id) = some h →
    (w ∈ h.reached → exec (.shootdownArrival h.id w) s = .next s) ∧
    (w ∉ h.reached → ∃ t, exec (.shootdownArrival h.id w) s = .next t ∧ SameMemory s t ∧
      (∀ x ∈ t.shoots, x.id = h.id → w ∈ x.reached) ∧
      (∀ e ∈ t.tlb, e.ctx = h.ctx → e.base < h.base + h.len → h.base < e.base + e.size → w ∈ e.barred) ∧
      (∀ c m gid g, w = .core c → m ∈ t.monitors → m.ctx = h.ctx → h.base ≤ m.vaddr → m.vaddr < h.base + h.len → m.gid = some gid →
        s.group? gid = some g → g.core? ≠ some c))) ∧
  (∀ (s : State) (h : Shoot) (q : Queue) (c : Command), s.shoots.find? (fun x => x.id == h.id) = some h → s.queue? h.queue = some q →
    q.running = [c] → c.slot = h.slot → s.monitors = [] →
    (s.shootDone h = false → exec (.shootdownComplete h.id) s = .next s) ∧
    (s.shootDone h = true → ∃ t, exec (.shootdownComplete h.id) s = .next t ∧ t.image = s.image ∧ (∀ x ∈ t.shoots, x.id ≠ h.id) ∧
      (∀ e ∈ t.wcb, e.ctx = h.ctx → ∀ a ∈ e.vaddrs, a < h.base ∨ h.base + h.len ≤ a) ∧
      t.queue? h.queue = some { q with running := [] } ∧
      (Memory.wf s.hostMem = true → t.hostMem.nat (q.slotAddr h.slot + 56) 8 = 2 ^ 63 + c.tag.toNat * 2 ^ 8))) ∧
  (∀ (s : State) (m : Monitor) (g : Group) (r : Run) (c : Context) (p : Partition) (reg : Nat), s.monitor? m.id = some m → m.gid = some g.gid →
    s.group? g.gid = some g → s.ctx? (s.ctxOfGroup g) = some c → s.part? c.pnum = some p → g.runs = [r] → r.wait = .monitor m.id reg →
    (m.reported = true ∨ s.tick < m.since + 2 ^ p.lwn → exec (.longWait m.id) s = .next s) ∧
    (m.reported = false → m.since + 2 ^ p.lwn ≤ s.tick → ∃ t, exec (.longWait m.id) s = .next t ∧ t.image = s.image ∧
      Recorded s t c.num (s.groupEvent g 3 0 0xFF r.lanes 0) ∧ t.monitor? m.id = some { m with reported := true })))

/-! ## The log and replication (18_log) -/

/-- R305, R306, R314, R315, R346: LOG_APPEND puts the newest copy of a dirty line with its summary record into a segment of its slot, when one is free and no tile
fetch has pinned the line; CHISEL_MOVE moves what is live of an eligible segment; neither changes a byte that anyone reads.
Then: R293, R316, R319, R320: SEGMENT_SHIP brings a peer the published sectors of a settled segment, unless a copy fails its check; REPLICA_APPLY applies one
publication of a slot whole; REPLICA_CATCH_UP installs a whole image of an extent; nothing local changes. What another device's shipper brings is applied to the
replica extents of this device alone. -/
def Obligations.LogAndReplication : Prop :=
  ((∀ (s : State) (d : Dirty) (e : Extent), s.dirty.find? (fun x => x.line == d.line && x.slot == d.slot) = some d → s.indexed d.line = some e →
    (s.appendBlocked d = true ∨ s.pinned d.line = true → exec (.logAppend d.line d.slot) s = .next s) ∧
    (s.appendBlocked d = false → s.pinned d.line = false → ∃ t g r, exec (.logAppend d.line d.slot) s = .next t ∧ SameMemory s t ∧ t.marks = s.marks ∧ t.pending = s.pending ∧ d ∉ t.dirty ∧ g ∈ t.segments ∧
      g.ext = e.num ∧ g.slot = d.slot ∧ r ∈ g.recs ∧ r.idx = d.line % 2 ^ 19 ∧ r.mark = d.mark ∧ r.wslot = d.slot ∧ r.tag = d.tag ∧
      r.pending = d.pending ∧ r.live = true ∧ r.data = (s.image.overlay (if d.pending then s.pendingUnder d.slot d.tag else [])).bytes (d.line * 128) 128 ∧
      r.crc = crc32c r.data)) ∧
  (∀ (s : State) (g : Segment), s.segments.find? (fun x => x.num == g.num) = some g → (∀ x ∈ s.segments, x.num < s.fresh) →
    (s.segments.map (·.num)).Nodup →
    (s.eligible g = false → exec (.chiselMove g.num) s = .next s) ∧
    (s.eligible g = true → (s.extent? g.ext).isSome = true → (∀ r ∈ g.recs, r.intact = true) →
      ∃ t, exec (.chiselMove g.num) s = .next t ∧ t = { s with
        segments := t.segments
        fresh := t.fresh
        seals := t.seals
        leaves := t.leaves
        preds := t.preds } ∧ (∀ x ∈ t.segments, x.num ≠ g.num) ∧
      (∀ (i : Nat) (r : SumRec), g.recs[i]? = some r → s.recLive g i r = true → ∃ x ∈ t.segments, x.chisel = true ∧ x.ext = g.ext ∧ r ∈ x.recs) ∧
      ∀ x ∈ s.segments, x.num ≠ g.num → ∃ y ∈ t.segments, y.num = x.num ∧ ∀ r ∈ x.recs, r ∈ y.recs))) ∧
  ((∀ (s : State) (g : Segment) (e : Extent) (p : Peer), s.segments.find? (fun x => x.num == g.num) = some g → s.extent? g.ext = some e →
    s.peer? e.ctx p.which = some p → p.ctx = e.ctx → e.shipsTo p = true →
    (g.state ≠ .settled ∨ p.which ∈ g.shipped ∨ (s.flow p.dev).unreachable = true → exec (.segmentShip g.num p.which) s = .next s) ∧
    (g.state = .settled → p.which ∉ g.shipped → (s.flow p.dev).unreachable = false →
      (∀ x ∈ s.segments, x.slot = g.slot → x.stack = g.stack → x.state ≠ .opened → x.seq < g.seq → x.chisel = true ∨ p.which ∈ x.shipped) →
      (g.badRecs ≠ [] → ∃ t, exec (.segmentShip g.num p.which) s = .next t ∧ t.image = s.image ∧ t.ships = s.ships ∧ t.peers = s.peers) ∧
      (g.badRecs = [] → ∃ t, exec (.segmentShip g.num p.which) s = .next t ∧ t = { s with
          segments := t.segments
          ships := t.ships } ∧ (∀ x ∈ t.segments, x.num = g.num → p.which ∈ x.shipped) ∧
        ∀ (n : Nat) (h : Ship), s.ships[n]? = some h → ∃ k : Ship, t.ships[n]? = some k ∧ ∀ a, a ∈ k.left ↔ a ∈ h.left ∧ ¬(h.ctx = e.ctx ∧ h.which = p.which ∧
          ∃ r ∈ g.recs, r.live = true ∧ r.pending = false ∧ g.ext * 2 ^ 19 + r.idx = a ∧ h.point ≤ r.point)))) ∧
  (∀ (s : State) (h : Ship) (p : Peer), s.ships.find? (fun x => x.id == h.id) = some h → s.peer? h.ctx h.which = some p → p.dev ≠ s.conf.devid →
    (h.left ≠ [] → exec (.replicaApply (.own h.id)) s = .next s) ∧
    (h.left = [] → (∀ x ∈ s.ships, x.ctx = h.ctx → x.which = h.which → x.slot = h.slot → x = h) → (∀ b ∈ p.behind, h.id ≤ b.ship) →
      (s.flow p.dev).unreachable = false →
      ∃ t q, exec (.replicaApply (.own h.id)) s = .next t ∧ SameMemory s t ∧ t.peer? h.ctx h.which = some q ∧ q.image = p.image.overlay h.bytes ∧
        h.slot ∈ q.valid ∧ (∀ x ∈ h.tags, x ∈ q.tags) ∧ ∀ x ∈ t.ships, x.id ≠ h.id)) ∧
  (∀ (s : State) (b : Overlay), Memory.wf s.image = true →
    let o := b.foldl (fun (o : Overlay) c => cellPut o c.1 c.2) []
    let replica : Nat → Prop := fun a => (s.extent? (extentOf a)).map (·.kind) = some 3
    (∃ t, exec (.replicaApply (.publication b)) s = .next t ∧ t.marks = s.marks ∧
      ∀ a, (replica a → t.image.get a = (cellAt o a).getD (s.image.get a)) ∧ (¬replica a → t.image.get a = s.image.get a)) ∧
    (∀ ext, ∃ t, exec (.replicaApply (.image ext b)) s = .next t ∧ t.marks = s.marks ∧
      ∀ a, (replica a → extentOf a = ext → t.image.get a = (cellAt o a).getD 0) ∧ (¬replica a ∨ extentOf a ≠ ext → t.image.get a = s.image.get a))) ∧
  (∀ (s : State) (e : Extent) (p : Peer) (b : Behind), s.extent? e.num = some e → s.peer? e.ctx p.which = some p → p.ctx = e.ctx →
    e.shipsTo p = true → p.dev ≠ s.conf.devid → (s.flow p.dev).unreachable = false →
    p.behind.find? (fun b => b.ext == e.num) = some b → Memory.wf p.image = true → Memory.wf b.image = true → (∀ c ∈ b.image, extentOf c.1 = e.num) →
    ∃ t q, exec (.replicaCatchUp e.num p.which) s = .next t ∧ SameMemory s t ∧ t.peer? e.ctx p.which = some q ∧ q.caught = true ∧
      (∀ x ∈ q.behind, x.ship ≠ b.ship) ∧ (∀ x ∈ b.tags, x ∈ q.tags) ∧
      ∀ a, q.image.get a = if extentOf a = e.num then b.image.get a else p.image.get a))

/-! ## Copies and near-memory calls (24_engines) -/

/-- R369 to R372, R399: COPY_WRITE_LAND, COPY_COMPLETE and CPYN_ABANDON: the bytes of a part land at their destination under the team's slot, in
host memory or in the window, and count at a byte barrier; then, in one event, what the copy wrote is published, or the message delivered; then
the stamp is written and the counters fall. A message that is given up breaks its barrier, or shows it in the stamp. -/
def Obligations.CopiesComplete : Prop :=
  ∀ (s : State) (o : Op) (g : Group), s.op? o.id = some o → s.group? o.gid = some g → g.place ≠ .saved → MemoriesOk s →
    (∀ (p : Part) (x : BitVec 128), o.part? p.lane = some p → p.st = .done x → p.data2 = 0 → s.landDue o p = true →
      (o.kind.copyDone = .none → o.kind.isSend = false →
        (∀ d, p.dst = some d → d.tgt = 1 →
          ∃ u q, exec (.copyWriteLand o.id p.lane) s = .next u ∧ u.image = s.image ∧ (u.op? o.id).bind (·.part? p.lane) = some q ∧ q.st = .completed ∧
            (∀ k < p.len, u.hostMem.get (d.addr + k) = byteOf x.toNat k) ∧
            ∀ a, (a < d.addr ∨ d.addr + p.len ≤ a) → u.hostMem.get a = s.hostMem.get a) ∧
        (∀ d, p.dst = some d → d.tgt = 0 →
          ∃ u q, exec (.copyWriteLand o.id p.lane) s = .next u ∧ SameMemory s u ∧ (u.op? o.id).bind (·.part? p.lane) = some q ∧ q.st = .completed ∧
            ∀ k < p.len, (∃ x, s.extent? (extentOf (d.addr + k)) = some x ∧ x.kind ≠ 3) →
              cellAt (u.pendingOf (s.copySlot o p.lane)) (d.addr + k) = some (byteOf x.toNat k)) ∧
        (∀ tm, p.dst = none → s.team? (if o.kind.perLane then (g.lane p.lane).team else o.team) = some tm → Memory.wf tm.spad = true →
          ∃ u v, exec (.copyWriteLand o.id p.lane) s = .next u ∧ SameMemory s u ∧ u.team? tm.tid = some v ∧
            (∀ k < p.len, v.spad.get (p.addr2 + k) = byteOf x.toNat k) ∧
            ∀ a, (a < p.addr2 ∨ p.addr2 + p.len ≤ a) → v.spad.get a = tm.spad.get a)) ∧
      (∀ n b, o.kind.copyDone = .barrier n → s.barrier? (if o.kind.perLane then (g.lane p.lane).team else o.team) n = some b → b.broken = false →
        ∃ u d, exec (.copyWriteLand o.id p.lane) s = .next u ∧ u.barrier? (if o.kind.perLane then (g.lane p.lane).team else o.team) n = some d ∧
          (b.mode ≠ .byte ∨ b.cnt < p.len → d.broken = true ∧ d.ph = b.ph) ∧
          (b.mode = .byte → p.len < b.cnt → d = { b with cnt := b.cnt - p.len }) ∧
          (b.mode = .byte → p.len = b.cnt → d.ph = (b.ph + 1) % 2 ^ 16 ∧ d.broken = false))) ∧
    (o.kind.isCopy = true → o.landedAll = false → exec (.copyComplete o.id) s = .next s) ∧
    (∀ lanes dsp done w, o.kind = .copy lanes dsp done → o.landedAll = true → o.aux = 0 →
      (∀ p ∈ o.parts, p.dst.isSome = true → s.copySlot o p.lane = w) → Overlay.wf (s.pendingOf w) = true →
      ∃ u v, exec (.copyComplete o.id) s = .next u ∧ u.op? o.id = some v ∧ v.aux = 1 ∧ u.mark w = s.mark w ∧
        ∀ p ∈ o.parts, ∀ d, p.dst = some d → d.tgt = 0 → ∀ a, lineOf a = lineOf d.addr →
          cellAt (u.pendingOf w) a = none ∧
          u.image.get a = if (s.extent? (extentOf a)).isSome then (cellAt (s.pendingOf w) a).getD (s.image.get a) else s.image.get a) ∧
    (∀ sq rq tag off done, o.kind = .send sq rq tag off done → s.ops = [o] →
      (o.landedAll = true → o.aux = 0 → o.sentBytes ≠ [] →
        ∃ u m, exec (.copyComplete o.id) s = .next u ∧ SameMemory s u ∧ u.messages = m :: s.messages ∧ m.rq = rq ∧ m.tag = tag ∧ m.off = off ∧
          m.data = o.sentBytes ∧
          ∀ b, assoc s.sendq sq = some b → m.peer = BitVec.ofNat 64 (field b.toNat 64 64) ∧ m.port = field b.toNat 49 3) ∧
      (o.aux = 0 → (∀ p ∈ o.parts, p.isHeld = false) →
        ∃ u v, exec (.cpynAbandon o.id) s = .next u ∧ SameMemory s u ∧ u.messages = s.messages ∧ u.op? o.id = some v ∧ v.aux = 2 ∧
          v.landedAll = true ∧ ∀ n b, done = .barrier n → s.barrier? o.team n = some b → ∃ d, u.barrier? o.team n = some d ∧ d.broken = true)) ∧
    (∀ done, o.kind.copyDone = done → o.kind.isCopy = true → (∀ q k d, o.kind ≠ .copyCommand q k d) → o.landedAll = true → (o.aux = 1 ∨ o.aux = 2) →
      (∀ l ∈ maskLanes o.counted, o.ctr < (g.lane l).sb.length) →
      let finished : State → Prop := fun u => u.op? o.id = none ∧
        ∃ h, u.group? o.gid = some h ∧ ∀ l ∈ maskLanes o.counted, (h.lane l).counter o.ctr = (g.lane l).counter o.ctr - 1
      ((∀ a v, done ≠ .stamp a v) → ∃ u, exec (.copyComplete o.id) s = .next u ∧ SameMemory s u ∧ finished u) ∧
      (∀ a v p f, done = .stamp a v → o.part? stampPiece = some p → p.st = .ready f → f.tgt = 1 →
        ∃ u, exec (.copyComplete o.id) s = .next u ∧ u.image = s.image ∧ finished u ∧
          u.hostMem.nat f.addr 8 = (v ^^^ if o.aux = 2 then 0x8000000000000000 else 0).toNat))

/-- R377, R378, R380: the calls that write rows: ROWCOPY, BUFCOPY, ROWZERO, ROWFILL and READACC. Every byte of the rows of the banks of the mask has
its new value, published at once, and no other byte of local memory changes. -/
def Obligations.RowCalls : Prop :=
  ∀ (s : State) (k : Nat) (o : Op) (x : Extent) (args : List Word) (t : Nat), MemoriesOk s → s.callRefused o = none → s.extent? o.aux = some x →
    let slot := ((s.team? o.team).map Team.slot).getD Config.writerSlots
    let rows := inRows x.num (argP args 1) (argP args 2) (banksOf args)
    (∀ i e, (i, e) ∈ [(Instr.rowcopy k, 0), (.bufcopy k, 2)] → AtCall s k o e args t →
      ∃ u, exec i s = .next u ∧ CallDone u o t 0 ∧
        (∀ a, rows a → (u.image.get a).toNat = s.teamView slot (a + argP args 0 * 2 ^ 14 - argP args 1 * 2 ^ 14) 1) ∧
        ∀ a, ¬rows a → u.image.get a = s.image.get a) ∧
    (AtCall s k o 1 args t → ∃ u, exec (.rowzero k) s = .next u ∧ CallDone u o t 0 ∧
      ∀ a, (rows a → u.image.get a = 0) ∧ (¬rows a → u.image.get a = s.image.get a)) ∧
    (AtCall s k o 10 args t → ∃ u, exec (.rowfill k) s = .next u ∧ CallDone u o t 0 ∧
      ∀ a, (rows a → u.image.get a = byteOf (argP args 4) (a % 4)) ∧ (¬rows a → u.image.get a = s.image.get a)) ∧
    (AtCall s k o 6 args t → ∃ u, exec (.readacc k) s = .next u ∧ CallDone u o t 0 ∧
      (∀ b ∈ banksOf args, ∀ n < 64, u.image.nat (atomAddr x.num (argP args 0) (argP args 1 + n / 8) b + 4 * (n % 8)) 4 =
        (wordAt ((s.dmu x.channel).acc.getD b []) n).toNat) ∧
      ∀ a, ¬inRows x.num (argP args 0) 1 (banksOf args) a → u.image.get a = s.image.get a)

/-- R377 to R379, R382: the calls on the DMUs of a pseudo-channel and on the lease, and the calls that are refused: a refused call returns its status
and does nothing else; a call of another entry, or none, leaves the state. -/
def Obligations.DmuCalls : Prop :=
  ∀ (s : State) (k : Nat) (o : Op) (x : Extent) (args : List Word) (t : Nat), s.extent? o.aux = some x →
    let slot := ((s.team? o.team).map Team.slot).getD Config.writerSlots
    let d := s.dmu x.channel
    let entries := [(Instr.rowcopy k, 0), (.rowzero k, 1), (.bufcopy k, 2), (.abenter k, 3), (.bcast k, 4), (.gemv k, 5), (.readacc k, 6), (.abexit k, 7),
      (.accclr k, 8), (.leaseq k, 9), (.rowfill k, 10)]
    (∀ i e, (i, e) ∈ entries →
      (s.callAt k = none → exec i s = .next s) ∧
      (∀ e', e' ≠ e → AtCall s k o e' args t → exec i s = .next s) ∧
      (∀ st, AtCall s k o e args t → s.callRefused o = some st →
        ∃ u, exec i s = .next u ∧ CallDone u o t st ∧ SameMemory s u ∧ u.dmus = s.dmus ∧ u.teams = s.teams)) ∧
    (s.callRefused o = none → ∀ tm, s.team? o.team = some tm →
      (AtCall s k o 3 args t → ∃ u v, exec (.abenter k) s = .next u ∧ CallDone u o t 0 ∧ SameMemory s u ∧ u.team? tm.tid = some v ∧
        v = { tm with lease := .held x.home x.pc 0 } ∧ u.dmu x.channel = Dmu.zero x.home x.pc) ∧
      (AtCall s k o 4 args t → ∃ u, exec (.bcast k) s = .next u ∧ CallDone u o t 0 ∧ SameMemory s u ∧ (u.dmu x.channel).acc = d.acc ∧
        ∀ b < 16, ∀ n < 256, wordAt ((u.dmu x.channel).bcast.getD b []) n =
          BitVec.ofNat 32 (s.teamView slot (atomAddr x.num (argP args 0) (argP args 2 + n / 16) (argP args 1) + 2 * (n % 16)) 2)) ∧
      (AtCall s k o 5 args t → d.acc.length = 16 → (∀ a ∈ d.acc, a.length = 64) →
        ∃ u, exec (.gemv k) s = .next u ∧ CallDone u o t 0 ∧ SameMemory s u ∧ (u.dmu x.channel).bcast = d.bcast ∧
          ∀ b < 16, ∀ n < 64, wordAt ((u.dmu x.channel).acc.getD b []) n =
            if b ∈ banksOf args ∧ argP args 2 ≤ n ∧ n < argP args 2 + argP args 1 then
              let j := argP args 0 * 32 + (n - argP args 2)
              BitVec.ofNat 32 (gemvAcc (d.bcast.getD b []) (argP args 4 + b * argP args 5) (wordAt (d.acc.getD b []) n).toNat
                (s.teamView slot (atomAddr x.num (j / 32) (j % 32) b) 32))
            else wordAt (d.acc.getD b []) n) ∧
      (AtCall s k o 8 args t → d.acc.length = 16 → ∃ u, exec (.accclr k) s = .next u ∧ CallDone u o t 0 ∧ SameMemory s u ∧
        (u.dmu x.channel).bcast = d.bcast ∧
        ∀ b < 16, (u.dmu x.channel).acc.getD b [] = if b ∈ banksOf args then List.replicate 64 0 else d.acc.getD b []) ∧
      (AtCall s k o 7 args t → ∃ u v, exec (.abexit k) s = .next u ∧ CallDone u o t (if tm.lease = .lost then 0x13 else 0) ∧ SameMemory s u ∧
        u.team? tm.tid = some v ∧ v = { tm with lease := .none } ∧
        (tm.leased = none → u.dmus = s.dmus) ∧ ∀ c, tm.leased = some c → u.dmu c = Dmu.zero c.1 c.2) ∧
      (AtCall s k o 9 args t → ∃ u w h, exec (.leaseq k) s = .next u ∧ CallDone u o t 0 ∧ SameMemory s u ∧ u.dmus = s.dmus ∧ u.teams = s.teams ∧
        exec (.countedCompletion o.id 0) u = .next w ∧ w.group? o.gid = some h ∧ ∀ n c used, (tm.lease = .held n c used → h.getS (t + 1) = BitVec.ofNat 64 (50000 - used / 27)) ∧
          (tm.leased = none → h.getS (t + 1) = 0)))

/-- R382 to R384: LEASE_BOUND, LEASE_REESTABLISH and SEQUENCER_WATCHDOG. A lease is lost after 50,000 memory cycles, and a call of the holder that is
under way returns 0x13; a saved one comes back with the state of its DMUs once its pseudo-channel is free; a call that has run for 200,000 memory
cycles, or without a micro-word for 8,192, returns 0x13, and every byte of local memory holds what it held or what the call writes there. -/
def Obligations.Leases : Prop :=
  (∀ (s : State) (tm : Team) (k c used : Nat), s.team? tm.tid = some tm → tm.lease = .held k c used →
    (used < 50000 * 27 → exec (.leaseBound tm.tid) s = .next s) ∧
    (50000 * 27 ≤ used → (∀ r o, s.begun k = some r → s.op? r.op = some o → o.team ≠ tm.tid) →
      ∃ t, exec (.leaseBound tm.tid) s = .next t ∧ SameMemory s t ∧
        t.team? tm.tid = some { tm with lease := .lost } ∧ t.dmu (k, c) = Dmu.zero k c) ∧
    (∀ r o reg, 50000 * 27 ≤ used → InCall s k r o reg → o.team = tm.tid → ∃ t, exec (.leaseBound tm.tid) s = .next t ∧ SameMemory s t ∧
      CallDone t o reg 0x13 ∧ t.team? tm.tid = some { tm with lease := .lost } ∧ t.dmu (k, c) = Dmu.zero k c)) ∧
  (∀ (s : State) (tm : Team) (k c used : Nat) (bcast acc : List (List Word)), s.team? tm.tid = some tm → tm.lease = .saved k c used bcast acc →
    (tm.state ≠ .resident ∨ s.channelTaken tm.tid (k, c) = true → exec (.leaseReestablish tm.tid) s = .next s) ∧
    (tm.state = .resident → s.channelTaken tm.tid (k, c) = false → ∃ t, exec (.leaseReestablish tm.tid) s = .next t ∧ SameMemory s t ∧
      t.team? tm.tid = some { tm with lease := .held k c used } ∧ (t.dmu (k, c)).bcast = bcast ∧ (t.dmu (k, c)).acc = acc)) ∧
  (∀ (s : State) (k : Nat) (r : CallRun) (o : Op) (x : Extent) (t : Nat), InCall s k r o t → s.extent? o.aux = some x → MemoriesOk s →
    (r.ran < 200000 * 27 → r.quiet < 8192 * 27 → exec (.sequencerWatchdog k) s = .next s) ∧
    (200000 * 27 ≤ r.ran ∨ 8192 * 27 ≤ r.quiet → ∃ u, exec (.sequencerWatchdog k) s = .next u ∧ CallDone u o t 0x13 ∧
      (∀ a, u.image.get a = s.image.get a ∨
        ∃ w ∈ r.was ++ s.callLeft o, w.1 ≤ a ∧ a < w.1 + 32 ∧ u.image.get a = byteOf w.2 (a - w.1)) ∧
      (x.kind = 2 → u.dmu x.channel = Dmu.zero x.home x.pc ∧ ∀ v ∈ u.teams, v.leased ≠ some x.channel)))

/-! ## Errors and packets (10_memory, 26_fabric) -/

/-- R185, R203, R227, R316, R317, R360, and R263 and R266 for the two statuses of the front end's walk: UNCORRECTABLE_ERROR, by where it lies. The lanes that the
mask of a record names are log entries 8 and 36 (the lanes whose access then fails; lane 0 for a walk that is made as for lane 0), and an error of a register
while participants of a REGRP are still awaited is log entry 83: the model's choices. -/
def Obligations.UncorrectableErrors : Prop :=
  ∀ s : State,
    (∀ core line, ∃ t, exec (.uncorrectableError (.l1Line core line)) s = .next t ∧ t = { s with l1 := t.l1 } ∧
      ∀ l, l ∈ t.l1 ↔ l ∈ s.l1 ∧ ¬(l.core = core ∧ l.line = line)) ∧
    (∀ tm, s.team? tm.tid = some tm → GroupsOk s → tm.state = .resident →
      (∀ e, s.wcb.find? (fun x => x.id == e.id) = some e → s.teamOfSlot e.slot = some tm →
        ∃ t, exec (.uncorrectableError (.wcbEntry e.id)) s = .next t ∧ TeamEnded s t tm 0x0F) ∧
      (∃ t, exec (.uncorrectableError (.scratchpad tm.tid)) s = .next t ∧ TeamEnded s t tm 0x0F) ∧
      (tm.reservations ≠ [] → ∃ t, exec (.uncorrectableError (.operandBuffer tm.tid)) s = .next t ∧ TeamEnded s t tm 0x0F) ∧
      (tm.reservations = [] → exec (.uncorrectableError (.operandBuffer tm.tid)) s = .next s) ∧
      (∀ g l r, s.group? g.gid = some g → (g.lane l).team = tm.tid → r ∈ g.runs → (∃ core p keys ps, r.wait = .regrp core p keys ps) →
        let gs := s.collected g.gid
        (relocationDue gs = false → ∃ t, exec (.uncorrectableError (.regrpRegister g.gid l)) s = .next t ∧ TeamEnded s t tm 0x10) ∧
        (relocationDue gs = true → GroupsOk (s.relocate gs) → (s.relocate gs).team? tm.tid = some tm →
          ∃ t, exec (.uncorrectableError (.regrpRegister g.gid l)) s = .next t ∧ TeamEnded (s.relocate gs) t tm 0x10))) ∧
    (∀ seg i, ∃ t, exec (.uncorrectableError (.copy seg i)) s = .next t ∧ t = { s with segments := t.segments } ∧
      t.segments.map (·.num) = s.segments.map (·.num)) ∧
    (∀ (g : Group) (r : Run) (o : ArgsWaitc) (rest : List Word) (a : Nat), s.group? g.gid = some g → g.runs = [r] → g.isResident = true → g.ended = false →
      decode (r.words.drop r.pos) = .ok (.waitc o, rest) → g.issueOf r o.g ≠ [] →
      (r.wait = .none ∧ a = (g.getS o.base).toNat) ∨ (∃ v since again, r.wait = .look a v since again) →
      ∃ t, exec (.uncorrectableError (.walk g.gid)) s = .next t ∧ Killed s t g 0x08 { mask := some 1, vaddr := a, acc := 7 }) ∧
    (∀ n q x, (Starts s n q x (0x01, 0) [(64, 64), (128, 64), (192, 48), (240, 7), (247, 1)] →
        ∃ t, exec (.uncorrectableError (.frontWalk n)) s = .next t ∧ OnlyDone s t q x 0x80) ∧
      (Starts s n q x (0x03, 0) [(64, 64), (128, 64)] ∨ Starts s n q x (0x04, 0) [(64, 64), (128, 64), (192, 3)] →
        ∃ t, exec (.uncorrectableError (.frontWalk n)) s = .next t ∧ OnlyDone s t q x 0x86)) ∧
    (∀ sector gid, exec (.uncorrectableError (.sector sector gid)) s = exec (.l2Fill sector gid true) s) ∧
    (∀ o p g, s.op? o.id = some o → o.part? p.lane = some p → s.group? o.gid = some g → g.ended = false → s.translationDue o p = true → p.len ≠ 0 →
      p.lane < 32 →
      (∃ size sext t, o.kind = .load size sext t) ∨ (∃ size, o.kind = .store size) ∨ (∃ op size t, o.kind = .atomic op size t) →
      ∃ t m, exec (.uncorrectableError (.pageTable o.id p.lane)) s = .next t ∧ inMask m p.lane = true ∧ (o.parts = [p] → m = laneMask [p.lane]) ∧
        Killed s t g 0x08 { mask := some m, vaddr := p.addr, acc := o.kind.acc })

/-- R388, R391: a packet that is in turn is delivered and the flow goes on; one that is early is kept until its turn; one for another device is not
delivered; one of a kind that the table lacks (0, and every kind above 0x0B), or an ATOMIC of an operation that it lacks, is dropped and counted in the
error counter of its link, whichever of the eleven meanings is asked for it. -/
def Obligations.PacketsInOrder : Prop :=
  ∀ (s : State) (p : Packet), ∀ x ∈ [(Instr.ldreq p, 0x01), (.ldrsp p, 0x02), (.store p, 0x03), (.stack p, 0x04), (.atomic p, 0x05), (.atrsp p, 0x06),
      (.publish p, 0x07), (.puback p, 0x08), (.demand p, 0x09), (.grant p, 0x0A), (.discard p, 0x0B)],
    (p.kind ≠ x.2 ∨ p.ddev ≠ s.conf.devid → exec x.1 s = .next s) ∧
    ((p.kind = 0 ∨ 0x0B < p.kind ∨ (p.kind = 0x05 ∧ 0x12 ≤ p.op)) → exec x.1 s = .next s ∧ ∃ t, exec (.packetDrop p) s = .next t ∧ t = { s with linkErrors := t.linkErrors } ∧
      t.linkError p.port = s.linkError p.port + 1 ∧ ∀ port, port ≠ p.port → t.linkError port = s.linkError port) ∧
    (p.kind = x.2 → p.ddev = s.conf.devid → unknownPacket p = false → p.seq ≠ (s.flow p.sdev).recvSeq →
      (∀ q ∈ (s.flow p.sdev).early, q.seq ≠ p.seq) →
      ∃ t, exec x.1 s = .next t ∧ t = { s with flows := t.flows } ∧ (t.flow p.sdev).recvSeq = (s.flow p.sdev).recvSeq ∧
        (t.flow p.sdev).early = (s.flow p.sdev).early ++ [p] ∧ ∀ dev, dev ≠ p.sdev → t.flow dev = s.flow dev) ∧
    (p.kind = x.2 → p.ddev = s.conf.devid → unknownPacket p = false → p.seq = (s.flow p.sdev).recvSeq → (s.flow p.sdev).early = [] →
      ∃ t, exec x.1 s = .next t ∧ (t.flow p.sdev).recvSeq = ((s.flow p.sdev).recvSeq + 1) % 2 ^ 20 ∧ (t.flow p.sdev).early = []) ∧
    (unknownPacket p = false → exec (.packetDrop p) s = .next s)

/-- R199, R388 to R390, R394: what the packets do that ask something of this device, each in turn with no early packet behind it: LDREQ, ATOMIC, STORE,
PUBLISH and DISCARD are answered; a store stands pending under its source's tag, a publication publishes what stands there, a discard takes it away;
a demand joins those that wait, and the source whose turn it is is granted a unit of 4 KiB. Choices of the model: the layout of the beats (log entry 15), that an
ATOMIC publishes its element alone (log entry 26), and that bytes for an extent that only segment shipping fills are discarded (log entry 86). -/
def Obligations.PacketsAsk : Prop :=
  ∀ (s : State) (p : Packet), p.ddev = s.conf.devid → unknownPacket p = false → p.seq = (s.flow p.sdev).recvSeq → (s.flow p.sdev).early = [] →
    MemoriesOk s → p.laddr < 2 ^ 39 →
    let answers : State → Nat → Prop := fun t kind => ∃ q ∈ t.sent, q.kind = kind ∧ q.ddev = p.sdev ∧ q.sws = p.sws ∧ q.laddr = p.laddr
    let held := s.tagged p
    let storable : Nat → Prop := fun a => ∃ x, s.extent? (extentOf a) = some x ∧ x.kind ≠ 3
    let readable := s.publishedReady (lineOf p.laddr) = true ∨ s.fails (lineOf p.laddr) none = false
    (p.kind = 0x01 → readable → (s.flow p.sdev).queue = [] → 16 ≤ (s.flow p.sdev).granted → lineOf p.laddr ∉ s.lost →
      ∃ t q, exec (.ldreq p) s = .next t ∧ SameMemory s t ∧ t.sent.head? = some q ∧ q.kind = 0x02 ∧ q.ddev = p.sdev ∧ q.laddr = p.laddr ∧
        q.beats = [BitVec.ofNat 128 (s.image.nat (p.laddr / 16 * 16) 16)]) ∧
    (p.kind = 0x03 → (∀ x ∈ s.pending, x.tag = some (p.sdev, p.sws) → Overlay.wf x.bytes = true) →
      (∀ x ∈ s.pending, ∀ y ∈ s.pending, x.tag = some (p.sdev, p.sws) → y.tag = x.tag → y ≠ x → ∀ a, cellAt x.bytes a = none ∨ cellAt y.bytes a = none) →
      ∃ t, exec (.store p) s = .next t ∧ SameMemory s t ∧ answers t 0x04 ∧
      ∀ a, let stored := storable a ∧ lineOf a = lineOf p.laddr ∧ (p.beats.headD 0).getLsbD (a % 128) = true
        (stored → cellAt (t.tagged p) a = some (byteOf (p.beats.getD (1 + a % 128 / 16) 0).toNat (a % 16))) ∧
        (¬stored → cellAt (t.tagged p) a = cellAt held a)) ∧
    (p.kind = 0x07 → Overlay.wf held = true → ∃ t, exec (.publish p) s = .next t ∧ answers t 0x08 ∧ t.tagged p = [] ∧ t.marks = s.marks ∧
      ∀ a, (storable a → t.image.get a = (cellAt held a).getD (s.image.get a)) ∧ (¬storable a → t.image.get a = s.image.get a)) ∧
    (p.kind = 0x0B → ∃ t, exec (.discard p) s = .next t ∧ SameMemory s t ∧ answers t 0x08 ∧ t.tagged p = []) ∧
    (p.kind = 0x09 → let n := (p.beats.headD 0).toNat
      (n = 0 → ∃ t, exec (.demand p) s = .next t ∧ SameMemory s t ∧ t.sent = s.sent ∧ t.demands = s.demands) ∧
      ∀ dev m rest, n ≠ 0 → s.demands ++ [(p.sdev, n)] = (dev, m) :: rest →
        ∃ t q, exec (.demand p) s = .next t ∧ SameMemory s t ∧ t.sent.head? = some q ∧ q.kind = 0x0A ∧ q.ddev = dev ∧
          q.beats = [BitVec.ofNat 128 4096] ∧ t.demands = if m ≤ 4096 then rest else rest ++ [(dev, m - 4096)]) ∧
    (∀ op size v n, p.kind = 0x05 → (s.flow p.sdev).atoms = [] → atomOfCode p.op = (op, size) → op ≠ .fadd → p.laddr % size = 0 → storable p.laddr →
      readable →
      p.beats = [BitVec.ofNat 128 (v + n * 2 ^ 64)] → v < 2 ^ (8 * size) → n < 2 ^ (8 * size) →
      ∃ t q, exec (.atomic p) s = .next t ∧ t.sent.head? = some q ∧ q.kind = 0x06 ∧ q.ddev = p.sdev ∧ q.laddr = p.laddr ∧
        q.beats = [BitVec.ofNat 128 (s.image.nat p.laddr size)] ∧
        t.image.nat p.laddr size = atomNew op size (s.image.nat p.laddr size) v n % 2 ^ (8 * size) ∧
        ∀ a, (a < p.laddr ∨ p.laddr + size ≤ a) → t.image.get a = s.image.get a)

/-- R197, R199, R251, R388, R390, R394: what the answers do, each in turn with no early packet behind it: LDRSP completes the load whose request
it answers, ATRSP gives the lanes of the aggregated operation that it answers their old values (the first request of its kind, slot and address that has
no answer), STACK and PUBACK take what a team waits for from its list, GRANT lets bytes go. The layout of the beats is log entry 15, the model's choice. -/
def Obligations.PacketsAnswer : Prop :=
  ∀ (s : State) (p : Packet), p.ddev = s.conf.devid → unknownPacket p = false → p.seq = (s.flow p.sdev).recvSeq → (s.flow p.sdev).early = [] →
    let asked : Nat → Op → Part → Prop := fun kind o q => (s.flow p.sdev).asked.find? (fun r => r.isFor p) =
      some { kind := kind, sws := p.sws, laddr := p.laddr, op := o.id, lane := q.lane, piece := 0 }
    (∀ o q g f size sext t, p.kind = 0x02 → s.ops = [o] → o.parts = [q] → o.kind = .load size sext t → o.counted = laneMask [q.lane] → q.lane < 32 →
      size ∈ [1, 2, 4, 8] → (sext = true → size ≤ 2) → q.len = size → f.addr % size = 0 → q.st = .remote f [0] 0 → f.tgt = 2 → f.dev = p.sdev →
      f.addr % 2 ^ 39 = p.laddr → asked 0x02 o q → s.group? o.gid = some g → (g.lane q.lane).exited = false → o.ctr < (g.lane q.lane).sb.length →
      (∀ e ∈ (g.lane q.lane).pend, e.op = o.id → e.keep = false) →
      let x := (p.beats.headD 0).toNat / 256 ^ (p.laddr % 16) % 256 ^ size
      ∃ u h, exec (.ldrsp p) s = .next u ∧ SameMemory s u ∧ u.ops = [] ∧ u.group? o.gid = some h ∧
        Delivered g h q.lane o.ctr (spread t ((size + 3) / 4) (if sext then ((BitVec.ofNat (8 * size) x).signExtend 32).toNat else x))) ∧
    (∀ o q g f op size t, p.kind = 0x06 → s.ops = [o] → o.parts = [q] → o.kind = .atomic op size t → q.st = .remote f [0] 0 → f.tgt = 2 → f.dev = p.sdev →
      f.addr % 2 ^ 39 = p.laddr → asked 0x06 o q → s.group? o.gid = some g →
      ∃ u v, exec (.atrsp p) s = .next u ∧ SameMemory s u ∧ u.op? o.id = some v ∧
        (v.part? q.lane).map (·.st) = some (.done (BitVec.ofNat 128 ((p.beats.headD 0).toNat % 2 ^ (8 * size))))) ∧
    (∀ tid x, p.kind = 0x04 → s.answersFor p.sws = some tid → s.awaiting = [x] → x.team = tid → x.dev = p.sdev → x.kind = .sent →
      x.addr % 2 ^ 39 = p.laddr → ∃ u, exec (.stack p) s = .next u ∧ SameMemory s u ∧ u.awaiting = [{ x with kind := .held }]) ∧
    (∀ tid x, p.kind = 0x08 → s.answersFor p.sws = some tid → s.awaiting = [x] → x.team = tid → x.dev = p.sdev → x.kind ∈ [.publish, .stray, .discard] →
      ∃ u, exec (.puback p) s = .next u ∧ SameMemory s u ∧ u.awaiting = [] ∧
        (s.holder? p.sws = some (.discarding tid) → u.holder? p.sws = none) ∧
        (s.holder? p.sws ≠ some (.discarding tid) → u.holders = s.holders)) ∧
    (p.kind = 0x0A → (s.flow p.sdev).queue = [] → ∃ u, exec (.grant p) s = .next u ∧ SameMemory s u ∧ u.sent = s.sent ∧
      (u.flow p.sdev).granted = (s.flow p.sdev).granted + (p.beats.headD 0).toNat ∧ (u.flow p.sdev).demanded = 0)

/-- R393, R399, R400: an access that waits for an unreachable device ends its group, and an acknowledgement makes the device reachable again; a message
for a bound queue at its port and within its extent is published with its record, and any other is answered with a transport error and leaves nothing
else. That the message and its record are published in one step is log entry 18, the model's choice (R399 publishes the record after the message). -/
def Obligations.DevicesAndMessages : Prop :=
  (∀ (s : State) (dev : Nat),
    (∃ t, exec (.linkLevelAcknowledgement dev) s = .next t ∧ SameMemory s t ∧ (t.flow dev).unreachable = false ∧
      ((∀ p ∈ (s.flow dev).queue, p.ddev = dev) → ∀ d, d ≠ dev → t.flow d = s.flow d)) ∧
    ((∀ o ∈ s.ops, ∀ p ∈ o.parts, p.waitsOn dev = false) → (∀ x ∈ s.awaiting, x.dev ≠ dev) →
      ∃ t, exec (.unreachable dev) s = .next t ∧ t = { s with flows := t.flows } ∧ (t.flow dev).unreachable = true) ∧
    (∀ o p g, s.ops = [o] → o.parts = [p] → p.waitsOn dev = true → (∀ q k d, o.kind ≠ .copyCommand q k d) → s.group? o.gid = some g → g.ended = false →
      s.awaiting = [] → ∃ t, exec (.unreachable dev) s = .next t ∧ Killed s t g 0x08 { vaddr := p.addr, acc := o.kind.acc })) ∧
  (∀ (s : State) (m : NetMessage),
    let refused := exec (.receiveMessage m) s = .next { s with refusals := m :: s.refusals }
    ((∀ q ∈ s.recvq, q.num = m.rq → q.reg.getLsbD 0 = false) → refused) ∧
    (∀ q, s.recvq.find? (fun x => x.num == m.rq && x.reg.getLsbD 0) = some q →
      (rqPort q.reg ≠ m.port ∨ 2 ^ 26 < m.off.toNat + m.data.length → refused) ∧
      (∀ e, rqPort q.reg = m.port → m.off.toNat + m.data.length ≤ 2 ^ 26 → MemoriesOk s → s.pendingOf q.slot = [] → s.extent? (rqExt q.reg) = some e →
        e.kind ≠ 3 →
        let base := rqExt q.reg * 2 ^ 26
        let at_ := base + rqOff q.reg + 8 * (q.count % 2 ^ rqN q.reg)
        rqOff q.reg + 8 * 2 ^ rqN q.reg ≤ 2 ^ 26 →
        ∃ t, exec (.receiveMessage m) s = .next t ∧ t.marks = s.marks ∧
          t.image.nat at_ 8 = m.data.length + m.tag.toNat * 2 ^ 32 ∧
          (∀ n < m.data.length, (base + m.off.toNat + n < at_ ∨ at_ + 8 ≤ base + m.off.toNat + n) →
            t.image.get (base + m.off.toNat + n) = m.data.getD n 0) ∧
          (∀ a, (a < base + m.off.toNat ∨ base + m.off.toNat + m.data.length ≤ a) → (a < at_ ∨ at_ + 8 ≤ a) → t.image.get a = s.image.get a) ∧
          t.recvq.find? (fun x => x.num == m.rq && x.reg.getLsbD 0) = some { q with count := q.count + 1 })))

/-! ## Starting, attestation, power (28_platform) and the register window (26_fabric) -/

/-- R401 to R403: START, START_TIMEOUT and PLDM_CLEAR_FAILCNT. A start that reaches stage 5 leaves an empty machine with its configuration; one that
begins with the count at 3 has one die, one stack and no fabric, replicas or near-memory units; one that fails does so in the first stage that finds a
fault, raises the count and keeps its reason. Fuses, the firmware image and host memory stay; that nothing else of the machine but the flash does is log
entry 47, and which core positions a die has is log entry 32: the model's choices. -/
def Obligations.StartOfThePart : Prop :=
  (∀ (o : StartInput) (s : State),
    let maq := s.boot.flashCount == 3
    let reason := if s.boot.flashCount = 0 then 0 else s.boot.flashReason
    let verified := s.firmware.signature.key = s.fuses.keyHash ∧ s.firmware.signature.digest = sha384 s.firmware.image
    let current := s.fuses.rollback ≤ s.firmware.version
    let someCore := ∃ n < 64, coreOn maq o n = true
    let kept : State → Prop := fun t => t.hostMem = s.hostMem ∧ t.fuses = s.fuses ∧ t.firmware = s.firmware
    (verified → current → o.fault = none ∨ (o.fault = some .discovery ∧ maq = true) → someCore → ∃ t, exec (.start o) s = .next t ∧
      t.boot = { stage := 5, done := true, maq := maq, failcnt := s.boot.flashCount, reason := reason, failed := false
                 flashCount := if maq then 3 else 0, flashReason := if maq then s.boot.flashReason else 0 } ∧
      kept t ∧ t.image = [] ∧ t.groups = [] ∧ t.teams = [] ∧ t.queues = [] ∧ t.ctxs = [] ∧ t.extents = [] ∧ t.marks = [] ∧ t.q0ring = 0 ∧
      t.conf.record.getLsbD 0 = maq ∧ (∀ n < 256, (t.conf.features.getD n 0).getLsbD 31 = coreOn maq o n) ∧
      t.cores.map (·.rank) = List.range t.conf.enabled.length ∧ (∀ c ∈ t.cores, c.step = 0 ∧ c.ramp = 0) ∧
      (maq = true → (∀ c ∈ t.conf.channels, c.1 = 0) ∧ ∀ n < 256, ∀ f, t.conf.features[n]? = some f →
        (64 ≤ n → f = 0) ∧ f.getLsbD 7 = false ∧ f.getLsbD 8 = false ∧ f.getLsbD 9 = false)) ∧
    (let failed : Nat → Nat → State → Prop := fun stage code t => kept t ∧ t.queues = [] ∧ t.groups = [] ∧
       t.boot = { stage := stage, done := false, maq := maq, failcnt := s.boot.flashCount, reason := code, failed := true
                  flashCount := min 3 (s.boot.flashCount + 1), flashReason := code }
     (¬verified → ∃ t, exec (.start o) s = .next t ∧ failed 1 1 t) ∧
     (verified → ¬current → ∃ t, exec (.start o) s = .next t ∧ failed 1 2 t) ∧
     (verified → current →
       (∀ x ∈ [(StartFault.stackTraining, 3), (.linkTraining, 4), (.controlStore, 6)], o.fault = some x.1 →
         ∃ t, exec (.start o) s = .next t ∧ failed 2 x.2 t) ∧
       (o.fault = none ∨ o.fault = some .discovery →
         (¬someCore → ∃ t, exec (.start o) s = .next t ∧ failed 3 7 t) ∧
         (someCore → o.fault = some .discovery → maq = false → ∃ t, exec (.start o) s = .next t ∧ failed 4 5 t))) ∧
     ∀ stage ∈ [1, 2, 3, 4], ∃ t, exec (.startTimeout stage) s = .next t ∧ failed stage 8 t)) ∧
  ∀ s : State, ∃ t, exec .pldmClearFailcnt s = .next t ∧ t = { s with boot := { s.boot with
    flashCount := 0
    flashReason := 0 } }

/-- R404, R405, R408: an SPDM request is answered and changes nothing else; NEGOTIATE_ALGORITHMS chooses ECDSA P-384 with SHA-384 or nothing, GET_DIGESTS gives
the digest of the certificate chain, GET_MEASUREMENTS the digests that are asked for, signed with the identity key, and CHALLENGE a signature of it. The
power cap, a throttle step and the end of a ramp change only what they name: a step takes effect on the core named at once, and one chosen before has then
taken effect on every core (log entry 90). The codes and the layout of the SPDM answers are log entry 12: the model's choices. -/
def Obligations.AttestationAndPower : Prop :=
  ∀ s : State,
    (∀ q : SpdmRequest,
      let answers : Instr → Nat → (SpdmAnswer → Prop) → Prop := fun i code p =>
        ∃ t a, exec i s = .next t ∧ t = { s with spdm := a :: s.spdm } ∧ a.request = code ∧ p a
      answers (.getVersion q) 0x84 (fun a => a.body = [0x13]) ∧
      answers (.getCapabilities q) 0xE1 (fun a => a.signature = none) ∧
      answers (.negotiateAlgorithms q) 0xE3 (fun a =>
        a.chosen = if (q.body.getD 4 0).getLsbD 7 = true ∧ (q.body.getD 8 0).getLsbD 1 = true then some .ecdsaP384Sha384 else none) ∧
      answers (.getDigests q) 0x81 (fun a => a.body = sha384 Config.certificateChain) ∧
      answers (.getCertificate q) 0x82 (fun a => ∃ n k, a.body = (Config.certificateChain.drop n).take k) ∧
      answers (.challenge q) 0x83 (fun a => ∃ d, a.signature = some { key := Config.identityKey, digest := sha384 d }) ∧
      answers (.getMeasurements q) 0xE0 (fun a => (∃ d, a.signature = some { key := Config.identityKey, digest := sha384 d }) ∧
        (∀ m ∈ a.measurements, 1 ≤ m.1 ∧ m.1 ≤ 5 ∧ ∃ b, m.2 = sha384 b) ∧
        (q.param2 = 0xFF → a.measurements.map (·.1) = [1, 2, 3, 4, 5]) ∧
        (∀ n, 1 ≤ n → n ≤ 5 → q.param2 = BitVec.ofNat 8 n → a.measurements.map (·.1) = [n]))) ∧
    (∀ w, ∃ t, exec (.powerCap w) s = .next t ∧ t = { s with powerCap := w }) ∧
    (∀ core n, 7 < n → exec (.throttleStepChange core n) s = .next s) ∧
    ∀ core c, s.core? core = some c →
      (∀ n ≤ 7, ∃ t, exec (.throttleStepChange core n) s = .next t ∧
        t = { s with
          cores := t.cores
          throttle := n
          throttleSince := s.tick } ∧
        t.core? core = some { c with step := n } ∧ ∀ k, k ≠ core → t.core? k = (s.core? k).map fun d => { d with step := s.throttle }) ∧
      (∃ t, exec (.rampEnd core) s = .next t ∧ t = { s with cores := t.cores } ∧ (∀ k, k ≠ core → t.core? k = s.core? k) ∧
        (c.rampCycles < 2048 → t.core? core = some c) ∧
        (2048 ≤ c.rampCycles → c.ramp ≠ 0 → t.core? core = some { c with
          ramp := 0
          rampCycles := 0 }))

/-- R256, R284, R396, R398, R400: writes to the registers of the window. QDB of queue 0, Q0RING, SQBIND and RQBIND act only through the privileged function.
Reserved bits read 0; a doorbell value out of range, a write to a queue that is not bound, to Q0RING while queue 0 is busy, and to any other offset change
nothing. A write of 64 bits writes one half of a 128-bit register; RQBIND binds only under the conditions of R400, and keeps the fields written. Choices of
the model: which conditions those are (log entry 58), and that the half with V decides, that a bound queue whose V is written 1 again keeps its slot and its
count, and that a write that fails the conditions leaves it unbound (log entry 89). -/
def Obligations.RegisterWindow : Prop :=
  ∀ s : State,
    (∀ n v, (s.queue? n = none ∨ (n = 0 ∧ v.privileged = false)) → exec (.qdb n v) s = .next s) ∧
    (∀ n v q, (n = 0 → v.privileged = true) → s.queue? n = some q → ∃ t, exec (.qdb n v) s = .next t ∧ t = { s with queues := t.queues } ∧
      t.queue? n = some { q with tail := if v.value.toNat < 2 ^ q.n then v.value.toNat else q.tail } ∧ ∀ m, m ≠ n → t.queue? m = s.queue? m) ∧
    (∀ n v c, s.ctx? n = some c →
      (2 ^ c.evn ≤ v → exec (.evdb n v) s = .next s) ∧
      (v < 2 ^ c.evn → c.evwait = [] → ∃ t, exec (.evdb n v) s = .next t ∧ t = { s with ctxs := t.ctxs } ∧ t.ctx? n = some { c with evhead := v }) ∧
      (∀ r, v < 2 ^ c.evn → c.evwait = [r] → (c.evtail + 1) % 2 ^ c.evn ≠ v → Memory.wf s.hostMem = true →
        ∃ t, exec (.evdb n v) s = .next t ∧ t.hostMem.nat (c.evring + 32 * c.evtail) 32 = r.toNat ∧ t.ctx? n = some { c with
          evhead := v
          evtail := (c.evtail + 1) % 2 ^ c.evn
          evwait := [] })) ∧
    (∀ v : HostWrite, let n := v.value.toNat % 32
      ((v.privileged = false ∨ ∃ q, s.queue? 0 = some q ∧ (q.running ≠ [] ∨ q.head ≠ q.tail)) → exec (.q0ring v) s = .next s) ∧
      (v.privileged = true → (∀ q, s.queue? 0 = some q → q.running = [] ∧ q.head = q.tail) →
        ∃ t, exec (.q0ring v) s = .next t ∧ t = { s with
            queues := t.queues
            q0ring := v.value &&& 0x1FFFFFFFFFC1F } ∧
          (n < 4 ∨ 16 < n → t.queue? 0 = none) ∧
          (4 ≤ n → n ≤ 16 → ∃ q, t.queue? 0 = some q ∧ q.ring = field v.value.toNat 10 39 * 2 ^ 10 ∧ q.n = n ∧ q.head = 0 ∧ q.tail = 0 ∧ q.running = []))) ∧
    (∀ n (v : HalfWrite), (1024 ≤ n ∨ v.privileged = false → exec (.sqbind n v) s = .next s) ∧
      (n < 1024 → v.privileged = true → ∃ t, exec (.sqbind n v) s = .next t ∧ t = { s with sendq := t.sendq } ∧
        (∀ k < 128, ((assoc t.sendq n).getD 0).getLsbD k =
          ((if decide (64 ≤ k) = v.high then v.value.getLsbD (k % 64) else ((assoc s.sendq n).getD 0).getLsbD k) && !(1 ≤ k && k ≤ 47))) ∧
        ∀ m, m ≠ n → assoc t.sendq m = assoc s.sendq m)) ∧
    (∀ n (v : HalfWrite) (reg : BitVec 128), n < 1024 → v.privileged = true →
      (∀ k < 128, reg.getLsbD k =
        ((if decide (64 ≤ k) = v.high then v.value.getLsbD (k % 64) else (s.receiveReg n).getLsbD k) && !(1 ≤ k && k ≤ 68))) →
      let bound := (s.receiveReg n).getLsbD 0 = true
      let queue : State → RecvQueue → Prop := fun t q => t.recvq.find? (fun x => x.num == n) = some q
      (v.high = true → ∃ t q, exec (.rqbindBind n v) s = .next t ∧ t = { s with recvq := t.recvq } ∧ queue t q ∧ q.reg = reg ∧
        ∀ p, queue s p → q = { p with reg := reg }) ∧
      (v.high = false → v.value.getLsbD 0 = true →
        (s.bindOk reg = false → ∃ t q, exec (.rqbindBind n v) s = .next t ∧ t = { s with
            holders := t.holders
            recvq := t.recvq } ∧ queue t q ∧ q.reg = reg &&& ~~~1#128 ∧ q.count = 0 ∧ ∀ h ∈ t.holders, h.2 ≠ .receiveQueue n) ∧
        (s.bindOk reg = true → bound → ∀ p, queue s p → ∃ t, exec (.rqbindBind n v) s = .next t ∧ t = { s with recvq := t.recvq } ∧
          queue t { p with reg := reg }) ∧
        (s.bindOk reg = true → ¬bound → s.freeSlots ≠ [] → ∃ t q, exec (.rqbindBind n v) s = .next t ∧ SameMemory s t ∧ queue t q ∧ q.reg = reg ∧
          q.count = 0 ∧ q.slot ∈ s.freeSlots ∧ t.holder? q.slot = some (.receiveQueue n)) ∧
        (s.bindOk reg = true → ¬bound → s.freeSlots = [] → ∃ t q, exec (.rqbindBind n v) s = .next t ∧ t = { s with recvq := t.recvq } ∧ queue t q ∧
          q.reg = reg &&& ~~~1#128 ∧ q.count = 0)) ∧
      (v.high = false → v.value.getLsbD 0 = false → ∃ t q, exec (.rqbindUnbind ⟨n, { value := v.value, privileged := true }⟩) s = .next t ∧ t = { s with
          holders := t.holders
          recvq := t.recvq } ∧ (∀ x ∈ t.recvq, x.num = n → x = q) ∧ q ∈ t.recvq ∧ q.num = n ∧ q.count = 0 ∧ q.reg = reg ∧
        (∀ h ∈ t.holders, h.2 ≠ .receiveQueue n) ∧ ∀ x, x.num ≠ n → (x ∈ t.recvq ↔ x ∈ s.recvq))) ∧
    (∀ n (v : HalfWrite) (w : HostWrite),
      (1024 ≤ n ∨ v.privileged = false ∨ (v.high = false ∧ v.value.getLsbD 0 = false) → exec (.rqbindBind n v) s = .next s) ∧
      (1024 ≤ n ∨ w.privileged = false ∨ w.value.getLsbD 0 = true → exec (.rqbindUnbind ⟨n, w⟩) s = .next s)) ∧
    ∀ off v, exec (.registerWrite off v) s = .next s

/-! ## Commands (16_scheduling, 18_log) -/

/-- The command of queue n that has that form and those fields of its body. -/
def IsCommand (n : Nat) (i : Instr) (form : Nat × Nat) (fields : List (Nat × Nat)) : Prop := (i, form, fields) ∈
  [(Instr.unknownCommand n, (0, 0), []), (.launch n, (0x01, 0), [(64, 64), (128, 64), (192, 48), (240, 7), (247, 1)]),
   (.copy n, (0x02, 0), [(64, 64), (128, 64), (192, 64), (256, 64), (320, 64)]), (.signal n, (0x03, 0), [(64, 64), (128, 64)]),
   (.wait n, (0x04, 0), [(64, 64), (128, 64), (192, 3)]), (.saveDrain n, (0x06, 0), [(64, 1)]), (.saveForce n, (0x06, 1), [(64, 1)]),
   (.resume n, (0x07, 0), [(64, 1)]), (.replay n, (0x08, 0), [(64, 32), (96, 1)]), (.cancelw n, (0x09, 0), []),
   (.shoot n, (0x0A, 0), [(64, 64), (128, 64)]), (.part n, (0x10, 0), [(64, 5), (96, 64), (160, 22)]),
   (.ctx n, (0x11, 0), [(64, 17), (128, 136), (272, 21)]), (.queueBind n, (0x12, 0), queueFields), (.queueUnbind n, (0x12, 1), queueFields),
   (.ctxend n, (0x13, 0), [(64, 12)])]
  ++ [(Instr.extentCreate n, 0), (.extentDestroy n, 1), (.extentSetrepl n, 2), (.extentQuery n, 3), (.extentSnap n, 4), (.extentRevert n, 5),
      (.extentSndrop n, 6), (.extentPromote n, 7), (.extentLoad n, 8)].map (fun x => (x.1, (0x05, x.2), extentFields))
  ++ [(Instr.debugArm n, 0), (.debugDisarm n, 1), (.debugHaltCmd n, 2), (.debugRead n, 3), (.debugWrite n, 4), (.debugCont n, 5),
      (.debugClrerr n, 6)].map (fun x => (x.1, (0x0B, x.2), debugFields x.2))

/-- R256 to R260: when a command starts, and the two refusals that every command has: a reserved bit of its header or body gives 0x80, and a queue on
which it may not stand 0x83, with no other effect (a LAUNCH or RESUME is a dispatch opportunity all the same, R267). That the first comes before the second is
log entry 30, and that a code or form that does not exist gives 0x80 on every queue is log entry 59: the model's choices. A meaning that is not of the
command's form leaves the state. -/
def Obligations.CommandHeaders : Prop :=
  ∀ (s : State) (n : Nat),
    (∀ q x, s.nextCommand n = some (q, x) → s.queue? n = some q ∧ x = s.hostMem.nat (q.ring + 64 * q.head) 64 ∧ q.head ≠ q.tail ∧
      (∀ c ∈ q.running, c.op ≠ 0x04) ∧ (x.testBit 8 = true ∨ x % 256 = 0x03 → q.running = []) ∧
      (∀ c, n ≠ 0 → s.ctx? q.ctx = some c → c.saved = true → x % 256 ∈ [0x05, 0x07, 0x08, 0x09, 0x0A, 0x0B])) ∧
    ∀ i form fields, IsCommand n i form fields →
      (s.nextCommand n = none → exec i s = .next s) ∧
      ∀ q x, s.nextCommand n = some (q, x) → (∀ c ∈ q.running, c.slot ≠ q.head) →
        (commandForm x ≠ form → exec i s = .next s) ∧
        (commandForm x = form → namedOnly fields x = false → ∃ t, exec i s = .next t ∧ OnlyDone s t q x 0x80) ∧
        (commandForm x = (0, 0) → ∃ t, exec (.unknownCommand n) s = .next t ∧ OnlyDone s t q x 0x80) ∧
        (commandForm x = form → form ≠ (0, 0) → form.1 ≠ 0x05 → namedOnly fields x = true → ¬(0x10 ≤ form.1 ↔ n = 0) →
          ∃ t, exec i s = .next t ∧ OnlyDone s t q x 0x83)

/-- R32, R265: the shape of a launch is in range. -/
def ShapeInRange (l : Launch) : Prop :=
  1 ≤ l.c ∧ 1 ≤ l.gx ∧ 1 ≤ l.gy ∧ 1 ≤ l.gz ∧ l.gx * l.gy * l.gz ≤ 2 ^ 32 - 1 ∧ 8 ≤ l.alloc ∧ l.alloc ≤ 64 ∧ l.alloc % 4 = 0 ∧
    l.g * l.alloc / 4 + l.reserve ≤ 256 ∧ l.window ≤ 983040 ∧ l.barriers ≤ 512 ∧ l.share ≤ 64

/-- R263 to R268. First, where each of LAUNCH, COPY, SIGNAL and WAIT takes its effect, under conditions on the state and the command alone: LAUNCH of a
descriptor that can be read and passes the checks puts a launch on its list; COPY within its limits becomes an operation of the copy engines; SIGNAL
writes its value and completes with status 0, in local and in host memory; WAIT completes with status 0 where its condition holds, and else sets its
monitor. Then the checks that they make and the statuses that these give. A LAUNCH or WAIT whose line L2 does not hold fills it first (R316). A COPY of no
bytes completes at once with its stamp written (log entry 45). Choices of the model: that the first accepted launch of a context has number 1 (log entry 84),
that a COPY gives 0x80 for its LEN before 0x86 (log entry 85), and that SIGNAL to TGT 2 and up and WAIT on TGT other than 0 give 0x86 (log entry 92). -/
def Obligations.WorkCommands : Prop :=
  ∀ (s : State) (n : Nat) (q : Queue) (x : Nat),
    let s' := s.takeCommand q x
    let a := field x 64 64
    let b := field x 128 64
    ((∀ f c p, Starts s n q x (0x01, 0) [(64, 64), (128, 64), (192, 48), (240, 7), (247, 1)] → a % 64 = 0 →
        s.translateFront q.ctx a { rd := true } = .ok f → f.tgt = 0 → s.publishedReady (lineOf f.addr) = true → lineOf f.addr ∉ s.lost →
        s.ctx? q.ctx = some c → s.part? c.pnum = some p →
        let d := s.image.nat f.addr 64
        let num := (c.launches + 1) % 2 ^ 16
        let l := launchOf s.fresh num q q.head d x
        descReservedOk d = true → ShapeInRange l → l.latency = q.latency → b % 8 = 0 → l.feat &&& 0xFFFFFC00 = 0 →
        s.featureFits p l.feat = true → s.crewFits p l = true →
        ∃ t, exec (.launch n) s = .next t ∧ Started s t q x ∧ t.launches = s.launches ++ [l] ∧ t.ctx? q.ctx = some { c with launches := num } ∧
          t.dispatchDue = true) ∧
      (let len := field x 192 64
       let stamp := field x 256 64
       Starts s n q x (0x02, 0) [(64, 64), (128, 64), (192, 64), (256, 64), (320, 64)] → 0 < len → len % 4 = 0 → len ≤ 2 ^ 40 → a % 4 = 0 → b % 4 = 0 →
        stamp % 8 = 0 → ∃ t o w, exec (.copy n) s = .next t ∧ Started s t q x ∧ t.ops = s.ops ++ [o] ∧ o.ctx = q.ctx ∧
          o.kind = .copyCommand n q.head (if stamp = 0 then .none else .stamp stamp (BitVec.ofNat 64 (field x 320 64))) ∧
          w ∈ s.freeSlots ∧ t.holder? w = some (.copy o.id)) ∧
      (∀ f, Starts s n q x (0x03, 0) [(64, 64), (128, 64)] → a % 8 = 0 → s.translateFront q.ctx a { w := true } = .ok f → f.addr % 8 = 0 →
        MemoriesOk s → s.monitors = [] →
        (f.tgt = 0 → (s.extent? (extentOf f.addr)).isSome = true →
          ∃ t, exec (.signal n) s = .next t ∧ Done s t q x 0 ∧ t.image.nat f.addr 8 = b) ∧
        (f.tgt = 1 → (f.addr + 8 ≤ q.slotAddr q.head + 56 ∨ q.slotAddr q.head + 64 ≤ f.addr) →
          ∃ t, exec (.signal n) s = .next t ∧ Done s t q x 0 ∧ t.hostMem.nat f.addr 8 = b)) ∧
      (∀ f, Starts s n q x (0x04, 0) [(64, 64), (128, 64), (192, 3)] → a % 8 = 0 → s.translateFront q.ctx a { rd := true } = .ok f → f.tgt = 0 →
        s.publishedReady (lineOf f.addr) = true → lineOf f.addr ∉ s.lost →
        (monitorCond (field x 192 3) 8 (s.image.nat f.addr 8) b = true → ∃ t, exec (.wait n) s = .next t ∧ OnlyDone s t q x 0) ∧
        (monitorCond (field x 192 3) 8 (s.image.nat f.addr 8) b = false → ∃ t m, exec (.wait n) s = .next t ∧ Started s t q x ∧
          t.monitors = s.monitors ++ [m] ∧ m.addr = f.addr ∧ m.size = 8 ∧ m.op = field x 192 3 ∧ m.value = BitVec.ofNat 64 b))) ∧
    (∀ line, (s.frontLine n (0x01, 0) [(64, 64), (128, 64), (192, 48), (240, 7), (247, 1)] 64 = some line → exec (.launch n) s = .next (s.fillAlone line)) ∧
      (s.frontLine n (0x04, 0) [(64, 64), (128, 64), (192, 3)] 8 = some line → exec (.wait n) s = .next (s.fillAlone line))) ∧
    (Starts s n q x (0x01, 0) [(64, 64), (128, 64), (192, 48), (240, 7), (247, 1)] →
      s.frontLine n (0x01, 0) [(64, 64), (128, 64), (192, 48), (240, 7), (247, 1)] 64 = none →
      (s'.readDescriptor q.ctx a = none → ∃ t, exec (.launch n) s = .next t ∧ OnlyDone s t q x 0x80) ∧
      ∀ d c, s'.readDescriptor q.ctx a = some d → s.ctx? q.ctx = some c →
        let num := (c.launches + 1) % 2 ^ 16
        let l := launchOf s.fresh num q q.head d x
        (∀ st, s'.launchRefused q d l = some st → ∃ t, exec (.launch n) s = .next t ∧ OnlyDone s t q x st) ∧
        (s'.launchRefused q d l = none → ∃ t, exec (.launch n) s = .next t ∧ Started s t q x ∧ t.launches = s.launches ++ [l] ∧
          l.placed = 0 ∧ l.entry = BitVec.ofNat 64 d ∧ t.ctx? q.ctx = some { c with launches := num } ∧ t.dispatchDue = true)) ∧
    (Starts s n q x (0x02, 0) [(64, 64), (128, 64), (192, 64), (256, 64), (320, 64)] →
      let len := field x 192 64
      let stamp := field x 256 64
      (len % 4 ≠ 0 ∨ 2 ^ 40 < len → ∃ t, exec (.copy n) s = .next t ∧ OnlyDone s t q x 0x80) ∧
      (len % 4 = 0 → len ≤ 2 ^ 40 → b % 4 ≠ 0 ∨ a % 4 ≠ 0 ∨ stamp % 8 ≠ 0 → ∃ t, exec (.copy n) s = .next t ∧ OnlyDone s t q x 0x86) ∧
      (len = 0 → b % 4 = 0 → a % 4 = 0 → stamp % 8 = 0 →
        (stamp = 0 → ∃ t, exec (.copy n) s = .next t ∧ OnlyDone s t q x 0) ∧
        (stamp ≠ 0 → (∀ f, s'.translateFront q.ctx stamp { w := true } = .ok f → 2 ≤ f.tgt) → ∃ t, exec (.copy n) s = .next t ∧ OnlyDone s t q x 0x86) ∧
        (∀ f, stamp ≠ 0 → s'.translateFront q.ctx stamp { w := true } = .ok f → f.addr % 8 = 0 → MemoriesOk s →
          (f.tgt = 0 → (s.extent? (extentOf f.addr)).isSome = true → s.monitors = [] → ∃ t, exec (.copy n) s = .next t ∧ Done s t q x 0 ∧
            t.image.nat f.addr 8 = field x 320 64 ∧ t.marks = s.marks ∧ ∀ c, (c < f.addr ∨ f.addr + 8 ≤ c) → t.image.get c = s.image.get c) ∧
          (f.tgt = 1 → (f.addr + 8 ≤ q.slotAddr q.head + 56 ∨ q.slotAddr q.head + 64 ≤ f.addr) → ∃ t, exec (.copy n) s = .next t ∧ Done s t q x 0 ∧
            t.image = s.image ∧ t.hostMem.nat f.addr 8 = field x 320 64))) ∧
      (0 < len → len % 4 = 0 → len ≤ 2 ^ 40 → b % 4 = 0 → a % 4 = 0 → stamp % 8 = 0 → ∃ t o, exec (.copy n) s = .next t ∧ Started s t q x ∧ t.ops = s.ops ++ [o] ∧
        o.ctx = q.ctx ∧ (∃ w, w ∈ s.freeSlots ∧ t.holder? w = some (.copy o.id)) ∧
        o.kind = .copyCommand n q.head (if stamp = 0 then .none else .stamp stamp (BitVec.ofNat 64 (field x 320 64))) ∧
        (∀ k < len / 4, ∃ p, o.parts[k]? = some p ∧ p.len = 4 ∧ p.addr = (b + 4 * k) % 2 ^ 64 ∧ p.addr2 = (a + 4 * k) % 2 ^ 64))) ∧
    (Starts s n q x (0x03, 0) [(64, 64), (128, 64)] →
      (a % 8 ≠ 0 → ∃ t, exec (.signal n) s = .next t ∧ OnlyDone s t q x 0x86) ∧
      (∀ f, a % 8 = 0 → s'.translateFront q.ctx a { w := true } = .ok f → f.addr % 8 = 0 → MemoriesOk s →
        (f.tgt = 0 → (s.extent? (extentOf f.addr)).isSome = true → s.monitors = [] → ∃ t, exec (.signal n) s = .next t ∧ Done s t q x 0 ∧
          t.image.nat f.addr 8 = b ∧ t.marks = s.marks ∧ t.pending = s.pending ∧
          ∀ c, (c < f.addr ∨ f.addr + 8 ≤ c) → t.image.get c = s.image.get c) ∧
        (f.tgt = 1 → (f.addr + 8 ≤ q.slotAddr q.head + 56 ∨ q.slotAddr q.head + 64 ≤ f.addr) → ∃ t, exec (.signal n) s = .next t ∧ Done s t q x 0 ∧
          t.image = s.image ∧ t.hostMem.nat f.addr 8 = b) ∧
        (2 ≤ f.tgt → ∃ t, exec (.signal n) s = .next t ∧ OnlyDone s t q x 0x86)) ∧
      (a % 8 = 0 → (∀ f, s'.translateFront q.ctx a { w := true } ≠ .ok f) → ∃ t, exec (.signal n) s = .next t ∧ OnlyDone s t q x 0x86)) ∧
    (Starts s n q x (0x04, 0) [(64, 64), (128, 64), (192, 3)] → s.frontLine n (0x04, 0) [(64, 64), (128, 64), (192, 3)] 8 = none →
      (a % 8 ≠ 0 ∨ (∀ f, s'.translateFront q.ctx a { rd := true } ≠ .ok f) → ∃ t, exec (.wait n) s = .next t ∧ OnlyDone s t q x 0x86) ∧
      (∀ f, a % 8 = 0 → s'.translateFront q.ctx a { rd := true } = .ok f →
        (f.tgt ≠ 0 → ∃ t, exec (.wait n) s = .next t ∧ OnlyDone s t q x 0x86) ∧
        (f.tgt = 0 → lineOf f.addr ∉ s.lost → monitorCond (field x 192 3) 8 (s.image.nat f.addr 8) b = true →
          ∃ t, exec (.wait n) s = .next t ∧ OnlyDone s t q x 0) ∧
        (f.tgt = 0 → lineOf f.addr ∉ s.lost → monitorCond (field x 192 3) 8 (s.image.nat f.addr 8) b = false →
          ∃ t m, exec (.wait n) s = .next t ∧ Started s t q x ∧ t.monitors = s.monitors ++ [m] ∧ m.gid = none ∧ m.queue = n ∧ m.slot = q.head ∧
            m.addr = f.addr ∧ m.size = 8 ∧ m.op = field x 192 3 ∧ m.value = BitVec.ofNat 64 b)))

/-- R174, R175, R222, R276, R277, R279, R286, R291: SAVE, RESUME, REPLAY, CANCELW and SHOOT, once they start. RESUME spills first what stands in its way
(R274). Choices of the model: a REPLAY answers every held access of the group, and a number that names none gives status 0 (log entry 37), and a fatal answer to
a saved group marks it (log entry 63). -/
def Obligations.ContextCommands : Prop :=
  ∀ (s : State) (n : Nat) (q : Queue) (x : Nat) (c : Context), s.ctx? q.ctx = some c →
    let s' := s.takeCommand q x
    (∀ i drain form, (i, drain, form) ∈ [(Instr.saveDrain n, true, (0x06, 0)), (.saveForce n, false, (0x06, 1))] → Starts s n q x form [(64, 1)] →
      c.saving = [] →
      ((∃ tm ∈ s.teams, tm.state = .resident ∧ s.ctxOfTeam tm = q.ctx) → ∃ t, exec i s = .next t ∧ Started s t q x ∧
        t.ctx? q.ctx = some { c with
          saving := [(n, q.head)]
          drainSince := if drain then some s.tick else c.drainSince } ∧
        (drain = true → t.teams = s.teams) ∧
        (drain = false → ∀ tm ∈ t.teams, tm.state = .resident → s.ctxOfTeam tm = q.ctx → tm.leaving = true)) ∧
      ((∀ tm ∈ s.teams, tm.state = .resident → s.ctxOfTeam tm ≠ q.ctx) → ∃ t, exec i s = .next t ∧ Done s t q x 0 ∧ t.image = s.image ∧
        t.ctx? q.ctx = some { c with
          saved := true
          saving := []
          drainSince := none
          inArea := false })) ∧
    (Starts s n q x (0x07, 0) [(64, 1)] →
      (c.saved = false → ∃ t, exec (.resume n) s = .next t ∧ OnlyDone s t q x 0) ∧
      let room := (s'.opportunity q.ctx).spillForResume q.ctx
      (c.saved = true → room.resumeAll q.ctx = none → x.testBit 64 = false → ∃ t, exec (.resume n) s = .next t ∧ Done s t q x 0x85 ∧
        t.image = room.image ∧ (∀ d, t.ctx? q.ctx = some d → d.saved = true) ∧
        ∀ tm ∈ t.teams, tm.state = .resident → ∃ v ∈ s.teams, v.tid = tm.tid ∧ v.state = .resident) ∧
      (c.saved = true → room.resumeAll q.ctx = none → x.testBit 64 = true → ∃ t d, exec (.resume n) s = .next t ∧ t.image = room.image ∧
        t.ctx? q.ctx = some d ∧ d.saved = true ∧ d.resuming = c.resuming ++ [(n, q.head)] ∧ d.seq = (c.seq + 1) % 2 ^ 32) ∧
      (∀ u, c.saved = true → room.resumeAll q.ctx = some u → ∃ t, exec (.resume n) s = .next t ∧ t.groups = u.groups ∧ t.teams = u.teams ∧
        t.image = u.image ∧ ∀ d, u.ctx? q.ctx = some d → t.ctx? q.ctx = some { d with
          saved := false
          inArea := false })) ∧
    (Starts s n q x (0x08, 0) [(64, 32), (96, 1)] →
      ((∀ g ∈ s.groups, ∀ h ∈ g.holds, h.seq ≠ field x 64 32) → ∃ t, exec (.replay n) s = .next t ∧ OnlyDone s t q x 0) ∧
      (∀ g, s.groups = [g] → s.ctxOfGroup g = q.ctx → g.doomed = false → g.ended = false → (∃ h ∈ g.holds, h.seq = field x 64 32) →
        (x.testBit 96 = true → g.place ≠ .saved → ∃ t h, exec (.replay n) s = .next t ∧ t.image = s.image ∧ t.group? g.gid = some h ∧ h.alive = [] ∧
          h.holds = [] ∧ ∀ o ∈ t.ops, o.gid = g.gid → o.begun) ∧
        (x.testBit 96 = true → g.place = .saved → ∃ t, exec (.replay n) s = .next t ∧ Done s t q x 0 ∧
          t.group? g.gid = some { g with doomed := true }) ∧
        (x.testBit 96 = false → s.handlerOf g = 0 → g.report = none → (∀ r ∈ g.runs, r.wait ≠ .join ∧ r.isOver = false ∧ r.lanes ≠ 0 ∧ ∀ a v m, r.wait ≠ .held a v m) → ∃ t, exec (.replay n) s = .next t ∧ Done s t q x 0 ∧
          t.group? g.gid = some { g with holds := [] } ∧ ∀ o ∈ t.ops, o.gid = g.gid → ∀ p ∈ o.parts, p.isHeld = false))) ∧
    (Starts s n q x (0x09, 0) [] → (∀ m ∈ s.monitors, m.ctx = q.ctx → m.gid.isSome = true) →
      ∃ t, exec (.cancelw n) s = .next t ∧ Done s t q x 0 ∧ t.image = s.image ∧ ∀ m, m ∈ t.monitors → m ∈ s.monitors ∧ m.ctx ≠ q.ctx) ∧
    (Starts s n q x (0x0A, 0) [(64, 64), (128, 64)] →
      ∃ t, exec (.shoot n) s = .next t ∧ Started s t q x ∧ t.shoots = s.shoots ++ [⟨s.fresh, n, q.head, q.ctx, field x 64 64, field x 128 64, [], []⟩])

/-- R295 to R298, R312, R313, R320, R321: the operations of EXTENT, once they start, on a work queue whose context owns the extent. Choices of the model: a
misaligned buffer gives 0x86 (log entry 46), reserved bits of DESC, PROMOTE of an extent that is no replica and SETREPL of one that is not logged give 0x80
(log entry 49), and the row at which CREATE places the extent is free (log entry 50). -/
def Obligations.ExtentCommands : Prop :=
  ∀ (s : State) (n : Nat) (q : Queue) (x : Nat), n ≠ 0 → field x 68 12 = 0 → Memory.wf s.hostMem = true →
    let ext := cmdExt x
    let apart : Nat → Prop := fun len => cmdBuf x + len ≤ q.slotAddr q.head + 56 ∨ q.slotAddr q.head + 64 ≤ cmdBuf x
    (∀ i op, (i, op) ∈ [(Instr.extentCreate n, 0), (.extentDestroy n, 1), (.extentSetrepl n, 2), (.extentQuery n, 3), (.extentSnap n, 4),
        (.extentRevert n, 5), (.extentSndrop n, 6), (.extentPromote n, 7), (.extentLoad n, 8)] → Starts s n q x (0x05, op) extentFields →
      (∀ e, s.extent? ext = some e → e.ctx ≠ q.ctx → ∃ t, exec i s = .next t ∧ OnlyDone s t q x 0x83) ∧
      (s.extent? ext = none → op ≠ 0 → op ≠ 3 → ∃ t, exec i s = .next t ∧ OnlyDone s t q x 0x80)) ∧
    (Starts s n q x (0x05, 0) extentFields → (∃ e, s.extent? ext = some e ∧ e.ctx = q.ctx) →
      ∃ t, exec (.extentCreate n) s = .next t ∧ OnlyDone s t q x 0x80) ∧
    (Starts s n q x (0x05, 0) extentFields → (s.extent? ext = none) →
      (∀ row0, (field (cmdDesc x) 1 30 ≠ 0 ∨ s.createOk (extentFrom ext q.ctx (cmdDesc x) row0) = false) →
        ∃ t, exec (.extentCreate n) s = .next t ∧ OnlyDone s t q x 0x80) ∧
      (∀ row0, field (cmdDesc x) 1 30 = 0 → s.createOk (extentFrom ext q.ctx (cmdDesc x) row0) = true →
        ∃ t r, exec (.extentCreate n) s = .next t ∧ Done s t q x 0 ∧ t.image = s.image ∧
          t.extents = s.extents ++ [extentFrom ext q.ctx (cmdDesc x) (512 * r)] ∧ ∀ y ∈ t.texts, extentOf y.addr ≠ ext)) ∧
    (Starts s n q x (0x05, 3) extentFields → (s.extent? ext = none ∨ ∃ e, s.extent? ext = some e ∧ e.ctx = q.ctx) →
      (cmdBuf x % 64 ≠ 0 → ∃ t, exec (.extentQuery n) s = .next t ∧ OnlyDone s t q x 0x86) ∧
      (cmdBuf x % 64 = 0 → apart 37 → ∃ t, exec (.extentQuery n) s = .next t ∧ Done s t q x 0 ∧ t.image = s.image ∧
        (s.extent? ext = none → t.hostMem.nat (cmdBuf x) 37 = 0) ∧
        ∀ e, s.extent? ext = some e → e.descriptor < 2 ^ 256 → t.hostMem.nat (cmdBuf x) 32 = e.descriptor ∧
          ∃ slack low, t.hostMem.nat (cmdBuf x + 32) 5 = slack + low * 2 ^ 32 ∧ slack < 2 ^ 32 ∧ low ≤ 1)) ∧
    (∀ e, s.extent? ext = some e → e.ctx = q.ctx →
      (Starts s n q x (0x05, 1) extentFields → (∀ o ∈ s.ops, o.call? = none ∨ o.aux ≠ e.num) → ∃ t, exec (.extentDestroy n) s = .next t ∧ Done s t q x 0 ∧
        t.extent? ext = none ∧ (∀ a, t.image.get a = if extentOf a = ext then 0 else s.image.get a) ∧ t.marks = s.marks ∧
        ∀ r ∈ t.recvq, rqExt r.reg = ext → r.reg.getLsbD 0 = false) ∧
      (Starts s n q x (0x05, 2) extentFields →
        let d := extentFrom ext q.ctx (cmdDesc x) 0
        let new : Extent := { e with nrep := d.nrep, pdev0 := d.pdev0, pext0 := d.pext0, pdev1 := d.pdev1, pext1 := d.pext1 }
        ((e.kind ≠ 0 ∨ 2 < d.nrep ∨ s.replicaRule new = false) → ∃ t, exec (.extentSetrepl n) s = .next t ∧ OnlyDone s t q x 0x80) ∧
        (e.kind = 0 → d.nrep ≤ 2 → s.replicaRule new = true → ∃ t, exec (.extentSetrepl n) s = .next t ∧ Done s t q x 0 ∧ t.image = s.image ∧
          t.extent? ext = some new)) ∧
      (Starts s n q x (0x05, 4) extentFields →
        (cmdBuf x % 64 ≠ 0 → ∃ t, exec (.extentSnap n) s = .next t ∧ OnlyDone s t q x 0x86) ∧
        (cmdBuf x % 64 = 0 → apart 5 → ∃ t, exec (.extentSnap n) s = .next t ∧ Done s t q x 0 ∧ t.image = s.image ∧
          (e.kind ≠ 0 → t.hostMem.nat (cmdBuf x) 5 = 2 ^ 32) ∧
          (e.kind = 0 → 64 ≤ e.casts.length → t.hostMem.nat (cmdBuf x) 5 = 2 * 2 ^ 32) ∧
          (e.kind = 0 → e.casts.length < 64 → e.num < 8192 → if s.isLow e.home = true then t.hostMem.nat (cmdBuf x) 5 = 3 * 2 ^ 32 else
            ∃ c d, t.validCast e.ctx (t.hostMem.nat (cmdBuf x) 5) = some (d, c) ∧ d.num = e.num ∧ c.image = s.extentImage ext))) ∧
      (∀ i op, (i, op) ∈ [(Instr.extentRevert n, 5), (.extentSndrop n, 6)] → Starts s n q x (0x05, op) extentFields →
        (field (cmdHandle x) 19 13 ≠ ext → ∃ t, exec i s = .next t ∧ OnlyDone s t q x 0x80) ∧
        (field (cmdHandle x) 19 13 = ext → cmdBuf x % 64 ≠ 0 → ∃ t, exec i s = .next t ∧ OnlyDone s t q x 0x86) ∧
        (field (cmdHandle x) 19 13 = ext → cmdBuf x % 64 = 0 → apart 1 → s.validCast q.ctx (cmdHandle x) = none →
          ∃ t, exec i s = .next t ∧ Done s t q x 0 ∧ t.image = s.image ∧ t.hostMem.get (cmdBuf x) = 1) ∧
        (∀ d c, field (cmdHandle x) 19 13 = ext → cmdBuf x % 64 = 0 → apart 1 → s.validCast q.ctx (cmdHandle x) = some (d, c) →
          Memory.wf s.image = true → Memory.wf c.image = true → (∀ y ∈ c.image, extentOf y.1 = ext) → s.monitors = [] →
          ∃ t, exec i s = .next t ∧ Done s t q x 0 ∧ t.hostMem.get (cmdBuf x) = 0 ∧
            (op = 5 → ∀ a, t.image.get a = if extentOf a = ext then c.image.get a else s.image.get a) ∧
            (op = 6 → t.image = s.image ∧ t.validCast q.ctx (cmdHandle x) = none))) ∧
      (Starts s n q x (0x05, 7) extentFields →
        (e.kind ≠ 3 → ∃ t, exec (.extentPromote n) s = .next t ∧ OnlyDone s t q x 0x80) ∧
        (e.kind = 3 → ∃ t, exec (.extentPromote n) s = .next t ∧ Done s t q x 0 ∧ t.image = s.image ∧ t.extent? ext = some { e with
          kind := 0
          nrep := 0 })) ∧
      (Starts s n q x (0x05, 8) extentFields →
        let len := field (cmdDesc x) 0 32
        let off := cmdHandle x
        (e.kind = 0 ∨ 3 ≤ e.kind ∨ len % 8 ≠ 0 ∨ off % 8 ≠ 0 ∨ 2 ^ 26 < off + len → ∃ t, exec (.extentLoad n) s = .next t ∧ OnlyDone s t q x 0x80) ∧
        ((e.kind = 1 ∨ e.kind = 2) → len % 8 = 0 → off % 8 = 0 → off + len ≤ 2 ^ 26 → cmdBuf x % 8 ≠ 0 →
          ∃ t, exec (.extentLoad n) s = .next t ∧ OnlyDone s t q x 0x86) ∧
        ((e.kind = 1 ∨ e.kind = 2) → len % 8 = 0 → off % 8 = 0 → off + len ≤ 2 ^ 26 → cmdBuf x % 8 = 0 → s.monitors = [] → Memory.wf s.image = true →
          ∃ t, exec (.extentLoad n) s = .next t ∧ Done s t q x 0 ∧
            (∀ k < len, t.image.get (ext * 2 ^ 26 + off + k) = s.hostMem.get (cmdBuf x + k)) ∧
            ∀ a, (a < ext * 2 ^ 26 + off ∨ ext * 2 ^ 26 + off + len ≤ a) → t.image.get a = s.image.get a)))

/-- R280, R289, R290: the operations of DEBUG, once they start.
Then: R256, R259, R261 to R263: PART, CTX, QUEUE and CTXEND, once they start on queue 0. Choices of the model: an object above 5 gives 0x80 (log entry 52),
when a partition is busy for PART (log entry 43), that CTXEND keeps the extents of the context (log entry 53), that CTX does not check the alignment of
PTROOT (log entry 54), and that PART and QUEUE give 0x80 before 0x83 (log entry 85). -/
def Obligations.DebugAndPrivilegedCommands : Prop :=
  (∀ (s : State) (n : Nat) (q : Queue) (x : Nat) (c : Context), s.ctx? q.ctx = some c → x.testBit 96 = false → field x 192 16 = 0 → field x 224 32 = 0 →
    let named := s.haltedGroup q.ctx x
    let starts : Nat → Prop := fun op => Starts s n q x (0x0B, op) (debugFields op)
    (starts 0 → ∃ t, exec (.debugArm n) s = .next t ∧ Done s t q x 0 ∧ t.groups = s.groups ∧ t.image = s.image ∧ t.ctx? q.ctx = some { c with
      armed := true
      allstop := x.testBit 68 }) ∧
    (starts 1 → ∃ t, exec (.debugDisarm n) s = .next t ∧ Done s t q x 0 ∧ t.groups = s.groups ∧ t.image = s.image ∧ t.ctx? q.ctx = some { c with
      armed := false
      allstop := false }) ∧
    (starts 2 → ∃ t, exec (.debugHaltCmd n) s = .next t ∧ Done s t q x 0 ∧ t.image = s.image ∧ ∀ (k : Nat) (g : Group), s.groups[k]? = some g →
      t.groups[k]? = some { g with halted := g.halted || (s.ctxOfGroup g == q.ctx && !g.ended) }) ∧
    (starts 5 → ∃ t, exec (.debugCont n) s = .next t ∧ Done s t q x 0 ∧ t.image = s.image ∧ ∀ (k : Nat) (g : Group), s.groups[k]? = some g →
      ∃ h, t.groups[k]? = some h ∧ h.lanes.length = g.lanes.length ∧ h.s = g.s ∧
        (∀ l < g.lanes.length, h.lane l = { g.lane l with fresh := (h.lane l).fresh }) ∧
        (s.ctxOfGroup g = q.ctx → h.halted = false) ∧ (s.ctxOfGroup g ≠ q.ctx → h = g)) ∧
    (starts 6 → ∃ t, exec (.debugClrerr n) s = .next t ∧ Done s t q x 0 ∧ t.groups = s.groups ∧ t.image = s.image ∧
      t.ctx? q.ctx = some { c with errst := 0 }) ∧
    (starts 3 → let buf := field x 128 64
      (5 < field x 88 8 → ∃ t, exec (.debugRead n) s = .next t ∧ OnlyDone s t q x 0x80) ∧
      (field x 88 8 = 0 → named = none → ∃ t, exec (.debugRead n) s = .next t ∧ OnlyDone s t q x 0x83) ∧
      (∀ g, field x 88 8 = 0 → named = some g → ∃ t, exec (.debugRead n) s = .next t ∧ Done s t q x 0 ∧ t.groups = s.groups ∧ t.image = s.image) ∧
      (field x 88 8 = 5 → (buf + 8 ≤ q.slotAddr q.head + 56 ∨ q.slotAddr q.head + 64 ≤ buf) → Memory.wf s.hostMem = true →
        ∃ t, exec (.debugRead n) s = .next t ∧ Done s t q x 0 ∧ t.image = s.image ∧ t.hostMem.nat buf 8 = c.errst.toNat)) ∧
    (starts 4 →
      (named = none → ∃ t, exec (.debugWrite n) s = .next t ∧ OnlyDone s t q x 0x83) ∧
      (∀ g, named = some g → ∃ t h, exec (.debugWrite n) s = .next t ∧ Done s t q x 0 ∧ t.image = s.image ∧ t.group? g.gid = some h ∧
        h.lanes.length = g.lanes.length ∧ h.alloc = g.alloc ∧ h.place = g.place ∧ h.runs = g.runs ∧
        ∀ l < g.lanes.length, (h.lane l).stack = (g.lane l).stack ∧ (h.lane l).exited = (g.lane l).exited ∧ (h.lane l).team = (g.lane l).team ∧
          (h.lane l).sb = (g.lane l).sb))) ∧
  (∀ (s : State) (q : Queue) (x : Nat),
    (Starts s 0 q x (0x10, 0) [(64, 5), (96, 64), (160, 22)] →
      let p := partitionOf x
      (p.rangesOk = false → ∃ t, exec (.part 0) s = .next t ∧ OnlyDone s t q x 0x80) ∧
      (∀ r ∈ s.parts, p.rangesOk = true → r.loses p = true → s.partBusy r.num = true → ∃ t, exec (.part 0) s = .next t ∧ OnlyDone s t q x 0x83) ∧
      (p.rangesOk = true → (∀ r ∈ s.parts, r.loses p = true → s.partBusy r.num = false) →
        ∃ t, exec (.part 0) s = .next t ∧ Done s t q x 0 ∧ t.image = s.image ∧ t.part? p.num = some p ∧
          ∀ m r, m ≠ p.num → s.part? m = some r → t.part? m = some { r with
            clmask := r.clmask &&& ~~~p.clmask
            rsvmask := r.rsvmask &&& ~~~p.clmask })) ∧
    (Starts s 0 q x (0x11, 0) [(64, 17), (128, 136), (272, 21)] →
      let c := contextOf x
      (s.contextOk c = false → ∃ t, exec (.ctx 0) s = .next t ∧ OnlyDone s t q x 0x80) ∧
      (s.contextOk c = true → ∃ t, exec (.ctx 0) s = .next t ∧ Done s t q x 0 ∧ t.image = s.image ∧ t.ctx? c.num = some c ∧
        c.evhead = 0 ∧ c.evtail = 0 ∧ c.errst = 0 ∧ c.saved = false ∧ c.num = field x 64 12)) ∧
    (let num := field x 64 10
     let ctx := field x 76 12
     let k := field x 96 5
     let ring := field x 192 64
     (Starts s 0 q x (0x12, 0) queueFields →
       (num = 0 ∨ k < 4 ∨ 16 < k ∨ ring % (64 * 2 ^ k) ≠ 0 ∨ s.ctx? ctx = none → ∃ t, exec (.queueBind 0) s = .next t ∧ OnlyDone s t q x 0x80) ∧
       (∀ c, num ≠ 0 → 4 ≤ k → k ≤ 16 → ring % (64 * 2 ^ k) = 0 → s.ctx? ctx = some c →
         (∀ r, s.queue? num = some r → r.busy = true → ∃ t, exec (.queueBind 0) s = .next t ∧ OnlyDone s t q x 0x83) ∧
         ((∀ r, s.queue? num = some r → r.busy = false) → ∃ t, exec (.queueBind 0) s = .next t ∧ Done s t q x 0 ∧ t.image = s.image ∧
           t.queue? num = some { num := num, ctx := ctx, latency := x.testBit 88, ring := ring, n := k, head := 0, tail := 0, running := [] }))) ∧
     (Starts s 0 q x (0x12, 1) queueFields →
       (num = 0 → ∃ t, exec (.queueUnbind 0) s = .next t ∧ OnlyDone s t q x 0x80) ∧
       (∀ r, num ≠ 0 → s.queue? num = some r → r.busy = true → ∃ t, exec (.queueUnbind 0) s = .next t ∧ OnlyDone s t q x 0x83) ∧
       (num ≠ 0 → (∀ r, s.queue? num = some r → r.busy = false) → ∃ t, exec (.queueUnbind 0) s = .next t ∧ Done s t q x 0 ∧ t.image = s.image ∧
         t.queue? num = none))) ∧
    (Starts s 0 q x (0x13, 0) [(64, 12)] →
      let n := field x 64 12
      (s.ctx? n = none → ∃ t, exec (.ctxend 0) s = .next t ∧ OnlyDone s t q x 0x80) ∧
      (∀ c, s.ctx? n = some c → ∃ t, exec (.ctxend 0) s = .next t ∧ t.image = s.image ∧ t.ctx? n = none ∧ (∀ l ∈ t.launches, l.ctx ≠ n) ∧
        (∀ o ∈ t.ops, o.ctx ≠ n) ∧ (∀ m ∈ t.monitors, m.ctx ≠ n) ∧ (∀ r ∈ t.queues, r.num ≠ 0 → r.ctx ≠ n) ∧ t.extents = s.extents ∧
        ((∀ l ∈ s.launches, l.queue ≠ 0) → Done s t q x 0))))
/-! ## Words, steps and the whole machine -/

/-- The words that the manual writes out read as the instructions that it says: one or more of every family of the opcode map (05, 09, 11, 13, 14,
17 to 21), and the word of R64 with a minor that the map lists as a dash reads as nothing. -/
def Obligations.DecodedWords : Prop :=
  (let reads : Word → Instr → Prop := fun w i => decode [w] = .ok (i, [])
   reads 0x641020A1#32 (.fmul { g := 0, d := 8, a := 4, b := 5, rm := 0, s := false, stall := 1 }) ∧
   reads 0x05145865#32 (.iadd { g := 2, d := 10, a := 11, b := 3, s := true, stall := 1 }) ∧
   reads 0x601240C3#32 (.fadd { g := 0, d := 9, a := 8, b := 6, rm := 0, stall := 3 }) ∧
   reads 0xAC1820C9#32 (.ldW { g := 0, t := 12, base := 4, idx := 6, ctr := 1 }) ∧
   reads 0xB006A889#32 (.stW { g := 0, t := 3, base := 21, idx := 4, ctr := 1 }) ∧
   reads 0xBC98012E#32 (.ldfD { g := 1, t := 12, base := 0, idx := 9, clr := true, ctr := 2 }) ∧
   reads 0xC410A121#32 (.atomAdd { g := 0, t := 8, base := 20, idx := 9, ctr := 1 }) ∧
   reads 0x74288243#32 (.dadd { g := 0, d := 20, a := 16, b := 18, stall := 3 }) ∧
   reads 0x380A20C0#32 (.mix { g := 0, d := 5, a := 4, b := 6, w := 0, stall := 0 }) ∧
   reads 0xE810000C#32 (.bars { g := 0, t := 8, base := 0 }) ∧
   reads 0xE8060074#32 (.regrpTeam { g := 0, p := 3, v := 3 }) ∧
   reads 0xE821E01C#32 (.rclaim { g := 0, n4 := 16, base := 60 }) ∧
   reads 0xE4000180#32 (.rel { g := 0, scope := 1, sealed := true }) ∧
   reads 0xE400070C#32 (.fence { g := 0, scope := 7 }) ∧
   reads 0xE4000070#32 (.fencex { g := 0, pa := 0, pb := 3 }) ∧
   reads 0xE4126008#32 (.acqr { g := 0, t := 9, base := 12 }) ∧
   reads 0xE418301C#32 (.revert { g := 0, t := 12, base := 6 }) ∧
   reads 0xE0000012#32 (.rfence { g := 0, ctr := 2 }) ∧
   reads 0xD8863936#32 (.biadd { g := 1, t := 3, base := 7, idx := 9, ctr := 2 }) ∧
   reads 0xED800000#32 (.bra { g := 3, disp := 0 }) ∧
   reads 0xF000001D#32 (.nop { g := 0, stall := 1 })) ∧
  decode [0x040828D8#32] = .error .reservedMinor

/-- R63 to R75, R83, R84: the words that `encode` gives a well-formed word with an encoding, whatever follows them, are read as that word, with every
operand at every value; nothing after them is read. An event has no words. -/
def Obligations.DecodeEncode : Prop :=
  ∀ (i : Instr) (rest : List Word), i.wf = true → encode i ≠ [] → decode (encode i ++ rest) = .ok (i, rest)

/-- The converse: what is read from words is well formed, and its words are the ones that it was read from, so that one word never means two
instructions nor two words one, and a bit that no instruction uses is refused (R64). -/
def Obligations.EncodeDecode : Prop :=
  ∀ (ws rest : List Word) (i : Instr), decode ws = .ok (i, rest) → i.wf = true ∧ encode i ++ rest = ws

/-- A step runs the instruction that is read from the words of the clause at the place where the group stands: exec of it, with that group as the
one that it acts on, and then a cycle (`advance`). Which group comes next is the model's agenda, and with an empty agenda the group whose turn it is
(log entries 1, 2 and 5); a group that may not start a word in this cycle (R271) starts none. An event on the agenda is run by exec too. Words that cannot be read end the group with 0x01. -/
def Obligations.StepRunsDecoded : Prop :=
  ∀ s : State,
    (∀ (gid : Nat) (rest : List Move) (g : Group) (r : Run), s.agenda = .run gid :: rest →
      let now : State := { s with agenda := rest }
      let before : State := { now with focus := gid }
      now.group? gid = some g → before.current? g = some r →
      (now.mayStart g = false → now.mayGo g = false → step s = .next now.advance) ∧
      (now.mayStart g = false → now.mayGo g = true → ∀ t, exec (.clauseIssue gid) before = .next t → step s = .next t.advance) ∧
      (now.mayStart g = true → (∀ i after t, decode (r.words.drop r.pos) = .ok (i, after) → exec i before = .next t → step s = .next t.advance) ∧
        (∀ why, decode (r.words.drop r.pos) = .error why → step s = .next (before.killGroup gid 0x01).advance))) ∧
    (∀ (h g : Group) (r : Run), s.agenda = [] → s.nextToRun = some h → s.group? h.gid = some g →
      let before : State := { s with focus := h.gid }
      before.current? g = some r →
      ∀ i after t, decode (r.words.drop r.pos) = .ok (i, after) → exec i before = .next t → step s = .next t.advance) ∧
    (∀ (i : Instr) (rest : List Move) (t : State), s.agenda = .event i :: rest → encode i = [] → exec i { s with agenda := rest } = .next t →
      step s = .next t.advance)

/-- Every step keeps the published image and host memory in canonical form: addresses rising, no zero byte listed, so that equal memories are
equal data. -/
def Obligations.StepKeepsMemories : Prop :=
  ∀ s t : State, MemoriesOk s → step s = .next t → MemoriesOk t

/-- What reset leaves before the start: the memories are in canonical form and every byte of them reads zero (log entries 3 and 4 for the bytes); BOOTST
and Q0RING read 0 (R403, R396), the publication mark of every writer slot is 0 (R236), no context has an extent, no queue is bound, no group stands
anywhere and no command runs. -/
def Obligations.ResetMachine : Prop :=
  let s := State.reset
  MemoriesOk s ∧ (∀ a, s.image.get a = 0 ∧ s.hostMem.get a = 0) ∧ s.windowRead 0x0A000 = 0 ∧ s.windowRead 0x0A600 = 0 ∧
  (∀ n, s.mark n = 0 ∧ s.holder? n = none ∧ s.queue? n = none ∧ s.ctx? n = none ∧ s.extent? n = none ∧ s.group? n = none ∧ s.team? n = none) ∧
  s.ops = [] ∧ s.monitors = [] ∧ s.sent = [] ∧ s.pending = [] ∧ s.cores = []
end

