-- ==== Sys2Proof/Laws/Armature.lean ====
section
/-!
SUPPORT. What the operations on armatures can do: they change roots, leaves and predecessors, and nothing else.
-/
namespace Sys2Proof.Machine

/-- Only roots, leaves and predecessors differ. -/
structure ArmatureOnly (s t : State) : Prop where
  rest : t = { s with
    roots := t.roots
    leaves := t.leaves
    preds := t.preds }

namespace ArmatureOnly

theorem refl (s : State) : ArmatureOnly s s := ⟨rfl⟩

theorem trans {s t u : State} (a : ArmatureOnly s t) (b : ArmatureOnly t u) : ArmatureOnly s u := ⟨by rw [b.rest, a.rest]⟩

/-- A fold does what every step of it does. -/
theorem foldl {α : Type} {f : State → α → State} (h : ∀ s x, ArmatureOnly s (f s x)) (l : List α) (s : State) : ArmatureOnly s (l.foldl f s) := by
  induction l generalizing s with
  | nil => exact refl s
  | cons x xs ih => exact (h s x).trans (ih _)

theorem image {s t : State} (a : ArmatureOnly s t) : t.image = s.image := by rw [a.rest]
theorem hostMem {s t : State} (a : ArmatureOnly s t) : t.hostMem = s.hostMem := by rw [a.rest]
theorem groups {s t : State} (a : ArmatureOnly s t) : t.groups = s.groups := by rw [a.rest]
theorem segments {s t : State} (a : ArmatureOnly s t) : t.segments = s.segments := by rw [a.rest]

end ArmatureOnly

theorem State.preds_only (s : State) (l : List Predecessor) : ArmatureOnly s { s with preds := l } := ⟨rfl⟩
theorem State.putRoot_only (s : State) (r : Root) : ArmatureOnly s (s.putRoot r) := ⟨rfl⟩
theorem State.newLeaf_only (s : State) (r : Root) (stack place : Nat) (l : List LeafEntry) : ArmatureOnly s (s.newLeaf r stack place l) := ⟨rfl⟩
theorem State.pruneLeaves_only (s : State) : ArmatureOnly s s.pruneLeaves := ⟨rfl⟩
theorem State.rewriteMarks_only (s : State) (slot : Nat) : ArmatureOnly s (s.rewriteMarks slot) := ⟨rfl⟩
theorem State.mapCopy_only (s : State) (stack sector : Nat) (f : LeafEntry → LeafEntry) : ArmatureOnly s (s.mapCopy stack sector f) := ⟨rfl⟩
theorem State.dropArmature_only (s : State) (ext : Nat) : ArmatureOnly s (s.dropArmature ext) := ⟨rfl⟩
theorem State.dropRoot_only (s : State) (ext idx : Nat) : ArmatureOnly s (s.dropRoot ext idx) := ⟨rfl⟩

theorem State.putEntry_only (s : State) (ext stack : Nat) (x : LeafEntry) : ArmatureOnly s (s.putEntry ext stack x) := by
  unfold State.putEntry
  simp only
  split
  · exact .refl s
  · split
    · exact s.newLeaf_only _ _ _ _
    · split
      · exact s.newLeaf_only _ _ _ _
      · exact ⟨rfl⟩

theorem State.putChain_only (s : State) (ext stack idx : Nat) (l : List LeafEntry) : ArmatureOnly s (s.putChain ext stack idx l) :=
  (s.preds_only _).trans (State.putEntry_only _ _ _ _)

theorem State.appendEntry_only (s : State) (ext stack : Nat) (pending : Bool) (x : LeafEntry) :
    ArmatureOnly s (s.appendEntry ext stack pending x) := by
  unfold State.appendEntry
  simp only
  split
  · exact s.putChain_only _ _ _ _
  · split
    · exact .refl s
    · exact s.putChain_only _ _ _ _

theorem State.settleEntry_only (s : State) (line : Nat) : ArmatureOnly s (s.settleEntry line) := by
  unfold State.settleEntry
  simp only
  split
  · exact .refl s
  · repeat' split
    all_goals first | exact .refl s | exact s.putChain_only _ _ _ _

theorem State.castRoot_only (s : State) (ext idx : Nat) : ArmatureOnly s (s.castRoot ext idx) := by
  unfold State.castRoot
  simp only
  refine (s.putRoot_only _).trans (ArmatureOnly.foldl (fun s x => ?_) _ _)
  split
  · exact s.newLeaf_only _ _ _ _
  · exact s.putRoot_only _

theorem State.revertRoot_only (s : State) (ext stack idx : Nat) : ArmatureOnly s (s.revertRoot ext stack idx) := by
  unfold State.revertRoot
  simp only
  refine ArmatureOnly.trans ?_ (State.pruneLeaves_only _)
  refine ArmatureOnly.trans ?_ (ArmatureOnly.foldl (fun s x => s.putChain_only _ _ _ _) _ _)
  exact (s.preds_only _).trans (State.putRoot_only _ _)

end Sys2Proof.Machine
end

