-- ==== Sys2Proof/Laws/Encoding.lean ====
section
/-!
SUPPORT. The fields of a word and the word of fields (R63).
-/
namespace Sys2Proof

/-- The fields of a word are in range. -/
theorem Fields.ofWord_inRange (w : Word) : (Fields.ofWord w).inRange = true := by
  have h := w.isLt
  have e : Fields.ofWord w = ⟨w.toNat / 67108864, w.toNat / 8388608 % 8, w.toNat / 131072 % 64, w.toNat / 2048 % 64, w.toNat / 32 % 64,
    w.toNat / 4 % 8, w.toNat % 4⟩ := rfl
  rw [e]
  simp only [Fields.inRange, Bool.and_eq_true, decide_eq_true_eq]
  omega

/-- The word of the fields of a word is that word. -/
theorem Fields.toWord_ofWord (w : Word) : (Fields.ofWord w).toWord = w := by
  have h := w.isLt
  apply BitVec.eq_of_toNat_eq
  simp only [Fields.ofWord, Fields.toWord, BitVec.toNat_ofNat]
  omega

/-- The fields of the word of fields in range are those fields. -/
theorem Fields.ofWord_toWord {f : Fields} (h : f.inRange = true) : Fields.ofWord f.toWord = f := by
  obtain ⟨maj, g, d, a, b, m, s⟩ := f
  simp only [Fields.inRange, Bool.and_eq_true, decide_eq_true_eq] at h
  have e : maj * 67108864 + g * 8388608 + d * 131072 + a * 2048 + b * 32 + m * 4 + s < 2 ^ 32 := by omega
  simp only [Fields.ofWord, Fields.toWord, BitVec.toNat_ofNat, Nat.mod_eq_of_lt e, Fields.mk.injEq]
  omega

end Sys2Proof
end

