-- ==== Sys2Proof/Laws/Homes.lean ====
section
/-!
SUPPORT. Homes of lines (01_organisation R20): lines are mapped onto every L2 slice in service.
-/
namespace Sys2Proof.Machine

/-- Within each run of n indices, every one of n places falls to an index. -/
theorem homePlace_onto (what n run k : Nat) (h : k < n) : ∃ i, i / n = run ∧ homePlace what n i = k := by
  generalize e : Config.homeHash what run % n = b
  have hb : b < n := e ▸ Nat.mod_lt _ (by omega)
  refine ⟨(k + (n - b)) % n + n * run, ?_, ?_⟩
  · rw [Nat.add_mul_div_left _ _ (by omega), Nat.div_eq_of_lt (Nat.mod_lt _ (by omega)), Nat.zero_add]
  · have hd : ((k + (n - b)) % n + n * run) / n = run := by
      rw [Nat.add_mul_div_left _ _ (by omega), Nat.div_eq_of_lt (Nat.mod_lt _ (by omega)), Nat.zero_add]
    rw [homePlace, hd, Nat.add_mod, e, Nat.add_mul_mod_self_left, Nat.mod_mod]
    rw [Nat.mod_add_mod, show k + (n - b) + b = k + n by omega, Nat.add_mod_right, Nat.mod_eq_of_lt h]

theorem mem_addNew {l : List Nat} {x y : Nat} : y ∈ addNew l x ↔ y ∈ l ∨ y = x := by
  unfold addNew
  split
  · rename_i h
    exact ⟨Or.inl, fun h' => h'.elim id fun e => by subst e; simpa using h⟩
  · simp

/-- Every die that has a slice in service is among the dies on which lines are homed. -/
theorem State.mem_homeDies {s : State} {d k : Nat} (h : (d, k) ∈ s.conf.slices) : d ∈ s.homeDies := by
  have : ∀ (xs : List (Nat × Nat)) (l : List Nat), (d ∈ l ∨ (d, k) ∈ xs) → d ∈ xs.foldl (fun l x => addNew l x.1) l := by
    intro xs
    induction xs with
    | nil => intro l h; simpa using h
    | cons x xs ih =>
      intro l h
      refine ih _ ?_
      rcases h with h | h
      · exact .inl (mem_addNew.2 (.inl h))
      · rcases List.mem_cons.1 h with rfl | h
        · exact .inl (mem_addNew.2 (.inr rfl))
        · exact .inr h
  exact this _ _ (.inr h)

/-- R20: a line is homed on every slice in service. -/
theorem State.homeSlice_onto {s : State} {d k : Nat} (h : (d, k) ∈ s.conf.slices) : ∃ line, s.homeDie line = d ∧ s.homeSlice line = k := by
  obtain ⟨j, hj, ej⟩ := List.getElem_of_mem (State.mem_homeDies h)
  obtain ⟨p, hp, ep⟩ := List.getElem_of_mem (show k ∈ s.slicesOf d by simpa [State.slicesOf] using h)
  obtain ⟨t, -, ht⟩ := homePlace_onto (1 + d) _ 0 p hp
  obtain ⟨r, hr, er⟩ := homePlace_onto 0 _ (t / 4) j hj
  have e4 : (4 * r + t % 4) / 4 = r := by omega
  have hd : s.homeDie (4 * r + t % 4) = d := by
    rw [State.homeDie, e4, er, List.getD_eq_getElem?_getD, List.getElem?_eq_getElem hj, ej]; rfl
  refine ⟨4 * r + t % 4, hd, ?_⟩
  have hi : (4 * r + t % 4) / 4 / s.homeDies.length * 4 + (4 * r + t % 4) % 4 = t := by rw [e4, hr]; omega
  simp only [State.homeSlice, hd, hi, ht]
  rw [List.getD_eq_getElem?_getD, List.getElem?_eq_getElem hp, ep]; rfl

end Sys2Proof.Machine
end

