-- ==== Sys2Proof/Laws/Uses.lean ====
section
/-!
SUPPORT. The registers that each word uses, one equation a word.
-/
namespace Sys2Proof.Machine

@[simp] theorem usesOf_iadd (o : ArgsRS) : usesOf (.iadd o) = Uses.rs o := rfl
@[simp] theorem usesOf_iadds (o : ArgsRS) : usesOf (.iadds o) = Uses.rs o := rfl
@[simp] theorem usesOf_iaddus (o : ArgsRS) : usesOf (.iaddus o) = Uses.rs o := rfl
@[simp] theorem usesOf_isub (o : ArgsRS) : usesOf (.isub o) = Uses.rs o := rfl
@[simp] theorem usesOf_isubs (o : ArgsRS) : usesOf (.isubs o) = Uses.rs o := rfl
@[simp] theorem usesOf_isubus (o : ArgsRS) : usesOf (.isubus o) = Uses.rs o := rfl
@[simp] theorem usesOf_irsub (o : ArgsRS) : usesOf (.irsub o) = Uses.rs o := rfl
@[simp] theorem usesOf_imul (o : ArgsRS) : usesOf (.imul o) = Uses.rs o := rfl
@[simp] theorem usesOf_imulhi (o : ArgsRS) : usesOf (.imulhi o) = Uses.rs o := rfl
@[simp] theorem usesOf_imulhu (o : ArgsRS) : usesOf (.imulhu o) = Uses.rs o := rfl
@[simp] theorem usesOf_imad (o : ArgsRS) : usesOf (.imad o) = Uses.rsAcc o := rfl
@[simp] theorem usesOf_and (o : ArgsRS) : usesOf (.and o) = Uses.rs o := rfl
@[simp] theorem usesOf_or (o : ArgsRS) : usesOf (.or o) = Uses.rs o := rfl
@[simp] theorem usesOf_xor (o : ArgsRS) : usesOf (.xor o) = Uses.rs o := rfl
@[simp] theorem usesOf_andn (o : ArgsRS) : usesOf (.andn o) = Uses.rs o := rfl
@[simp] theorem usesOf_shl (o : ArgsRS) : usesOf (.shl o) = Uses.rs o := rfl
@[simp] theorem usesOf_shr (o : ArgsRS) : usesOf (.shr o) = Uses.rs o := rfl
@[simp] theorem usesOf_sar (o : ArgsRS) : usesOf (.sar o) = Uses.rs o := rfl
@[simp] theorem usesOf_rol (o : ArgsRS) : usesOf (.rol o) = Uses.rs o := rfl
@[simp] theorem usesOf_imin (o : ArgsRS) : usesOf (.imin o) = Uses.rs o := rfl
@[simp] theorem usesOf_imax (o : ArgsRS) : usesOf (.imax o) = Uses.rs o := rfl
@[simp] theorem usesOf_iminu (o : ArgsRS) : usesOf (.iminu o) = Uses.rs o := rfl
@[simp] theorem usesOf_imaxu (o : ArgsRS) : usesOf (.imaxu o) = Uses.rs o := rfl
@[simp] theorem usesOf_popc (o : ArgsR2) : usesOf (.popc o) = Uses.r2 o := rfl
@[simp] theorem usesOf_clz (o : ArgsR2) : usesOf (.clz o) = Uses.r2 o := rfl
@[simp] theorem usesOf_brev (o : ArgsR2) : usesOf (.brev o) = Uses.r2 o := rfl
@[simp] theorem usesOf_ffs (o : ArgsR2) : usesOf (.ffs o) = Uses.r2 o := rfl
@[simp] theorem usesOf_bfe (o : ArgsRS) : usesOf (.bfe o) = Uses.rs o := rfl
@[simp] theorem usesOf_bfes (o : ArgsRS) : usesOf (.bfes o) = Uses.rs o := rfl
@[simp] theorem usesOf_bfi (o : ArgsRS) : usesOf (.bfi o) = Uses.rsAcc o := rfl
@[simp] theorem usesOf_lea (o : ArgsLea) : usesOf (.lea o) =
    { vr := if o.s then [o.a] else [o.a, o.b], vw := [o.d], sr := if o.s then [o.b] else [] } := rfl
@[simp] theorem usesOf_sel (o : ArgsSel) : usesOf (.sel o) = Uses.vvv o.d o.a o.b := rfl
@[simp] theorem usesOf_add64 (o : ArgsRS) : usesOf (.add64 o) = Uses.rs64 o := rfl
@[simp] theorem usesOf_sub64 (o : ArgsRS) : usesOf (.sub64 o) = Uses.rs64 o := rfl
@[simp] theorem usesOf_mul64 (o : ArgsRS) : usesOf (.mul64 o) = Uses.rs64 o := rfl
@[simp] theorem usesOf_mulw (o : ArgsRS) : usesOf (.mulw o) = Uses.rsWide o := rfl
@[simp] theorem usesOf_iaddi (o : ArgsImm) : usesOf (.iaddi o) = { vr := [o.a], vw := [o.d] } := rfl
@[simp] theorem usesOf_mix (o : ArgsMix) : usesOf (.mix o) = { vr := [o.a], vw := [o.d], sr := [o.b] } := rfl
@[simp] theorem usesOf_idp4Ss (o : ArgsRS) : usesOf (.idp4Ss o) = Uses.rsAcc o := rfl
@[simp] theorem usesOf_idp4Nn (o : ArgsRS) : usesOf (.idp4Nn o) = Uses.rsAcc o := rfl
@[simp] theorem usesOf_idp4Sn (o : ArgsRS) : usesOf (.idp4Sn o) = Uses.rsAcc o := rfl
@[simp] theorem usesOf_sadd (o : ArgsS3) : usesOf (.sadd o) = Uses.sss o.d o.a o.b := rfl
@[simp] theorem usesOf_ssub (o : ArgsS3) : usesOf (.ssub o) = Uses.sss o.d o.a o.b := rfl
@[simp] theorem usesOf_smul (o : ArgsS3) : usesOf (.smul o) = Uses.sss o.d o.a o.b := rfl
@[simp] theorem usesOf_smulhn (o : ArgsS3) : usesOf (.smulhn o) = Uses.sss o.d o.a o.b := rfl
@[simp] theorem usesOf_sand (o : ArgsS3) : usesOf (.sand o) = Uses.sss o.d o.a o.b := rfl
@[simp] theorem usesOf_sor (o : ArgsS3) : usesOf (.sor o) = Uses.sss o.d o.a o.b := rfl
@[simp] theorem usesOf_sxor (o : ArgsS3) : usesOf (.sxor o) = Uses.sss o.d o.a o.b := rfl
@[simp] theorem usesOf_sandn (o : ArgsS3) : usesOf (.sandn o) = Uses.sss o.d o.a o.b := rfl
@[simp] theorem usesOf_sshl (o : ArgsS3) : usesOf (.sshl o) = Uses.sss o.d o.a o.b := rfl
@[simp] theorem usesOf_sshr (o : ArgsS3) : usesOf (.sshr o) = Uses.sss o.d o.a o.b := rfl
@[simp] theorem usesOf_ssar (o : ArgsS3) : usesOf (.ssar o) = Uses.sss o.d o.a o.b := rfl
@[simp] theorem usesOf_smin (o : ArgsS3) : usesOf (.smin o) = Uses.sss o.d o.a o.b := rfl
@[simp] theorem usesOf_smax (o : ArgsS3) : usesOf (.smax o) = Uses.sss o.d o.a o.b := rfl
@[simp] theorem usesOf_sminu (o : ArgsS3) : usesOf (.sminu o) = Uses.sss o.d o.a o.b := rfl
@[simp] theorem usesOf_smaxu (o : ArgsS3) : usesOf (.smaxu o) = Uses.sss o.d o.a o.b := rfl
@[simp] theorem usesOf_saddi (o : ArgsSImm) : usesOf (.saddi o) = { sr := [o.a], sw := [o.d] } := rfl
@[simp] theorem usesOf_slit (o : ArgsLit) (x1 : BitVec 32) : usesOf (.slit o x1) = { sw := [o.d] } := rfl
@[simp] theorem usesOf_slitW64 (o : ArgsLit) (x1 : BitVec 32) (x2 : BitVec 32) : usesOf (.slitW64 o x1 x2) = { sw := [o.d] } := rfl
@[simp] theorem usesOf_slea (o : ArgsSLea) : usesOf (.slea o) = Uses.sss o.d o.a o.b := rfl
@[simp] theorem usesOf_fadd (o : ArgsRM) : usesOf (.fadd o) = Uses.vvv o.d o.a o.b := rfl
@[simp] theorem usesOf_fsub (o : ArgsRM) : usesOf (.fsub o) = Uses.vvv o.d o.a o.b := rfl
@[simp] theorem usesOf_fmul (o : ArgsRMS) : usesOf (.fmul o) =
    { vr := if o.s then [o.a] else [o.a, o.b], vw := [o.d], sr := if o.s then [o.b] else [] } := rfl
@[simp] theorem usesOf_ffma (o : ArgsRM) : usesOf (.ffma o) = Uses.vvvAcc o.d o.a o.b := rfl
@[simp] theorem usesOf_ffms (o : ArgsRM) : usesOf (.ffms o) = Uses.vvvAcc o.d o.a o.b := rfl
@[simp] theorem usesOf_fmin (o : ArgsRS) : usesOf (.fmin o) = Uses.rs o := rfl
@[simp] theorem usesOf_fmax (o : ArgsRS) : usesOf (.fmax o) = Uses.rs o := rfl
@[simp] theorem usesOf_fminp (o : ArgsRS) : usesOf (.fminp o) = Uses.rs o := rfl
@[simp] theorem usesOf_fmaxp (o : ArgsRS) : usesOf (.fmaxp o) = Uses.rs o := rfl
@[simp] theorem usesOf_frcp (o : ArgsR2) : usesOf (.frcp o) = Uses.r2 o := rfl
@[simp] theorem usesOf_frsq (o : ArgsR2) : usesOf (.frsq o) = Uses.r2 o := rfl
@[simp] theorem usesOf_fsqrt (o : ArgsR2) : usesOf (.fsqrt o) = Uses.r2 o := rfl
@[simp] theorem usesOf_fex2 (o : ArgsR2) : usesOf (.fex2 o) = Uses.r2 o := rfl
@[simp] theorem usesOf_flg2 (o : ArgsR2) : usesOf (.flg2 o) = Uses.r2 o := rfl
@[simp] theorem usesOf_fsnt (o : ArgsR2) : usesOf (.fsnt o) = Uses.r2 o := rfl
@[simp] theorem usesOf_fcst (o : ArgsR2) : usesOf (.fcst o) = Uses.r2 o := rfl
@[simp] theorem usesOf_dadd (o : ArgsR3) : usesOf (.dadd o) = Uses.ddd o.d o.a o.b := rfl
@[simp] theorem usesOf_dsub (o : ArgsR3) : usesOf (.dsub o) = Uses.ddd o.d o.a o.b := rfl
@[simp] theorem usesOf_dmul (o : ArgsR3) : usesOf (.dmul o) = Uses.ddd o.d o.a o.b := rfl
@[simp] theorem usesOf_dfma (o : ArgsR3) : usesOf (.dfma o) = Uses.dddAcc o.d o.a o.b := rfl
@[simp] theorem usesOf_dmin (o : ArgsR3) : usesOf (.dmin o) = Uses.ddd o.d o.a o.b := rfl
@[simp] theorem usesOf_dmax (o : ArgsR3) : usesOf (.dmax o) = Uses.ddd o.d o.a o.b := rfl
@[simp] theorem usesOf_ddiv (o : ArgsR3) : usesOf (.ddiv o) = Uses.ddd o.d o.a o.b := rfl
@[simp] theorem usesOf_dsqrt (o : ArgsR2) : usesOf (.dsqrt o) = { vr := pairOf o.a, vw := pairOf o.d } := rfl
@[simp] theorem usesOf_hadd2 (o : ArgsH) : usesOf (.hadd2 o) = Uses.vvv o.d o.a o.b := rfl
@[simp] theorem usesOf_hmul2 (o : ArgsH) : usesOf (.hmul2 o) = Uses.vvv o.d o.a o.b := rfl
@[simp] theorem usesOf_hfma2 (o : ArgsH) : usesOf (.hfma2 o) = Uses.vvvAcc o.d o.a o.b := rfl
@[simp] theorem usesOf_hmax2 (o : ArgsH) : usesOf (.hmax2 o) = Uses.vvv o.d o.a o.b := rfl
@[simp] theorem usesOf_cvt (o : ArgsCvt) : usesOf (.cvt o) = Uses.cvt o := rfl
@[simp] theorem usesOf_pk8e4 (o : ArgsR3) : usesOf (.pk8e4 o) = Uses.vvvAcc o.d o.a o.b := rfl
@[simp] theorem usesOf_pk8e5 (o : ArgsR3) : usesOf (.pk8e5 o) = Uses.vvvAcc o.d o.a o.b := rfl
@[simp] theorem usesOf_pk4 (o : ArgsR3) : usesOf (.pk4 o) = Uses.vvvAcc o.d o.a o.b := rfl
@[simp] theorem usesOf_up8e4 (o : ArgsR3) : usesOf (.up8e4 o) = { vr := [o.a], vw := pairOf o.d, sr := [o.b] } := rfl
@[simp] theorem usesOf_up8e5 (o : ArgsR3) : usesOf (.up8e5 o) = { vr := [o.a], vw := pairOf o.d, sr := [o.b] } := rfl
@[simp] theorem usesOf_up4 (o : ArgsR3) : usesOf (.up4 o) = { vr := [o.a], vw := pairOf o.d, sr := [o.b] } := rfl
@[simp] theorem usesOf_qi8 (o : ArgsR3) : usesOf (.qi8 o) = { vr := [o.a, o.d], vw := [o.d], sr := [o.b] } := rfl
@[simp] theorem usesOf_dq4 (o : ArgsR3) : usesOf (.dq4 o) = { vr := [o.a], vw := pairOf o.d, sr := [o.b] } := rfl
@[simp] theorem usesOf_icmp (o : ArgsCmp) : usesOf (.icmp o) = { vr := [o.a, o.b] } := rfl
@[simp] theorem usesOf_ucmp (o : ArgsCmp) : usesOf (.ucmp o) = { vr := [o.a, o.b] } := rfl
@[simp] theorem usesOf_fcmp (o : ArgsCmp) : usesOf (.fcmp o) = { vr := [o.a, o.b] } := rfl
@[simp] theorem usesOf_dcmp (o : ArgsCmp) : usesOf (.dcmp o) = { vr := pairOf o.a ++ pairOf o.b } := rfl
@[simp] theorem usesOf_scmp (o : ArgsCmp) : usesOf (.scmp o) = { sr := [o.a, o.b] } := rfl
@[simp] theorem usesOf_mov (o : ArgsR2) : usesOf (.mov o) = Uses.r2 o := rfl
@[simp] theorem usesOf_movs (o : ArgsMovs) : usesOf (.movs o) = { vw := [o.d], sr := [o.a] } := rfl
@[simp] theorem usesOf_rdln (o : ArgsLn) : usesOf (.rdln o) = { vr := [o.a], sw := [o.d] } := rfl
@[simp] theorem usesOf_wrln (o : ArgsLn) : usesOf (.wrln o) = { vw := [o.d], sr := [o.a], only := some o.lane } := rfl
@[simp] theorem usesOf_vlit (o : ArgsVLit) (x1 : BitVec 32) : usesOf (.vlit o x1) = { vw := [o.d] } := rfl
@[simp] theorem usesOf_rdsr (o : ArgsSr) : usesOf (.rdsr o) = { vw := if specialWidth o.n = some 64 then pairOf o.d else [o.d] } := rfl
@[simp] theorem usesOf_wrsr (o : ArgsSr) : usesOf (.wrsr o) = { sr := [o.d] } := rfl
@[simp] theorem usesOf_rdpc (o : ArgsR1) : usesOf (.rdpc o) = { vw := pairOf o.d } := rfl
@[simp] theorem usesOf_shflIdx (o : ArgsRS) : usesOf (.shflIdx o) = Uses.rs o := rfl
@[simp] theorem usesOf_shflUp (o : ArgsRS) : usesOf (.shflUp o) = Uses.rs o := rfl
@[simp] theorem usesOf_shflDown (o : ArgsRS) : usesOf (.shflDown o) = Uses.rs o := rfl
@[simp] theorem usesOf_shflXor (o : ArgsRS) : usesOf (.shflXor o) = Uses.rs o := rfl
@[simp] theorem usesOf_vall (x0 : ArgsR2) : usesOf (.vall x0) = {} := rfl
@[simp] theorem usesOf_vany (x0 : ArgsR2) : usesOf (.vany x0) = {} := rfl
@[simp] theorem usesOf_ballot (o : ArgsR2) : usesOf (.ballot o) = { vw := [o.d] } := rfl
@[simp] theorem usesOf_pand (o : ArgsR3) : usesOf (.pand o) = { vr := [o.b] } := rfl
@[simp] theorem usesOf_por (o : ArgsR3) : usesOf (.por o) = { vr := [o.b] } := rfl
@[simp] theorem usesOf_pxor (o : ArgsR3) : usesOf (.pxor o) = { vr := [o.b] } := rfl
@[simp] theorem usesOf_pset (o : ArgsPset) : usesOf (.pset o) = { vr := [o.b] } := rfl
@[simp] theorem usesOf_vmatch (o : ArgsR2) : usesOf (.vmatch o) = Uses.r2 o := rfl
@[simp] theorem usesOf_gredAdd (o : ArgsR3) : usesOf (.gredAdd o) = { vr := [o.a], vw := [o.d] } := rfl
@[simp] theorem usesOf_gredMin (o : ArgsR3) : usesOf (.gredMin o) = { vr := [o.a], vw := [o.d] } := rfl
@[simp] theorem usesOf_gredMax (o : ArgsR3) : usesOf (.gredMax o) = { vr := [o.a], vw := [o.d] } := rfl
@[simp] theorem usesOf_gredMinu (o : ArgsR3) : usesOf (.gredMinu o) = { vr := [o.a], vw := [o.d] } := rfl
@[simp] theorem usesOf_gredMaxu (o : ArgsR3) : usesOf (.gredMaxu o) = { vr := [o.a], vw := [o.d] } := rfl
@[simp] theorem usesOf_gredFadd (o : ArgsR3) : usesOf (.gredFadd o) = { vr := [o.a], vw := [o.d] } := rfl
@[simp] theorem usesOf_gredFmin (o : ArgsR3) : usesOf (.gredFmin o) = { vr := [o.a], vw := [o.d] } := rfl
@[simp] theorem usesOf_gredFmax (o : ArgsR3) : usesOf (.gredFmax o) = { vr := [o.a], vw := [o.d] } := rfl
@[simp] theorem usesOf_scani (o : ArgsR3) : usesOf (.scani o) = { vr := [o.a], vw := [o.d] } := rfl
@[simp] theorem usesOf_scanx (o : ArgsR3) : usesOf (.scanx o) = { vr := [o.a], vw := [o.d] } := rfl
@[simp] theorem usesOf_scanf (o : ArgsR3) : usesOf (.scanf o) = { vr := [o.a], vw := [o.d] } := rfl
@[simp] theorem usesOf_scanfx (o : ArgsR3) : usesOf (.scanfx o) = { vr := [o.a], vw := [o.d] } := rfl
@[simp] theorem usesOf_scanmax (o : ArgsR3) : usesOf (.scanmax o) = { vr := [o.a], vw := [o.d] } := rfl
@[simp] theorem usesOf_scanmin (o : ArgsR3) : usesOf (.scanmin o) = { vr := [o.a], vw := [o.d] } := rfl
@[simp] theorem usesOf_segscan (o : ArgsR3) : usesOf (.segscan o) = { vr := [o.a], vw := [o.d] } := rfl
@[simp] theorem usesOf_ldB (o : ArgsM) : usesOf (.ldB o) = Uses.load o 4 := rfl
@[simp] theorem usesOf_ldH (o : ArgsM) : usesOf (.ldH o) = Uses.load o 4 := rfl
@[simp] theorem usesOf_ldW (o : ArgsM) : usesOf (.ldW o) = Uses.load o 4 := rfl
@[simp] theorem usesOf_ldD (o : ArgsM) : usesOf (.ldD o) = Uses.load o 8 := rfl
@[simp] theorem usesOf_ldQ (o : ArgsM) : usesOf (.ldQ o) = Uses.load o 16 := rfl
@[simp] theorem usesOf_ldSb (o : ArgsM) : usesOf (.ldSb o) = Uses.load o 4 := rfl
@[simp] theorem usesOf_ldSh (o : ArgsM) : usesOf (.ldSh o) = Uses.load o 4 := rfl
@[simp] theorem usesOf_ldSc (o : ArgsMTB) : usesOf (.ldSc o) = { sr := [o.base], sw := [o.t] } := rfl
@[simp] theorem usesOf_stB (o : ArgsM) : usesOf (.stB o) = Uses.store o 4 := rfl
@[simp] theorem usesOf_stH (o : ArgsM) : usesOf (.stH o) = Uses.store o 4 := rfl
@[simp] theorem usesOf_stW (o : ArgsM) : usesOf (.stW o) = Uses.store o 4 := rfl
@[simp] theorem usesOf_stD (o : ArgsM) : usesOf (.stD o) = Uses.store o 8 := rfl
@[simp] theorem usesOf_stQ (o : ArgsM) : usesOf (.stQ o) = Uses.store o 16 := rfl
@[simp] theorem usesOf_stSc (o : ArgsMTB) : usesOf (.stSc o) = { sr := [o.base, o.t] } := rfl
@[simp] theorem usesOf_ldsB (o : ArgsM) : usesOf (.ldsB o) = Uses.load o 4 := rfl
@[simp] theorem usesOf_ldsH (o : ArgsM) : usesOf (.ldsH o) = Uses.load o 4 := rfl
@[simp] theorem usesOf_ldsW (o : ArgsM) : usesOf (.ldsW o) = Uses.load o 4 := rfl
@[simp] theorem usesOf_ldsD (o : ArgsM) : usesOf (.ldsD o) = Uses.load o 8 := rfl
@[simp] theorem usesOf_ldsQ (o : ArgsM) : usesOf (.ldsQ o) = Uses.load o 16 := rfl
@[simp] theorem usesOf_ldsSb (o : ArgsM) : usesOf (.ldsSb o) = Uses.load o 4 := rfl
@[simp] theorem usesOf_ldsSh (o : ArgsM) : usesOf (.ldsSh o) = Uses.load o 4 := rfl
@[simp] theorem usesOf_stsB (o : ArgsM) : usesOf (.stsB o) = Uses.store o 4 := rfl
@[simp] theorem usesOf_stsH (o : ArgsM) : usesOf (.stsH o) = Uses.store o 4 := rfl
@[simp] theorem usesOf_stsW (o : ArgsM) : usesOf (.stsW o) = Uses.store o 4 := rfl
@[simp] theorem usesOf_stsD (o : ArgsM) : usesOf (.stsD o) = Uses.store o 8 := rfl
@[simp] theorem usesOf_stsQ (o : ArgsM) : usesOf (.stsQ o) = Uses.store o 16 := rfl
@[simp] theorem usesOf_stsf (o : ArgsM) : usesOf (.stsf o) = Uses.store o 16 := rfl
@[simp] theorem usesOf_sete (o : ArgsMBI) : usesOf (.sete o) = Uses.mbi o := rfl
@[simp] theorem usesOf_ldfW (o : ArgsLdf) : usesOf (.ldfW o) = Uses.ldf o 4 := rfl
@[simp] theorem usesOf_ldfD (o : ArgsLdf) : usesOf (.ldfD o) = Uses.ldf o 8 := rfl
@[simp] theorem usesOf_ldfQ (o : ArgsLdf) : usesOf (.ldfQ o) = Uses.ldf o 16 := rfl
@[simp] theorem usesOf_ldaW (o : ArgsM) : usesOf (.ldaW o) = { Uses.load o 4 with vr := pairOf o.idx } := rfl
@[simp] theorem usesOf_ldaD (o : ArgsM) : usesOf (.ldaD o) = { Uses.load o 8 with vr := pairOf o.idx } := rfl
@[simp] theorem usesOf_ldaQ (o : ArgsM) : usesOf (.ldaQ o) = { Uses.load o 16 with vr := pairOf o.idx } := rfl
@[simp] theorem usesOf_staW (o : ArgsM) : usesOf (.staW o) = { vr := pairOf o.idx ++ regsFor o.t 4, sr := [o.base] } := rfl
@[simp] theorem usesOf_staD (o : ArgsM) : usesOf (.staD o) = { vr := pairOf o.idx ++ regsFor o.t 8, sr := [o.base] } := rfl
@[simp] theorem usesOf_staQ (o : ArgsM) : usesOf (.staQ o) = { vr := pairOf o.idx ++ regsFor o.t 16, sr := [o.base] } := rfl
@[simp] theorem usesOf_atomAdd (o : ArgsM) : usesOf (.atomAdd o) = Uses.atom o 1 1 := rfl
@[simp] theorem usesOf_atomSmin (o : ArgsM) : usesOf (.atomSmin o) = Uses.atom o 1 1 := rfl
@[simp] theorem usesOf_atomSmax (o : ArgsM) : usesOf (.atomSmax o) = Uses.atom o 1 1 := rfl
@[simp] theorem usesOf_atomUmin (o : ArgsM) : usesOf (.atomUmin o) = Uses.atom o 1 1 := rfl
@[simp] theorem usesOf_atomUmax (o : ArgsM) : usesOf (.atomUmax o) = Uses.atom o 1 1 := rfl
@[simp] theorem usesOf_atomAnd (o : ArgsM) : usesOf (.atomAnd o) = Uses.atom o 1 1 := rfl
@[simp] theorem usesOf_atomOr (o : ArgsM) : usesOf (.atomOr o) = Uses.atom o 1 1 := rfl
@[simp] theorem usesOf_atomXor (o : ArgsM) : usesOf (.atomXor o) = Uses.atom o 1 1 := rfl
@[simp] theorem usesOf_atomxXchg32 (o : ArgsM) : usesOf (.atomxXchg32 o) = Uses.atom o 1 1 := rfl
@[simp] theorem usesOf_atomxXchg64 (o : ArgsM) : usesOf (.atomxXchg64 o) = Uses.atom o 2 2 := rfl
@[simp] theorem usesOf_atomxAdd64 (o : ArgsM) : usesOf (.atomxAdd64 o) = Uses.atom o 2 2 := rfl
@[simp] theorem usesOf_atomxFadd32 (o : ArgsM) : usesOf (.atomxFadd32 o) = Uses.atom o 1 1 := rfl
@[simp] theorem usesOf_atomxFmin32 (o : ArgsM) : usesOf (.atomxFmin32 o) = Uses.atom o 1 1 := rfl
@[simp] theorem usesOf_atomxFmax32 (o : ArgsM) : usesOf (.atomxFmax32 o) = Uses.atom o 1 1 := rfl
@[simp] theorem usesOf_atomxFadd64 (o : ArgsM) : usesOf (.atomxFadd64 o) = Uses.atom o 2 2 := rfl
@[simp] theorem usesOf_atomxIncw (o : ArgsM) : usesOf (.atomxIncw o) = Uses.atom o 1 1 := rfl
@[simp] theorem usesOf_cas32 (o : ArgsM) : usesOf (.cas32 o) = Uses.atom o 2 1 := rfl
@[simp] theorem usesOf_cas64 (o : ArgsM) : usesOf (.cas64 o) = Uses.atom o 4 2 := rfl
@[simp] theorem usesOf_atomsAdd (o : ArgsM) : usesOf (.atomsAdd o) = Uses.atom o 1 1 := rfl
@[simp] theorem usesOf_atomsSmin (o : ArgsM) : usesOf (.atomsSmin o) = Uses.atom o 1 1 := rfl
@[simp] theorem usesOf_atomsSmax (o : ArgsM) : usesOf (.atomsSmax o) = Uses.atom o 1 1 := rfl
@[simp] theorem usesOf_atomsUmin (o : ArgsM) : usesOf (.atomsUmin o) = Uses.atom o 1 1 := rfl
@[simp] theorem usesOf_atomsUmax (o : ArgsM) : usesOf (.atomsUmax o) = Uses.atom o 1 1 := rfl
@[simp] theorem usesOf_atomsAnd (o : ArgsM) : usesOf (.atomsAnd o) = Uses.atom o 1 1 := rfl
@[simp] theorem usesOf_atomsOr (o : ArgsM) : usesOf (.atomsOr o) = Uses.atom o 1 1 := rfl
@[simp] theorem usesOf_atomsXor (o : ArgsM) : usesOf (.atomsXor o) = Uses.atom o 1 1 := rfl
@[simp] theorem usesOf_prefL2 (o : ArgsMBI) : usesOf (.prefL2 o) = Uses.mbi o := rfl
@[simp] theorem usesOf_prefL1 (o : ArgsMBI) : usesOf (.prefL1 o) = Uses.mbi o := rfl
@[simp] theorem usesOf_badd (o : ArgsM) : usesOf (.badd o) = Uses.atom o 1 0 := rfl
@[simp] theorem usesOf_bmax (o : ArgsM) : usesOf (.bmax o) = Uses.atom o 1 0 := rfl
@[simp] theorem usesOf_bmin (o : ArgsM) : usesOf (.bmin o) = Uses.atom o 1 0 := rfl
@[simp] theorem usesOf_bmul (o : ArgsM) : usesOf (.bmul o) = Uses.atom o 1 0 := rfl
@[simp] theorem usesOf_bsmx (o : ArgsM) : usesOf (.bsmx o) = Uses.atom o 2 0 := rfl
@[simp] theorem usesOf_biadd (o : ArgsM) : usesOf (.biadd o) = Uses.atom o 1 0 := rfl
@[simp] theorem usesOf_bimax (o : ArgsM) : usesOf (.bimax o) = Uses.atom o 1 0 := rfl
@[simp] theorem usesOf_bset (o : ArgsM) : usesOf (.bset o) = Uses.atom o 1 0 := rfl
@[simp] theorem usesOf_gang (o : ArgsMB) : usesOf (.gang o) = { sr := [o.base] } := rfl
@[simp] theorem usesOf_obres (o : ArgsMTB) : usesOf (.obres o) = { sr := pairOf o.base, sw := pairOf o.t } := rfl
@[simp] theorem usesOf_obrel (o : ArgsMB) : usesOf (.obrel o) = { sr := [o.base] } := rfl
@[simp] theorem usesOf_tfetch (o : ArgsM) : usesOf (.tfetch o) = { sr := [o.t, o.base, o.idx] } := rfl
@[simp] theorem usesOf_mma (o : ArgsMTB) : usesOf (.mma o) = { sr := [o.base], mx := true, names := [o.t] } := rfl
@[simp] theorem usesOf_mmaq (o : ArgsMTB) : usesOf (.mmaq o) = { sr := [o.base], mx := true, names := [o.t] } := rfl
@[simp] theorem usesOf_accz (o : ArgsMT) : usesOf (.accz o) = { mx := true, names := regsFrom o.t 16 } := rfl
@[simp] theorem usesOf_acczD (o : ArgsMT) : usesOf (.acczD o) = { mx := true, names := regsFrom o.t 32 } := rfl
@[simp] theorem usesOf_cpy (o : ArgsM) : usesOf (.cpy o) = { vr := [o.t, o.idx], sr := regsFrom o.base 4 } := rfl
@[simp] theorem usesOf_cpyt (o : ArgsMTB) : usesOf (.cpyt o) = { sr := o.base :: pairOf o.t } := rfl
@[simp] theorem usesOf_cpyn (o : ArgsM) : usesOf (.cpyn o) = { sr := o.base :: o.idx :: pairOf o.t } := rfl
@[simp] theorem usesOf_nmc (o : ArgsNmc) : usesOf (.nmc o) = { sr := [o.base], sw := pairOf o.t } := rfl
@[simp] theorem usesOf_rfence (o : ArgsMC) : usesOf (.rfence o) = {} := rfl
@[simp] theorem usesOf_rel (o : ArgsRel) : usesOf (.rel o) = {} := rfl
@[simp] theorem usesOf_acq (o : ArgsScope) : usesOf (.acq o) = {} := rfl
@[simp] theorem usesOf_acqr (o : ArgsTB) : usesOf (.acqr o) = { sr := [o.base], sw := [o.t] } := rfl
@[simp] theorem usesOf_fence (o : ArgsScope) : usesOf (.fence o) = {} := rfl
@[simp] theorem usesOf_fencex (o : ArgsPaths) : usesOf (.fencex o) = {} := rfl
@[simp] theorem usesOf_waitc (o : ArgsWaitc) : usesOf (.waitc o) = { sr := [o.base, o.t], sw := pairOf o.t } := rfl
@[simp] theorem usesOf_snap (o : ArgsTB) : usesOf (.snap o) = { sr := [o.base], sw := pairOf o.t } := rfl
@[simp] theorem usesOf_revert (o : ArgsTB) : usesOf (.revert o) = { sr := [o.base], sw := [o.t] } := rfl
@[simp] theorem usesOf_sndrop (o : ArgsTB) : usesOf (.sndrop o) = { sr := [o.base], sw := [o.t] } := rfl
@[simp] theorem usesOf_bari (o : ArgsB) : usesOf (.bari o) = { sr := [o.base] } := rfl
@[simp] theorem usesOf_bara (o : ArgsTB) : usesOf (.bara o) = { sr := [o.base], vw := [o.t] } := rfl
@[simp] theorem usesOf_barw (o : ArgsTB) : usesOf (.barw o) = { sr := [o.base], vr := [o.t], vw := [o.t] } := rfl
@[simp] theorem usesOf_bars (o : ArgsTB) : usesOf (.bars o) = { sr := [o.base], vw := [o.t] } := rfl
@[simp] theorem usesOf_barb (o : ArgsTB) : usesOf (.barb o) = { sr := [o.base], vw := [o.t] } := rfl
@[simp] theorem usesOf_regrpTeam (o : ArgsRegrp) : usesOf (.regrpTeam o) = { vr := [o.v] } := rfl
@[simp] theorem usesOf_regrpCore (o : ArgsRegrp) : usesOf (.regrpCore o) = { vr := [o.v] } := rfl
@[simp] theorem usesOf_rgive (o : ArgsN) : usesOf (.rgive o) = {} := rfl
@[simp] theorem usesOf_rclaim (o : ArgsNB) : usesOf (.rclaim o) = { sw := [o.base] } := rfl
@[simp] theorem usesOf_bra (o : ArgsJ) : usesOf (.bra o) = {} := rfl
@[simp] theorem usesOf_call (o : ArgsJ) : usesOf (.call o) = {} := rfl
@[simp] theorem usesOf_brx (o : ArgsBx) : usesOf (.brx o) = { vr := pairOf o.a } := rfl
@[simp] theorem usesOf_callx (o : ArgsBx) : usesOf (.callx o) = { vr := pairOf o.a } := rfl
@[simp] theorem usesOf_ret (o : ArgsC) : usesOf (.ret o) = {} := rfl
@[simp] theorem usesOf_exit (o : ArgsC) : usesOf (.exit o) = {} := rfl
@[simp] theorem usesOf_yield (o : ArgsC) : usesOf (.yield o) = {} := rfl
@[simp] theorem usesOf_trap (o : ArgsTrap) : usesOf (.trap o) = {} := rfl
@[simp] theorem usesOf_brk (o : ArgsTrap) : usesOf (.brk o) = {} := rfl
@[simp] theorem usesOf_nop (o : ArgsC) : usesOf (.nop o) = {} := rfl

end Sys2Proof.Machine
end

