-- ==== Sys2Proof/Laws/Words.lean ====
section
/-!
SUPPORT. What a word that only writes registers does: reading settled operands, writing results, going on to the next word.
-/
namespace Sys2Proof.Machine

/-! ## Settled operands -/

theorem Ctx.isShort_due (c : Ctx) (l : Nat) (bg : Bool) (f : Fresh) (h : Due c.g l f) : c.isShort l bg f = false := by
  obtain ⟨h1, h2⟩ := h
  simp only [Ctx.isShort]
  split
  · rename_i e; simp at e; have := h2 e.1; simp; omega
  · simp; omega

theorem Ctx.isShortS_due (c : Ctx) (l : Nat) (f : SFresh) (h : DueS c.g f) : c.isShortS l f = false := by
  obtain ⟨h1, h2⟩ := h
  simp only [Ctx.isShortS]
  split
  · rename_i e; have := h2 l e; simp only [decide_eq_false_iff_not, Nat.not_lt]; exact this
  · simp; omega

theorem Ctx.early_settled (c : Ctx) (l n site : Nat) (bg : Bool) (x : Word) (fs : List Fresh) (h : ∀ f ∈ fs, f.reg = n → Due c.g l f) :
    c.early l n site bg x fs = x := by
  induction fs with
  | nil => rfl
  | cons f fs ih =>
    by_cases e : f.reg = n
    · simp [Ctx.early, e, c.isShort_due l bg f (h f (by simp) e)]
    · simp only [Ctx.early, e, ne_eq, not_false_eq_true, if_true]
      exact ih fun g hg => h g (by simp [hg])

theorem Ctx.earlyS_settled (c : Ctx) (ls : List Nat) (n site : Nat) (x : DWord) (fs : List SFresh)
    (h : ∀ f ∈ fs, f.reg = n → DueS c.g f) : c.earlyS ls n site x fs = x := by
  induction fs with
  | nil => rfl
  | cons f fs ih =>
    by_cases e : f.reg = n
    · simp [Ctx.earlyS, e, c.isShortS_due _ f (h f (by simp) e)]
    · simp only [Ctx.earlyS, e, ne_eq, not_false_eq_true, if_true]
      exact ih fun g hg => h g (by simp [hg])

theorem Ctx.inFlight_settled (c : Ctx) (l n : Nat) (h : ∀ p ∈ (c.g.lane l).pend, p.reg ≠ n) : c.inFlight l n = false := by
  simp only [Ctx.inFlight, List.any_eq_false]
  intro p hp
  simp [h p hp]

theorem Ctx.inFlightS_settled (c : Ctx) (ls : List Nat) (n : Nat) (h : ∀ p ∈ c.g.spend, p.reg ≠ n) : c.inFlightS ls n = false := by
  simp only [Ctx.inFlightS, List.any_eq_false]
  intro p hp
  simp [h p hp]

theorem Ctx.arrivals_settled (c : Ctx) (l n : Nat) (h : ∀ p ∈ (c.g.lane l).pend, p.reg ≠ n) : c.arrivals l n = [] := by
  simp only [Ctx.arrivals, List.filterMap_eq_nil_iff]
  intro p hp
  simp [h p hp]

theorem Ctx.arrivalsS_settled (c : Ctx) (ls : List Nat) (n : Nat) (h : n ≠ 0 → ∀ p ∈ c.g.spend, p.reg ≠ n) : c.arrivalsS ls n = [] := by
  simp only [Ctx.arrivalsS, List.filterMap_eq_nil_iff]
  intro p hp
  by_cases hn : n = 0
  · simp [hn]
  · simp [h hn p hp]

theorem oneOf_nil {α : Type} (serial site k : Nat) (x : α) : oneOf serial site k x [] = x := rfl

/-- A settled v register reads what it holds. -/
theorem Ctx.v_settled (c : Ctx) (l n site : Nat) (bg : Bool) (hf : ∀ f ∈ (c.g.lane l).fresh, f.reg = n → Due c.g l f)
    (hp : ∀ p ∈ (c.g.lane l).pend, p.reg ≠ n) : c.v l n site bg = c.g.vr l n := by
  simp only [Ctx.v, c.arrivals_settled l n hp, oneOf_nil, c.early_settled _ _ _ _ _ _ hf, Group.vr]

/-- A settled s register reads what it holds. -/
theorem Ctx.sv_settled (c : Ctx) (ls : List Nat) (n site : Nat) (hf : ∀ f ∈ c.g.sfresh, f.reg = n → DueS c.g f)
    (hp : n ≠ 0 → ∀ p ∈ c.g.spend, p.reg ≠ n) : c.sv ls n site = c.g.getS n := by
  simp only [Ctx.sv, c.arrivalsS_settled ls n hp, oneOf_nil, c.earlyS_settled _ _ _ _ _ hf]

namespace Settled

variable {g : Group} {u : Uses}

theorem v (h : Settled g u) {c : Ctx} (hc : c.g = g) {n : Nat} (hn : n ∈ u.vr ++ u.vw ++ u.names) (l site : Nat) (bg : Bool) :
    c.v l n site bg = g.vr l n := by
  subst hc; exact c.v_settled l n site bg (h.fresh l n hn) (h.pend l n hn)

theorem sv (h : Settled g u) {c : Ctx} (hc : c.g = g) {n : Nat} (hn : n ∈ u.sr ++ u.sw) (ls : List Nat) (site : Nat) :
    c.sv ls n site = g.getS n := by
  subst hc; exact c.sv_settled ls n site (h.sfresh n hn) (h.spend n hn)

/-- A word whose registers are settled breaks no rule of checked mode (R81). -/
theorem not_violates (h : Settled g u) {c : Ctx} (hc : c.g = g) : c.violates u = false := by
  subst hc
  simp only [Ctx.violates, List.any_eq_false, Bool.or_eq_true, not_or, List.any_eq_true, not_exists, not_and, Bool.not_eq_true]
  intro l _
  refine ⟨⟨⟨?_, ?_⟩, ?_⟩, ?_⟩
  · intro n hn
    simp only [Ctx.newestShort]
    split
    · rename_i f hf
      exact c.isShort_due l false f
        (h.fresh l n (by simp [hn]) f (List.mem_of_find?_eq_some hf) (by simpa using List.find?_some hf))
    · rfl
  · intro n hn p hp
    have : n ∈ u.vr ++ u.vw ++ u.names := by
      simp only [List.mem_append] at hn ⊢
      rcases hn with (hn | hn) | hn
      · simp [hn]
      · split at hn <;> simp_all
      · split at hn <;> simp_all
    simp [h.pend l n this p hp]
  · intro n hn
    have : c.newestShortS l n = false := by
      simp only [Ctx.newestShortS]
      split
      · rename_i f hf
        exact c.isShortS_due l f (h.sfresh n (by simp [hn]) f (List.mem_of_find?_eq_some hf) (by simpa using List.find?_some hf))
      · rfl
    simp [this]
  · intro n hn
    by_cases h0 : n = 0
    · simp [h0]
    · simp only [bne_iff_ne, ne_eq, h0, not_false_eq_true, Bool.and_eq_false_imp]
      intro _
      simp only [List.any_eq_false]
      intro p hp
      simp [h.spend n (by simpa using hn) h0 p hp]

end Settled

/-! ## Executing a word -/

/-- A word at which a group stands runs its meaning. -/
theorem State.wordOf_eq {s : State} {g : Group} {r : Run} {share : Share} (h : AtWord s g r share) (p : Option Nat) {u : Uses} (hu : Settled g u)
    (k : Ctx → State) :
    s.wordOf share p u k = .next (k { s := s, g := g, r := r, issue := match p with
      | none => g.splitOf r
      | some q => g.issueOf r q }) := by
  unfold State.wordOf
  rw [h.focus]
  have hj : (decide (share = .joined) && r.wait == .none && g.parted r) = false := by
    cases share <;> simp [h.whole]
  simp only [h.run]
  have := hu.not_violates (c := { s := s, g := g, r := r, issue := match p with
      | none => g.splitOf r
      | some q => g.issueOf r q }) rfl
  cases p <;> simp_all [Group.splitOf, Group.issueOf]

/-! ## Going on -/

/-- A lane that only takes a place, a count or recent results. -/
theorem LaneWrote.trans {x y z : Lane} {v : List (Nat × Word)} {p : List (Nat × Bool)} (h : LaneWrote x y v p) (k : LaneWrote y z [] []) :
    LaneWrote x z v p where
  v := by rw [k.v, h.v]; rfl
  p := by rw [k.p, h.p]; rfl
  rest := by rw [k.rest, h.rest]

theorem LaneWrote.refl (x : Lane) : LaneWrote x x [] [] := ⟨rfl, rfl, rfl⟩

theorem GroupWrote.trans {g h k : Group} {w : Writes} (a : GroupWrote g h w) (b : GroupWrote h k {}) : GroupWrote g k w where
  lanes l := (a.lanes l).trans (b.lanes l)
  s := by rw [b.s, a.s]; rfl
  flags := by rw [b.flags, a.flags]; simp
  rest := by rw [b.rest, a.rest]

theorem LaneWrote.after {x y z : Lane} {v : List (Nat × Word)} {p : List (Nat × Bool)} (h : LaneWrote x y [] []) (k : LaneWrote y z v p) :
    LaneWrote x z v p where
  v := by rw [k.v, h.v]; rfl
  p := by rw [k.p, h.p]; rfl
  rest := by rw [k.rest, h.rest]

theorem GroupWrote.after {g h k : Group} {w : Writes} (a : GroupWrote g h {}) (b : GroupWrote h k w) : GroupWrote g k w where
  lanes l := (a.lanes l).after (b.lanes l)
  s := by rw [b.s, a.s]; rfl
  flags := by rw [b.flags, a.flags]; simp
  rest := by rw [b.rest, a.rest]

theorem GroupWrote.refl (g : Group) : GroupWrote g g {} := ⟨fun _ => .refl _, rfl, by simp, rfl⟩

/-- Lanes of an issue that join again change no register. -/
theorem Group.rejoin_wrote (g : Group) : GroupWrote g g.rejoin {} := by
  unfold Group.rejoin
  split
  · exact .refl g
  · exact ⟨fun _ => .refl _, rfl, by simp, rfl⟩

/-- Without a replay report nothing is delivered. -/
theorem Group.giveReport_calm {g : Group} (h : g.report = none) : g.giveReport = g := by
  unfold Group.giveReport
  rw [h]

/-- A clause that completes moves its lanes and no register. -/
theorem Group.completeRun_wrote (tick : Nat) (g : Group) (r : Run) : GroupWrote g (g.completeRun tick r) {} := by
  have hl : ∀ l, LaneWrote (g.lane l) ((g.completeRun tick r).lane l) [] [] := by
    intro l
    have key : ∀ (y : Lane), y = (g.lane l) ∨ y = { g.lane l with vpc := (assoc r.targets l).getD r.fallThrough } →
        LaneWrote (g.lane l) y [] [] := by
      rintro y (rfl | rfl)
      · exact .refl _
      · exact ⟨rfl, rfl, rfl⟩
    have eq : ∀ (k : Group), k.lanes = g.lanes.zipIdx.map (fun (x : Lane × Nat) =>
        if inMask r.lanes x.2 = true then { x.1 with vpc := (assoc r.targets x.2).getD r.fallThrough } else x.1) →
        LaneWrote (g.lane l) (k.lane l) [] [] := by
      intro k hk
      apply key
      simp only [Group.lane, hk, List.getD_eq_getElem?_getD, List.getElem?_map, List.getElem?_zipIdx, Nat.zero_add]
      cases g.lanes[l]? with
      | none => simp
      | some x => simp only [Option.map_some, Option.getD_some]; split <;> simp
    simp only [Group.completeRun]
    split <;> exact eq _ rfl
  refine ⟨hl, ?_, ?_, ?_⟩ <;>
  · simp only [Group.completeRun]
    split <;> first | rfl | simp

theorem Group.completeRuns_wrote (tick : Nat) (rs : List Run) (g : Group) : GroupWrote g (rs.foldl (Group.completeRun tick) g) {} := by
  induction rs generalizing g with
  | nil => exact .refl g
  | cons r rs ih => exact (g.completeRun_wrote tick r).trans (ih _)

/-- What follows a change of the runs of a group without a replay report changes no register. -/
theorem Group.settle_wrote (tick : Nat) (g : Group) (h : g.report = none) : GroupWrote g (g.settle tick) {} := by
  have a : GroupWrote g.rejoin { g.rejoin with runs := g.rejoin.runs.filter fun r => !r.isOver && r.lanes != 0 } {} :=
    ⟨fun _ => .refl _, rfl, by simp, rfl⟩
  have k := (g.rejoin_wrote.trans a).trans (Group.completeRuns_wrote tick (g.rejoin.runs.filter Run.isOver) _)
  show GroupWrote g (Group.giveReport _) {}
  rw [Group.giveReport_calm]
  · exact k
  · rw [k.rest]; exact h

/-- Going on to the next word changes no register. -/
theorem Ctx.advanceGroup_wrote (c : Ctx) (g : Group) (n contrib : Nat) (h : g.report = none) : GroupWrote g (c.advanceGroup g n contrib) {} := by
  let g1 : Group := c.pace g contrib
  have e : c.advanceGroup g n contrib = (g1.setRun c.r (some { c.r with pos := c.r.pos + n, wait := .none })).settle c.s.tick := rfl
  have a : GroupWrote g (g1.setRun c.r (some { c.r with pos := c.r.pos + n, wait := .none })) {} := by
    refine ⟨fun l => ?_, rfl, by simp [Group.setRun, g1, Ctx.pace], rfl⟩
    simp only [Group.lane, Group.setRun, g1, Ctx.pace, List.getD_eq_getElem?_getD, List.getElem?_map, List.getElem?_zipIdx, Nat.zero_add]
    cases g.lanes[l]? with
    | none => exact .refl _
    | some x =>
      simp only [Option.map_some, Option.getD_some, Lane.prune]
      split <;> exact ⟨rfl, rfl, rfl⟩
  rw [e]
  exact a.trans (Group.settle_wrote _ _ h)

/-- What other parts of the issue keep of a word changes no register. -/
theorem Group.noteRan_wrote (g : Group) (r : Run) : GroupWrote g (g.noteRan r) {} := by
  unfold Group.noteRan
  split
  · exact .refl g
  · exact ⟨fun _ => .refl _, rfl, by simp, rfl⟩

/-! ## Writing results -/

theorem setAll_cons {α : Type} (xs : List α) (n : Nat) (x : α) (ws : List (Nat × α)) :
    setAll xs ((n, x) :: ws) = setAll (xs.set n x) ws := rfl

theorem Ctx.writeVs_wrote (c : Ctx) (i lat contrib : Nat) (own : Bool) (ws : List (Nat × Word)) (x : Lane)
    (h : ∀ w ∈ ws, ∀ p ∈ (c.g.lane i).pend, p.reg ≠ w.1) :
    LaneWrote x (ws.foldl (fun l w => c.writeV i lat contrib own l w.1 w.2) x) ws [] := by
  induction ws generalizing x with
  | nil => exact .refl x
  | cons w ws ih =>
    have hf := c.inFlight_settled i w.1 (h w (by simp))
    have k := ih (c.writeV i lat contrib own x w.1 w.2) fun w' hw => h w' (by simp [hw])
    refine ⟨?_, ?_, ?_⟩
    · simp only [List.foldl_cons, k.v]; rfl
    · simp only [List.foldl_cons, k.p]; rfl
    · simp only [List.foldl_cons]
      rw [k.rest]
      simp [Ctx.writeV, Lane.putV, hf]

theorem Lane.putPs_wrote (ws : List (Nat × Bool)) (x : Lane) :
    LaneWrote x (ws.foldl (fun (l : Lane) w => l.putP w.1 w.2) x) [] ws := by
  induction ws generalizing x with
  | nil => exact .refl x
  | cons w ws ih =>
    have k := ih (x.putP w.1 w.2)
    by_cases h0 : w.1 = 0
    · have e : x.putP w.1 w.2 = x := by simp [Lane.putP, h0]
      have f : setAll0 x.p (w :: ws) = setAll0 x.p ws := by simp [setAll0, h0]
      rw [List.foldl_cons, e]
      exact ⟨(ih x).v, by rw [f]; exact (ih x).p, (ih x).rest⟩
    · refine ⟨?_, ?_, ?_⟩
      · rw [List.foldl_cons, k.v]; simp [Lane.putP, h0]
      · rw [List.foldl_cons, k.p]; simp [Lane.putP, h0, setAll0, setAll]
      · rw [List.foldl_cons, k.rest]; simp [Lane.putP, h0]

theorem foldl_filter_map {α β γ : Type} (p : α → Bool) (f : α → β) (op : γ → β → γ) (l : List α) (init : γ) :
    (l.filter p).foldl (fun acc a => op acc (f a)) init = ((l.filter p).map f).foldl op init := by
  rw [List.foldl_map]

/-- The writes of a word to one lane. -/
def Effect.lane (e : Effect) (l : Nat) : List (Nat × Word) := (e.v.filter fun w => w.1 == l).map (·.2)
/-- The predicates that a word writes in one lane. -/
def Effect.preds (e : Effect) (l : Nat) : List (Nat × Bool) := (e.p.filter fun w => w.1 == l).map (·.2)

theorem Ctx.writeLane_wrote (c : Ctx) (e : Effect) (lat contrib : Nat) (own : Bool) (i : Nat) (x : Lane)
    (h : ∀ w ∈ e.lane i, ∀ p ∈ (c.g.lane i).pend, p.reg ≠ w.1) :
    LaneWrote x (c.writeLane e lat contrib own i x) (e.lane i) (e.preds i) := by
  have a := c.writeVs_wrote i lat contrib own (e.lane i) x h
  have b := Lane.putPs_wrote (e.preds i) ((e.lane i).foldl (fun l w => c.writeV i lat contrib own l w.1 w.2) x)
  have eq : c.writeLane e lat contrib own i x
      = (e.preds i).foldl (fun (l : Lane) w => l.putP w.1 w.2) ((e.lane i).foldl (fun l w => c.writeV i lat contrib own l w.1 w.2) x) := by
    simp [Ctx.writeLane, Effect.lane, Effect.preds, List.foldl_map]
  rw [eq]
  refine ⟨?_, ?_, ?_⟩
  · rw [b.v, a.v]; rfl
  · rw [b.p, a.p]; rfl
  · rw [b.rest, a.rest]

/-- Writing s registers changes nothing else of a group. -/
theorem Ctx.writeSs_wrote (c : Ctx) (lat contrib : Nat) (ws : List (Nat × DWord)) (g : Group)
    (h : ∀ w ∈ ws, w.1 ≠ 0 → ∀ p ∈ c.g.spend, p.reg ≠ w.1) :
    GroupWrote g (ws.foldl (fun g w => c.writeS lat g w.1 w.2 contrib) g) { s := ws } := by
  induction ws generalizing g with
  | nil => exact ⟨fun _ => .refl _, rfl, by simp, rfl⟩
  | cons w ws ih =>
    have k := ih (c.writeS lat g w.1 w.2 contrib) fun w' hw => h w' (by simp [hw])
    by_cases h0 : w.1 = 0
    · have e : c.writeS lat g w.1 w.2 contrib = g := by simp [Ctx.writeS, h0]
      rw [e] at k
      rw [List.foldl_cons, e]
      exact ⟨k.lanes, by rw [k.s]; simp [setAll0, h0], k.flags, k.rest⟩
    · have hf := c.inFlightS_settled c.split w.1 (h w (by simp) h0)
      have a : ∀ l, (c.writeS lat g w.1 w.2 contrib).lane l = g.lane l := by
        intro l; simp [Ctx.writeS, h0, Group.putS, Group.lane]
      rw [List.foldl_cons]
      refine ⟨fun l => a l ▸ k.lanes l, ?_, ?_, ?_⟩
      · rw [k.s]; simp [Ctx.writeS, h0, Group.putS, setAll0, setAll]
      · rw [k.flags]; simp [Ctx.writeS, h0, Group.putS]
      · rw [k.rest]; simp [Ctx.writeS, h0, Group.putS, hf]

/-- Writing the results of a word (R126): what is not named does not change. -/
theorem Ctx.writeAll_wrote (c : Ctx) (e : Effect) (lat contrib : Nat) (own : Bool) (hl : ∀ w ∈ e.v, (c.g.lane w.1).exited = false)
    (hp : ∀ w ∈ e.p, (c.g.lane w.1).exited = false) (h : ∀ w ∈ e.v, ∀ p ∈ (c.g.lane w.1).pend, p.reg ≠ w.2.1)
    (hs : ∀ w ∈ e.s, w.1 ≠ 0 → ∀ p ∈ c.g.spend, p.reg ≠ w.1) :
    GroupWrote c.g (c.writeAll e lat contrib own) { v := e.lane, p := e.preds, s := e.s, flags := e.flags } := by
  let g1 : Group := { c.g with lanes := c.g.lanes.zipIdx.map fun x => c.writeLane e lat contrib own x.2 x.1 }
  have b := c.writeSs_wrote lat contrib e.s g1 hs
  have hlane : ∀ l, LaneWrote (c.g.lane l) (g1.lane l) (e.lane l) (e.preds l) := by
    intro l
    have hw : ∀ w ∈ e.lane l, ∀ p ∈ (c.g.lane l).pend, p.reg ≠ w.1 := by
      intro w hw
      simp only [Effect.lane, List.mem_map, List.mem_filter, beq_iff_eq] at hw
      obtain ⟨x, ⟨hx, rfl⟩, rfl⟩ := hw
      exact h x hx
    by_cases hb : l < c.g.lanes.length
    · have : g1.lane l = c.writeLane e lat contrib own l (c.g.lane l) := by
        simp [g1, Group.lane, hb]
      rw [this]; exact c.writeLane_wrote e lat contrib own l _ hw
    · have hbl : c.g.lane l = Lane.blank := by simp [Group.lane, hb]
      have e1 : e.lane l = [] := by
        simp only [Effect.lane, List.map_eq_nil_iff, List.filter_eq_nil_iff, beq_iff_eq]
        rintro x hx rfl; have := hl x hx; rw [hbl] at this; cases this
      have e2 : e.preds l = [] := by
        simp only [Effect.preds, List.map_eq_nil_iff, List.filter_eq_nil_iff, beq_iff_eq]
        rintro x hx rfl; have := hp x hx; rw [hbl] at this; cases this
      have : g1.lane l = Lane.blank := by simp [g1, Group.lane, hb]
      rw [hbl, this, e1, e2]; exact .refl _
  have hr : c.writeAll e lat contrib own = (e.s.foldl (fun g w => c.writeS lat g w.1 w.2 contrib) g1).raise e.flags := rfl
  rw [hr]
  refine ⟨fun l => (hlane l).trans (b.lanes l), ?_, ?_, ?_⟩
  · exact b.s
  · simp only [Group.raise]; rw [b.flags]; simp [g1]
  · simp only [Group.raise]; rw [b.rest]

/-! ## The state after a word -/

theorem State.putGroup_group? {s : State} {g : Group} (h : s.group? n = some g) (k : Group) (hk : k.gid = n) :
    (s.putGroup k).group? n = some k := by
  simp only [State.group?, State.putGroup, State.modGroup, List.find?_map] at *
  have : (s.groups.find? ((fun g => g.gid == n) ∘ fun g => if g.gid = k.gid then k else g)) = some g := by
    rw [← h]; congr 1; funext x
    simp only [Function.comp_apply]
    split
    · rename_i e; simp [hk, e]
    · rfl
  have hg : g.gid = n := by simpa using List.find?_some h
  rw [this]; simp [hg, hk]

theorem State.putGroup_others (s : State) (k : Group) (n : Nat) (hn : n ≠ k.gid) : (s.putGroup k).group? n = s.group? n := by
  simp only [State.group?, State.putGroup, State.modGroup, List.find?_map]
  have : (s.groups.find? ((fun g => g.gid == n) ∘ fun g => if g.gid = k.gid then k else g)) = s.groups.find? fun g => g.gid == n := by
    congr 1; funext x
    simp only [Function.comp_apply]
    split
    · rename_i e; simp [e]
    · rfl
  rw [this]
  cases hf : s.groups.find? fun g => g.gid == n with
  | none => rfl
  | some g =>
    have hg : g.gid = n := by simpa using List.find?_some hf
    simp [hg, hn]

theorem State.group?_gid {s : State} {g : Group} {n : Nat} (h : s.group? n = some g) : g.gid = n := by
  simpa using List.find?_some h

/-- A group that stands in the state, replaced after a word. -/
theorem Wrote.of_put {s : State} {g h : Group} {r : Run} {share : Share} {w : Writes} (a : AtWord s g r share) (k : GroupWrote g h w) :
    Wrote s (s.putGroup h) g w := by
  have hg := State.group?_gid a.focus
  have hh : h.gid = g.gid := by rw [k.rest]
  refine ⟨rfl, fun n hn => State.putGroup_others s h n (by rw [hh]; exact hn), h, ?_, k⟩
  have := State.putGroup_group? (n := s.focus) a.focus h (by rw [hh, hg])
  rwa [hg]

/-- The state after a word that commits its results. -/
theorem Ctx.commit_wrote {s : State} {g : Group} {r : Run} {share : Share} (a : AtWord s g r share) (ls : List Nat) (e : Effect) (lat contrib n : Nat) (own : Bool)
    (hl : ∀ w ∈ e.v, (g.lane w.1).exited = false) (hp : ∀ w ∈ e.p, (g.lane w.1).exited = false)
    (h : ∀ w ∈ e.v, ∀ p ∈ (g.lane w.1).pend, p.reg ≠ w.2.1) (hs : ∀ w ∈ e.s, w.1 ≠ 0 → ∀ p ∈ g.spend, p.reg ≠ w.1) :
    Wrote s (Ctx.commit { s := s, g := g, r := r, issue := ls } e lat contrib n own) g
      { v := e.lane, p := e.preds, s := e.s, flags := e.flags } := by
  let c : Ctx := { s := s, g := g, r := r, issue := ls }
  have b := c.writeAll_wrote e lat contrib own hl hp h hs
  exact Wrote.of_put a (b.trans (c.advanceGroup_wrote _ n contrib (by rw [b.rest]; exact a.calm)))

/-- A lane of Issue has not exited. -/
theorem Group.exited_of_mem_splitOf {g : Group} {r : Run} {l : Nat} (h : l ∈ g.splitOf r) : (g.lane l).exited = false := by
  simpa using (List.mem_filter.mp h).2

theorem Group.mem_splitOf_of_issueOf {g : Group} {r : Run} {p l : Nat} (h : l ∈ g.issueOf r p) : l ∈ g.splitOf r :=
  (List.mem_filter.mp h).1

theorem maskLanes_nodup (m : Mask) : (maskLanes m).Nodup := List.Pairwise.filter _ List.nodup_range
theorem Group.issueOf_nodup (g : Group) (r : Run) (p : Nat) : (g.issueOf r p).Nodup :=
  List.Pairwise.filter _ (List.Pairwise.filter _ (maskLanes_nodup r.lanes))
theorem Group.splitOf_nodup (g : Group) (r : Run) : (g.splitOf r).Nodup := List.Pairwise.filter _ (maskLanes_nodup r.lanes)

/-- One write a lane: what a lane is written. -/
theorem filter_map_lane {α : Type} (ls : List Nat) (hn : ls.Nodup) (f : Nat → α) (l : Nat) :
    ((ls.map fun i => (i, f i)).filter (fun w => w.1 == l)).map (·.2) = if l ∈ ls then [f l] else [] := by
  induction ls with
  | nil => simp
  | cons x xs ih =>
    have hx := List.nodup_cons.mp hn
    have ih := ih hx.2
    by_cases e : x = l
    · subst e
      rw [if_neg hx.1] at ih
      simp [ih]
    · have : ¬ l = x := fun h => e h.symm
      simp [e, this, ih]

/-- Two writes a lane. -/
theorem filter_flatMap_lane {α : Type} (ls : List Nat) (hn : ls.Nodup) (f : Nat → List α) (l : Nat) :
    ((ls.flatMap fun i => (f i).map fun x => (i, x)).filter (fun w => w.1 == l)).map (·.2) = if l ∈ ls then f l else [] := by
  induction ls with
  | nil => simp
  | cons x xs ih =>
    have hx := List.nodup_cons.mp hn
    have ih := ih hx.2
    simp only [List.flatMap_cons, List.filter_append, List.map_append, ih, List.filter_map, List.map_map]
    by_cases e : x = l
    · subst e
      have t : (fun w : Nat × α => w.1 == x) ∘ (fun y => (x, y)) = fun _ => true := by funext y; simp
      simp [hx.1, t, Function.comp_def]
    · have : ¬ l = x := fun h => e h.symm
      have t : (fun w : Nat × α => w.1 == l) ∘ (fun y => (x, y)) = fun _ => false := by funext y; simp [e]
      simp [this, t]

/-! ## The shapes of words -/

variable {i : Instr} {guard d lat stall : Nat}

/-- A write of a register that the word names as its destination meets nothing pending there. -/
theorem Settled.pend_vw {g : Group} {u : Uses} (h : Settled g u) {n : Nat} (hn : n ∈ u.vw) (l : Nat) :
    ∀ p ∈ (g.lane l).pend, p.reg ≠ n := h.pend l n (by simp [hn])

/-- A word that commits an effect completes with the writes that the effect lists, where it writes lanes of its split and its destinations. -/
theorem Completes.of {w : State → Group → Run → Writes} (p : Option Nat) (e : Ctx → Effect) (lt n : Nat) (contrib : Nat) (own : Bool)
    (he : ∀ s, exec i s = s.wordOf (shareOf i) p (usesOf i) fun c => c.commit (e c) lt contrib n own)
    (hv : ∀ s g r, AtWord s g r (shareOf i) → Settled g (usesOf i) → ∀ x ∈ (e (ctxOf s g r p)).v, x.1 ∈ g.splitOf r ∧ x.2.1 ∈ (usesOf i).vw)
    (hp : ∀ s g r, AtWord s g r (shareOf i) → Settled g (usesOf i) → ∀ x ∈ (e (ctxOf s g r p)).p, x.1 ∈ g.splitOf r)
    (hs : ∀ s g r, AtWord s g r (shareOf i) → Settled g (usesOf i) → ∀ x ∈ (e (ctxOf s g r p)).s, x.1 ∈ (usesOf i).sw)
    (hw : ∀ s g r, AtWord s g r (shareOf i) → Settled g (usesOf i) → w s g r
      = { v := (e (ctxOf s g r p)).lane, p := (e (ctxOf s g r p)).preds, s := (e (ctxOf s g r p)).s, flags := (e (ctxOf s g r p)).flags }) :
    Completes i w := by
  intro s g r a hu
  refine ⟨_, by rw [he, State.wordOf_eq a p hu], ?_⟩
  rw [hw s g r a hu]
  exact Ctx.commit_wrote a _ (e (ctxOf s g r p)) lt contrib n own
    (fun x hx => Group.exited_of_mem_splitOf (hv s g r a hu x hx).1)
    (fun x hx => Group.exited_of_mem_splitOf (hp s g r a hu x hx))
    (fun x hx => hu.pend_vw (hv s g r a hu x hx).2 x.1)
    (fun x hx h0 => hu.spend x.1 (by simp [hs s g r a hu x hx]) h0)

theorem SetsV.of {f : Group → Nat → Word} {F : Ctx → Nat → Word} (he : ∀ s, exec i s = s.vector guard (usesOf i) lat stall d F (shareOf i))
    (hd : d ∈ (usesOf i).vw) (hF : ∀ c : Ctx, Settled c.g (usesOf i) → ∀ l ∈ c.issue, F c l = f c.g l) : SetsV i guard d f := by
  refine Completes.of (some guard) (fun c => { v := c.issue.map fun l => (l, d, F c l) }) lat 1 (1 + stall) true he ?_ ?_ ?_ ?_
  · intro s g r a hu x hx
    simp only [List.mem_map] at hx
    obtain ⟨l, hl, rfl⟩ := hx
    exact ⟨Group.mem_splitOf_of_issueOf hl, hd⟩
  · intro s g r a hu x hx; cases hx
  · intro s g r a hu x hx; cases hx
  · intro s g r a hu
    have : (fun l => if l ∈ g.issueOf r guard then [(d, f g l)] else [])
        = Effect.lane { v := (g.issueOf r guard).map fun l => (l, d, F (ctxOf s g r (some guard)) l) } := by
      funext l
      rw [Effect.lane, filter_map_lane _ (g.issueOf_nodup r guard)]
      split
      · rename_i hl; rw [hF (ctxOf s g r (some guard)) hu l hl]; rfl
      · rfl
    simp only [this]; rfl

theorem SetsPair.of {f : Group → Nat → DWord} {F : Ctx → Nat → DWord} (he : ∀ s, exec i s = s.vector64 guard (usesOf i) lat stall d F (shareOf i))
    (hd : d ∈ (usesOf i).vw) (hd1 : d + 1 ∈ (usesOf i).vw) (hF : ∀ c : Ctx, Settled c.g (usesOf i) → ∀ l ∈ c.issue, F c l = f c.g l) :
    SetsPair i guard d f := by
  refine Completes.of (some guard)
    (fun c => { v := c.issue.flatMap fun l => [(d, Word.lo (F c l)), (d + 1, Word.hi (F c l))].map fun x => (l, x) })
    lat 1 (1 + stall) true he ?_ ?_ ?_ ?_
  · intro s g r a hu x hx
    simp only [List.mem_flatMap, List.mem_map] at hx
    obtain ⟨l, hl, y, hy, rfl⟩ := hx
    refine ⟨Group.mem_splitOf_of_issueOf hl, ?_⟩
    simp only [List.mem_cons, List.not_mem_nil, or_false] at hy
    rcases hy with rfl | rfl
    · exact hd
    · exact hd1
  · intro s g r a hu x hx; cases hx
  · intro s g r a hu x hx; cases hx
  · intro s g r a hu
    have : (fun l => if l ∈ g.issueOf r guard then [(d, Word.lo (f g l)), (d + 1, Word.hi (f g l))] else [])
        = Effect.lane { v := (g.issueOf r guard).flatMap fun l =>
            [(d, Word.lo (F (ctxOf s g r (some guard)) l)), (d + 1, Word.hi (F (ctxOf s g r (some guard)) l))].map fun x => (l, x) } := by
      funext l
      rw [Effect.lane, filter_flatMap_lane _ (g.issueOf_nodup r guard)]
      split
      · rename_i hl; rw [hF (ctxOf s g r (some guard)) hu l hl]; rfl
      · rfl
    simp only [this]; rfl

/-- The flags of the lanes of Issue, one after another. -/
theorem foldl_flags (ls : List Nat) (f : Nat → Nat × Flags) (a : Flags) :
    (ls.map fun l => (l, f l)).foldl (fun (a : Flags) x => a ||| x.2.2) a = ls.foldl (fun a l => a ||| (f l).2) a := by
  rw [List.foldl_map]

theorem foldl_or_congr (ls : List Nat) (f g : Nat → Flags) (h : ∀ l ∈ ls, f l = g l) (a : Flags) :
    ls.foldl (fun a l => a ||| f l) a = ls.foldl (fun a l => a ||| g l) a := by
  induction ls generalizing a with
  | nil => rfl
  | cons x xs ih => rw [List.foldl_cons, List.foldl_cons, h x (by simp)]; exact ih (fun l hl => h l (by simp [hl])) _

theorem SetsF.of {f : Group → Nat → Nat × Flags} {F : Ctx → Nat → Nat × Flags}
    (he : ∀ s, exec i s = s.vectorF guard (usesOf i) lat stall d F (shareOf i))
    (hd : d ∈ (usesOf i).vw) (hF : ∀ c : Ctx, Settled c.g (usesOf i) → ∀ l ∈ c.issue, F c l = f c.g l) : SetsF i guard d f := by
  refine Completes.of (some guard)
    (fun c => { v := (c.issue.map fun l => (l, F c l)).map fun r => (r.1, d, BitVec.ofNat 32 r.2.1)
                flags := (c.issue.map fun l => (l, F c l)).foldl (fun a r => a ||| r.2.2) 0 }) lat 1 (1 + stall) true he ?_ ?_ ?_ ?_
  · intro s g r a hu x hx
    simp only [List.mem_map] at hx
    obtain ⟨_, ⟨l, hl, rfl⟩, rfl⟩ := hx
    exact ⟨Group.mem_splitOf_of_issueOf hl, hd⟩
  · intro s g r a hu x hx; cases hx
  · intro s g r a hu x hx; cases hx
  · intro s g r a hu
    have h1 : (fun l => if l ∈ g.issueOf r guard then [(d, BitVec.ofNat 32 (f g l).1)] else [])
        = Effect.lane { v := (g.issueOf r guard).map fun l => (l, d, BitVec.ofNat 32 (F (ctxOf s g r (some guard)) l).1) } := by
      funext l
      rw [Effect.lane, filter_map_lane _ (g.issueOf_nodup r guard)]
      split
      · rename_i hl; rw [hF (ctxOf s g r (some guard)) hu l hl]; rfl
      · rfl
    have h2 : unionOver (g.issueOf r guard) (fun l => (f g l).2)
        = ((g.issueOf r guard).map fun l => (l, F (ctxOf s g r (some guard)) l)).foldl (fun (a : Flags) r => a ||| r.2.2) 0 := by
      rw [foldl_flags, unionOver]
      exact foldl_or_congr _ _ _ (fun l hl => by rw [hF (ctxOf s g r (some guard)) hu l hl]; rfl) _
    simp only [h1, h2, List.map_map]; rfl

theorem SetsF64.of {f : Group → Nat → Nat × Flags} {F : Ctx → Nat → Nat × Flags}
    (hshare : shareOf i = .each) (he : ∀ s, exec i s = s.vectorF64 guard (usesOf i) lat stall d F) (hd : d ∈ (usesOf i).vw) (hd1 : d + 1 ∈ (usesOf i).vw)
    (hF : ∀ c : Ctx, Settled c.g (usesOf i) → ∀ l ∈ c.issue, F c l = f c.g l) : SetsF64 i guard d f := by
  refine Completes.of (some guard)
    (fun c => { v := (c.issue.map fun l => (l, F c l)).flatMap fun r =>
                  [(r.1, d, BitVec.ofNat 32 r.2.1), (r.1, d + 1, BitVec.ofNat 32 (r.2.1 / 2 ^ 32))]
                flags := (c.issue.map fun l => (l, F c l)).foldl (fun a r => a ||| r.2.2) 0 }) lat 1 (1 + stall) true
    (fun s => by rw [hshare]; exact he s) ?_ ?_ ?_ ?_
  · intro s g r a hu x hx
    simp only [List.mem_flatMap, List.mem_map] at hx
    obtain ⟨_, ⟨l, hl, rfl⟩, hx⟩ := hx
    simp only [List.mem_cons, List.not_mem_nil, or_false] at hx
    rcases hx with rfl | rfl
    · exact ⟨Group.mem_splitOf_of_issueOf hl, hd⟩
    · exact ⟨Group.mem_splitOf_of_issueOf hl, hd1⟩
  · intro s g r a hu x hx; cases hx
  · intro s g r a hu x hx; cases hx
  · intro s g r a hu
    have h1 : (fun l => if l ∈ g.issueOf r guard then
          [(d, BitVec.ofNat 32 (f g l).1), (d + 1, BitVec.ofNat 32 ((f g l).1 / 2 ^ 32))] else [])
        = Effect.lane { v := (g.issueOf r guard).flatMap fun l =>
            [(d, BitVec.ofNat 32 (F (ctxOf s g r (some guard)) l).1),
             (d + 1, BitVec.ofNat 32 ((F (ctxOf s g r (some guard)) l).1 / 2 ^ 32))].map fun x => (l, x) } := by
      funext l
      rw [Effect.lane, filter_flatMap_lane _ (g.issueOf_nodup r guard)]
      split
      · rename_i hl; rw [hF (ctxOf s g r (some guard)) hu l hl]; rfl
      · rfl
    have h2 : unionOver (g.issueOf r guard) (fun l => (f g l).2)
        = ((g.issueOf r guard).map fun l => (l, F (ctxOf s g r (some guard)) l)).foldl (fun (a : Flags) r => a ||| r.2.2) 0 := by
      rw [foldl_flags, unionOver]
      exact foldl_or_congr _ _ _ (fun l hl => by rw [hF (ctxOf s g r (some guard)) hu l hl]; rfl) _
    simp only [h1, h2, List.flatMap_map]; rfl

theorem SetsS.of {f : Group → DWord} {F : Ctx → DWord} {n : Nat} (hshare : shareOf i = .first)
    (he : ∀ s, exec i s = s.scalar (usesOf i) stall d F n)
    (hd : d ∈ (usesOf i).sw) (hF : ∀ c : Ctx, Settled c.g (usesOf i) → F c = f c.g) : SetsS i d f := by
  intro s g r a hu
  rw [hshare] at a
  let c : Ctx := { s := s, g := g.noteRan r, r := r, issue := g.splitOf r }
  have e : exec i s = .next (c.commit { s := [(d, f g)] } 2 (1 + stall) n) := by
    rw [he, State.scalar, State.wordOf_eq a none hu]
    simp only [a.first, Bool.false_eq_true, if_false]
    rw [hF { s := s, g := g, r := r, issue := g.splitOf r } hu]
  have w := g.noteRan_wrote r
  have b := c.writeAll_wrote { s := [(d, f g)] } 2 (1 + stall) true (by simp) (by simp) (by simp) (fun x hx h0 => by
    rw [List.mem_singleton] at hx
    subst hx
    have : (g.noteRan r).spend = g.spend := by rw [w.rest]
    show ∀ p ∈ (g.noteRan r).spend, p.reg ≠ d
    rw [this]
    exact hu.spend d (by simp [hd]) h0)
  have k := (w.after b).trans (c.advanceGroup_wrote (c.writeAll { s := [(d, f g)] } 2 (1 + stall) true) n (1 + stall)
    (by rw [(w.after b).rest]; exact a.calm))
  exact ⟨_, e, Wrote.of_put a k⟩

theorem SetsP.of {f : Group → Nat → Bool} {F : Ctx → Nat → Bool} (hshare : shareOf i = .joined) (he : ∀ s, exec i s = s.predicate guard (usesOf i) stall d F)
    (hF : ∀ c : Ctx, Settled c.g (usesOf i) → ∀ l ∈ c.issue, F c l = f c.g l) : SetsP i guard d f := by
  refine Completes.of (some guard) (fun c => { p := c.issue.map fun l => (l, d, F c l) }) 0 1 (1 + stall) true
    (fun s => by rw [hshare]; exact he s) ?_ ?_ ?_ ?_
  · intro s g r a hu x hx; cases hx
  · intro s g r a hu x hx
    simp only [List.mem_map] at hx
    obtain ⟨l, hl, rfl⟩ := hx
    exact Group.mem_splitOf_of_issueOf hl
  · intro s g r a hu x hx; cases hx
  · intro s g r a hu
    have : (fun l => if l ∈ g.issueOf r guard then [(d, f g l)] else [])
        = Effect.preds { p := (g.issueOf r guard).map fun l => (l, d, F (ctxOf s g r (some guard)) l) } := by
      funext l
      rw [Effect.preds, filter_map_lane _ (g.issueOf_nodup r guard)]
      split
      · rename_i hl; rw [hF (ctxOf s g r (some guard)) hu l hl]; rfl
      · rfl
    simp only [this]; rfl

end Sys2Proof.Machine
end

