-- ==== Sys2Proof/Laws/Integer.lean ====
section
/-!
SUPPORT. What the shared shapes of the integer words do on settled operands.
-/
namespace Sys2Proof.Machine

/-- The b operand of a word, settled. -/
theorem Ctx.b32_settled {c : Ctx} {u : Uses} (h : Settled c.g u) (l b : Nat) (s : Bool) (hs : s = true → b ∈ u.sr)
    (hv : s = false → b ∈ u.vr) : c.b32 l b s = c.g.opB l b s := by
  cases s
  · simp [Ctx.b32, Group.opB, h.v rfl (by simp [hv rfl] : b ∈ u.vr ++ u.vw ++ u.names)]
  · simp [Ctx.b32, Group.opB, Ctx.sLane, h.sv rfl (by simp [hs rfl] : b ∈ u.sr ++ u.sw)]

/-- The pair of a settled word. -/
theorem Ctx.v64_settled {c : Ctx} {u : Uses} (h : Settled c.g u) (l n site : Nat) (h0 : n ∈ u.vr) (h1 : n + 1 ∈ u.vr) :
    c.v64 l n site = c.g.vr64 l n := by
  simp [Ctx.v64, Group.vr64, h.v rfl (by simp [h0] : n ∈ u.vr ++ u.vw ++ u.names), h.v rfl (by simp [h1] : n + 1 ∈ u.vr ++ u.vw ++ u.names)]

/-- The b operand of a 64-bit word, settled. -/
theorem Ctx.b64_settled {c : Ctx} {u : Uses} (h : Settled c.g u) (l b : Nat) (s : Bool) (hs : s = true → b ∈ u.sr)
    (hv : s = false → b ∈ u.vr ∧ b + 1 ∈ u.vr) : c.b64 l b s = c.g.opB64 l b s := by
  cases s
  · simp [Ctx.b64, Group.opB64, Ctx.v64_settled h l b 1 (hv rfl).1 (hv rfl).2]
  · simp [Ctx.b64, Group.opB64, Ctx.sLane, h.sv rfl (by simp [hs rfl] : b ∈ u.sr ++ u.sw)]

/-- A word of R128: F of the two operands. -/
theorem State.integer_sets (i : Instr) (o : ArgsRS) (F : Word → Word → Word) (f : Group → Nat → Word) (hshare : shareOf i = .each) (hu : usesOf i = Uses.rs o)
    (he : ∀ s, exec i s = s.integer o F) (hf : ∀ g l, F (g.vr l o.a) (g.opB l o.b o.s) = f g l) : SetsV i o.g o.d f := by
  refine SetsV.of (lat := 2) (stall := o.stall) (F := fun c l => F (c.v l o.a) (c.b32 l o.b o.s)) (fun s => by rw [he, hu, hshare]; rfl)
    (by rw [hu]; simp [Uses.rs]) ?_
  intro c h l _
  rw [hu] at h
  have hb := Ctx.b32_settled h l o.b o.s (by intro e; simp [Uses.rs, e]) (by intro e; simp [Uses.rs, e])
  have ha := h.v (c := c) rfl (n := o.a) (by simp [Uses.rs]; split <;> simp) l 0 false
  rw [hb, ha, hf]

/-- A word of R128 whose destination is a source too. -/
theorem State.integerAcc_sets (i : Instr) (o : ArgsRS) (F : Word → Word → Word → Word) (f : Group → Nat → Word)
    (hshare : shareOf i = .each) (hu : usesOf i = Uses.rsAcc o) (he : ∀ s, exec i s = s.integerAcc o F)
    (hf : ∀ g l, F (g.vr l o.a) (g.opB l o.b o.s) (g.vr l o.d) = f g l) : SetsV i o.g o.d f := by
  refine SetsV.of (lat := 2) (stall := o.stall) (F := fun c l => F (c.v l o.a) (c.b32 l o.b o.s) (c.v l o.d 2))
    (fun s => by rw [he, hu, hshare]; rfl) (by rw [hu]; simp [Uses.rs, Uses.rsAcc]) ?_
  intro c h l _
  rw [hu] at h
  have hb := Ctx.b32_settled h l o.b o.s (by intro e; simp [Uses.rs, Uses.rsAcc, e]) (by intro e; simp [Uses.rs, Uses.rsAcc, e])
  have ha := h.v (c := c) rfl (n := o.a) (by simp [Uses.rs, Uses.rsAcc]; split <;> simp) l 0 false
  have hd := h.v (c := c) rfl (n := o.d) (by simp [Uses.rs, Uses.rsAcc]) l 2 false
  rw [hb, ha, hd, hf]

/-- A word of one v source. -/
theorem State.bitCount_sets (i : Instr) (o : ArgsR2) (F : Word → Word) (f : Group → Nat → Word) (hshare : shareOf i = .each) (hu : usesOf i = Uses.r2 o)
    (he : ∀ s, exec i s = s.bitCount o F) (hf : ∀ g l, F (g.vr l o.a) = f g l) : SetsV i o.g o.d f := by
  refine SetsV.of (lat := 2) (stall := o.stall) (F := fun c l => F (c.v l o.a)) (fun s => by rw [he, hu, hshare]; rfl)
    (by rw [hu]; simp [Uses.r2]) ?_
  intro c h l _
  rw [hu] at h
  rw [h.v (c := c) rfl (n := o.a) (by simp [Uses.r2]) l 0 false, hf]

/-- A scalar word of R140: F of the two s registers. -/
theorem State.scalar3_sets (i : Instr) (o : ArgsS3) (F : DWord → DWord → DWord) (f : Group → DWord) (hshare : shareOf i = .first) (hu : usesOf i = Uses.sss o.d o.a o.b)
    (he : ∀ s, exec i s = s.scalar3 o F) (hf : ∀ g, F (g.getS o.a) (g.getS o.b) = f g) : SetsS i o.d f := by
  refine SetsS.of (stall := o.stall) (n := 1) (F := fun c => F (c.s1 o.a) (c.s1 o.b 1)) hshare (fun s => by rw [he, hu]; rfl)
    (by rw [hu]; simp [Uses.sss]) ?_
  intro c h
  rw [hu] at h
  simp only [Ctx.s1]
  rw [h.sv (c := c) rfl (n := o.a) (by simp [Uses.sss]), h.sv (c := c) rfl (n := o.b) (by simp [Uses.sss]), hf]

/-- Sat as the nearest value of the range (R95). -/
theorem satInt_eq_clampInt (lo hi x : Int) (h : lo ≤ hi) : satInt lo hi x = clampInt lo hi x := by
  unfold satInt clampInt; split
  · omega
  · split <;> omega

end Sys2Proof.Machine
end

