-- ==== Sys2Proof/Laws/State.lean ====
section
/-!
SUPPORT. What each named update of the state leaves alone, one lemma a field.
-/
namespace Sys2Proof.Machine

@[simp] theorem State.modGroup_tick (s : State) (gid : Nat) (f : Group → Group) : (s.modGroup gid f).tick = s.tick := rfl
@[simp] theorem State.modGroup_serial (s : State) (gid : Nat) (f : Group → Group) : (s.modGroup gid f).serial = s.serial := rfl
@[simp] theorem State.modGroup_agenda (s : State) (gid : Nat) (f : Group → Group) : (s.modGroup gid f).agenda = s.agenda := rfl
@[simp] theorem State.modGroup_focus (s : State) (gid : Nat) (f : Group → Group) : (s.modGroup gid f).focus = s.focus := rfl
@[simp] theorem State.modGroup_fresh (s : State) (gid : Nat) (f : Group → Group) : (s.modGroup gid f).fresh = s.fresh := rfl
@[simp] theorem State.modGroup_dispatchDue (s : State) (gid : Nat) (f : Group → Group) : (s.modGroup gid f).dispatchDue = s.dispatchDue := rfl
@[simp] theorem State.modGroup_teams (s : State) (gid : Nat) (f : Group → Group) : (s.modGroup gid f).teams = s.teams := rfl
@[simp] theorem State.modGroup_launches (s : State) (gid : Nat) (f : Group → Group) : (s.modGroup gid f).launches = s.launches := rfl
@[simp] theorem State.modGroup_ctxs (s : State) (gid : Nat) (f : Group → Group) : (s.modGroup gid f).ctxs = s.ctxs := rfl
@[simp] theorem State.modGroup_parts (s : State) (gid : Nat) (f : Group → Group) : (s.modGroup gid f).parts = s.parts := rfl
@[simp] theorem State.modGroup_queues (s : State) (gid : Nat) (f : Group → Group) : (s.modGroup gid f).queues = s.queues := rfl
@[simp] theorem State.modGroup_cores (s : State) (gid : Nat) (f : Group → Group) : (s.modGroup gid f).cores = s.cores := rfl
@[simp] theorem State.modGroup_vacations (s : State) (gid : Nat) (f : Group → Group) : (s.modGroup gid f).vacations = s.vacations := rfl
@[simp] theorem State.modGroup_image (s : State) (gid : Nat) (f : Group → Group) : (s.modGroup gid f).image = s.image := rfl
@[simp] theorem State.modGroup_pending (s : State) (gid : Nat) (f : Group → Group) : (s.modGroup gid f).pending = s.pending := rfl
@[simp] theorem State.modGroup_wcb (s : State) (gid : Nat) (f : Group → Group) : (s.modGroup gid f).wcb = s.wcb := rfl
@[simp] theorem State.modGroup_l1 (s : State) (gid : Nat) (f : Group → Group) : (s.modGroup gid f).l1 = s.l1 := rfl
@[simp] theorem State.modGroup_tlb (s : State) (gid : Nat) (f : Group → Group) : (s.modGroup gid f).tlb = s.tlb := rfl
@[simp] theorem State.modGroup_marks (s : State) (gid : Nat) (f : Group → Group) : (s.modGroup gid f).marks = s.marks := rfl
@[simp] theorem State.modGroup_holders (s : State) (gid : Nat) (f : Group → Group) : (s.modGroup gid f).holders = s.holders := rfl
@[simp] theorem State.modGroup_pubs (s : State) (gid : Nat) (f : Group → Group) : (s.modGroup gid f).pubs = s.pubs := rfl
@[simp] theorem State.modGroup_texts (s : State) (gid : Nat) (f : Group → Group) : (s.modGroup gid f).texts = s.texts := rfl
@[simp] theorem State.modGroup_lost (s : State) (gid : Nat) (f : Group → Group) : (s.modGroup gid f).lost = s.lost := rfl
@[simp] theorem State.modGroup_hostMem (s : State) (gid : Nat) (f : Group → Group) : (s.modGroup gid f).hostMem = s.hostMem := rfl
@[simp] theorem State.modGroup_extents (s : State) (gid : Nat) (f : Group → Group) : (s.modGroup gid f).extents = s.extents := rfl
@[simp] theorem State.modGroup_segments (s : State) (gid : Nat) (f : Group → Group) : (s.modGroup gid f).segments = s.segments := rfl
@[simp] theorem State.modGroup_seals (s : State) (gid : Nat) (f : Group → Group) : (s.modGroup gid f).seals = s.seals := rfl
@[simp] theorem State.modGroup_dirty (s : State) (gid : Nat) (f : Group → Group) : (s.modGroup gid f).dirty = s.dirty := rfl
@[simp] theorem State.modGroup_peers (s : State) (gid : Nat) (f : Group → Group) : (s.modGroup gid f).peers = s.peers := rfl
@[simp] theorem State.modGroup_ships (s : State) (gid : Nat) (f : Group → Group) : (s.modGroup gid f).ships = s.ships := rfl
@[simp] theorem State.modGroup_ops (s : State) (gid : Nat) (f : Group → Group) : (s.modGroup gid f).ops = s.ops := rfl
@[simp] theorem State.modGroup_monitors (s : State) (gid : Nat) (f : Group → Group) : (s.modGroup gid f).monitors = s.monitors := rfl
@[simp] theorem State.modGroup_shoots (s : State) (gid : Nat) (f : Group → Group) : (s.modGroup gid f).shoots = s.shoots := rfl
@[simp] theorem State.modGroup_calls (s : State) (gid : Nat) (f : Group → Group) : (s.modGroup gid f).calls = s.calls := rfl
@[simp] theorem State.modGroup_dmus (s : State) (gid : Nat) (f : Group → Group) : (s.modGroup gid f).dmus = s.dmus := rfl
@[simp] theorem State.modGroup_sent (s : State) (gid : Nat) (f : Group → Group) : (s.modGroup gid f).sent = s.sent := rfl
@[simp] theorem State.modGroup_flows (s : State) (gid : Nat) (f : Group → Group) : (s.modGroup gid f).flows = s.flows := rfl
@[simp] theorem State.modGroup_awaiting (s : State) (gid : Nat) (f : Group → Group) : (s.modGroup gid f).awaiting = s.awaiting := rfl
@[simp] theorem State.modGroup_linkErrors (s : State) (gid : Nat) (f : Group → Group) : (s.modGroup gid f).linkErrors = s.linkErrors := rfl
@[simp] theorem State.modGroup_dueIn (s : State) (gid : Nat) (f : Group → Group) : (s.modGroup gid f).dueIn = s.dueIn := rfl
@[simp] theorem State.modGroup_roots (s : State) (gid : Nat) (f : Group → Group) : (s.modGroup gid f).roots = s.roots := rfl
@[simp] theorem State.modGroup_leaves (s : State) (gid : Nat) (f : Group → Group) : (s.modGroup gid f).leaves = s.leaves := rfl
@[simp] theorem State.modGroup_preds (s : State) (gid : Nat) (f : Group → Group) : (s.modGroup gid f).preds = s.preds := rfl
@[simp] theorem State.modGroup_l2 (s : State) (gid : Nat) (f : Group → Group) : (s.modGroup gid f).l2 = s.l2 := rfl
@[simp] theorem State.modGroup_ilc (s : State) (gid : Nat) (f : Group → Group) : (s.modGroup gid f).ilc = s.ilc := rfl
@[simp] theorem State.modGroup_seqs (s : State) (gid : Nat) (f : Group → Group) : (s.modGroup gid f).seqs = s.seqs := rfl
@[simp] theorem State.modGroup_control (s : State) (gid : Nat) (f : Group → Group) : (s.modGroup gid f).control = s.control := rfl
@[simp] theorem State.modGroup_demands (s : State) (gid : Nat) (f : Group → Group) : (s.modGroup gid f).demands = s.demands := rfl
@[simp] theorem State.modGroup_sendq (s : State) (gid : Nat) (f : Group → Group) : (s.modGroup gid f).sendq = s.sendq := rfl
@[simp] theorem State.modGroup_recvq (s : State) (gid : Nat) (f : Group → Group) : (s.modGroup gid f).recvq = s.recvq := rfl
@[simp] theorem State.modGroup_messages (s : State) (gid : Nat) (f : Group → Group) : (s.modGroup gid f).messages = s.messages := rfl
@[simp] theorem State.modGroup_boot (s : State) (gid : Nat) (f : Group → Group) : (s.modGroup gid f).boot = s.boot := rfl
@[simp] theorem State.modGroup_conf (s : State) (gid : Nat) (f : Group → Group) : (s.modGroup gid f).conf = s.conf := rfl
@[simp] theorem State.modGroup_q0ring (s : State) (gid : Nat) (f : Group → Group) : (s.modGroup gid f).q0ring = s.q0ring := rfl
@[simp] theorem State.modGroup_powerCap (s : State) (gid : Nat) (f : Group → Group) : (s.modGroup gid f).powerCap = s.powerCap := rfl
@[simp] theorem State.modGroup_spdm (s : State) (gid : Nat) (f : Group → Group) : (s.modGroup gid f).spdm = s.spdm := rfl
@[simp] theorem State.modGroup_irqs (s : State) (gid : Nat) (f : Group → Group) : (s.modGroup gid f).irqs = s.irqs := rfl
@[simp] theorem State.modGroup_pins (s : State) (gid : Nat) (f : Group → Group) : (s.modGroup gid f).pins = s.pins := rfl
@[simp] theorem State.modGroup_refusals (s : State) (gid : Nat) (f : Group → Group) : (s.modGroup gid f).refusals = s.refusals := rfl
@[simp] theorem State.modGroup_fuses (s : State) (gid : Nat) (f : Group → Group) : (s.modGroup gid f).fuses = s.fuses := rfl
@[simp] theorem State.modGroup_firmware (s : State) (gid : Nat) (f : Group → Group) : (s.modGroup gid f).firmware = s.firmware := rfl
@[simp] theorem State.modGroup_throttle (s : State) (gid : Nat) (f : Group → Group) : (s.modGroup gid f).throttle = s.throttle := rfl
@[simp] theorem State.modGroup_throttleSince (s : State) (gid : Nat) (f : Group → Group) : (s.modGroup gid f).throttleSince = s.throttleSince := rfl

@[simp] theorem State.putGroup_tick (s : State) (g : Group) : (s.putGroup g).tick = s.tick := rfl
@[simp] theorem State.putGroup_serial (s : State) (g : Group) : (s.putGroup g).serial = s.serial := rfl
@[simp] theorem State.putGroup_agenda (s : State) (g : Group) : (s.putGroup g).agenda = s.agenda := rfl
@[simp] theorem State.putGroup_focus (s : State) (g : Group) : (s.putGroup g).focus = s.focus := rfl
@[simp] theorem State.putGroup_fresh (s : State) (g : Group) : (s.putGroup g).fresh = s.fresh := rfl
@[simp] theorem State.putGroup_dispatchDue (s : State) (g : Group) : (s.putGroup g).dispatchDue = s.dispatchDue := rfl
@[simp] theorem State.putGroup_teams (s : State) (g : Group) : (s.putGroup g).teams = s.teams := rfl
@[simp] theorem State.putGroup_launches (s : State) (g : Group) : (s.putGroup g).launches = s.launches := rfl
@[simp] theorem State.putGroup_ctxs (s : State) (g : Group) : (s.putGroup g).ctxs = s.ctxs := rfl
@[simp] theorem State.putGroup_parts (s : State) (g : Group) : (s.putGroup g).parts = s.parts := rfl
@[simp] theorem State.putGroup_queues (s : State) (g : Group) : (s.putGroup g).queues = s.queues := rfl
@[simp] theorem State.putGroup_cores (s : State) (g : Group) : (s.putGroup g).cores = s.cores := rfl
@[simp] theorem State.putGroup_vacations (s : State) (g : Group) : (s.putGroup g).vacations = s.vacations := rfl
@[simp] theorem State.putGroup_image (s : State) (g : Group) : (s.putGroup g).image = s.image := rfl
@[simp] theorem State.putGroup_pending (s : State) (g : Group) : (s.putGroup g).pending = s.pending := rfl
@[simp] theorem State.putGroup_wcb (s : State) (g : Group) : (s.putGroup g).wcb = s.wcb := rfl
@[simp] theorem State.putGroup_l1 (s : State) (g : Group) : (s.putGroup g).l1 = s.l1 := rfl
@[simp] theorem State.putGroup_tlb (s : State) (g : Group) : (s.putGroup g).tlb = s.tlb := rfl
@[simp] theorem State.putGroup_marks (s : State) (g : Group) : (s.putGroup g).marks = s.marks := rfl
@[simp] theorem State.putGroup_holders (s : State) (g : Group) : (s.putGroup g).holders = s.holders := rfl
@[simp] theorem State.putGroup_pubs (s : State) (g : Group) : (s.putGroup g).pubs = s.pubs := rfl
@[simp] theorem State.putGroup_texts (s : State) (g : Group) : (s.putGroup g).texts = s.texts := rfl
@[simp] theorem State.putGroup_lost (s : State) (g : Group) : (s.putGroup g).lost = s.lost := rfl
@[simp] theorem State.putGroup_hostMem (s : State) (g : Group) : (s.putGroup g).hostMem = s.hostMem := rfl
@[simp] theorem State.putGroup_extents (s : State) (g : Group) : (s.putGroup g).extents = s.extents := rfl
@[simp] theorem State.putGroup_segments (s : State) (g : Group) : (s.putGroup g).segments = s.segments := rfl
@[simp] theorem State.putGroup_seals (s : State) (g : Group) : (s.putGroup g).seals = s.seals := rfl
@[simp] theorem State.putGroup_dirty (s : State) (g : Group) : (s.putGroup g).dirty = s.dirty := rfl
@[simp] theorem State.putGroup_peers (s : State) (g : Group) : (s.putGroup g).peers = s.peers := rfl
@[simp] theorem State.putGroup_ships (s : State) (g : Group) : (s.putGroup g).ships = s.ships := rfl
@[simp] theorem State.putGroup_ops (s : State) (g : Group) : (s.putGroup g).ops = s.ops := rfl
@[simp] theorem State.putGroup_monitors (s : State) (g : Group) : (s.putGroup g).monitors = s.monitors := rfl
@[simp] theorem State.putGroup_shoots (s : State) (g : Group) : (s.putGroup g).shoots = s.shoots := rfl
@[simp] theorem State.putGroup_calls (s : State) (g : Group) : (s.putGroup g).calls = s.calls := rfl
@[simp] theorem State.putGroup_dmus (s : State) (g : Group) : (s.putGroup g).dmus = s.dmus := rfl
@[simp] theorem State.putGroup_sent (s : State) (g : Group) : (s.putGroup g).sent = s.sent := rfl
@[simp] theorem State.putGroup_flows (s : State) (g : Group) : (s.putGroup g).flows = s.flows := rfl
@[simp] theorem State.putGroup_awaiting (s : State) (g : Group) : (s.putGroup g).awaiting = s.awaiting := rfl
@[simp] theorem State.putGroup_linkErrors (s : State) (g : Group) : (s.putGroup g).linkErrors = s.linkErrors := rfl
@[simp] theorem State.putGroup_dueIn (s : State) (g : Group) : (s.putGroup g).dueIn = s.dueIn := rfl
@[simp] theorem State.putGroup_roots (s : State) (g : Group) : (s.putGroup g).roots = s.roots := rfl
@[simp] theorem State.putGroup_leaves (s : State) (g : Group) : (s.putGroup g).leaves = s.leaves := rfl
@[simp] theorem State.putGroup_preds (s : State) (g : Group) : (s.putGroup g).preds = s.preds := rfl
@[simp] theorem State.putGroup_l2 (s : State) (g : Group) : (s.putGroup g).l2 = s.l2 := rfl
@[simp] theorem State.putGroup_ilc (s : State) (g : Group) : (s.putGroup g).ilc = s.ilc := rfl
@[simp] theorem State.putGroup_seqs (s : State) (g : Group) : (s.putGroup g).seqs = s.seqs := rfl
@[simp] theorem State.putGroup_control (s : State) (g : Group) : (s.putGroup g).control = s.control := rfl
@[simp] theorem State.putGroup_demands (s : State) (g : Group) : (s.putGroup g).demands = s.demands := rfl
@[simp] theorem State.putGroup_sendq (s : State) (g : Group) : (s.putGroup g).sendq = s.sendq := rfl
@[simp] theorem State.putGroup_recvq (s : State) (g : Group) : (s.putGroup g).recvq = s.recvq := rfl
@[simp] theorem State.putGroup_messages (s : State) (g : Group) : (s.putGroup g).messages = s.messages := rfl
@[simp] theorem State.putGroup_boot (s : State) (g : Group) : (s.putGroup g).boot = s.boot := rfl
@[simp] theorem State.putGroup_conf (s : State) (g : Group) : (s.putGroup g).conf = s.conf := rfl
@[simp] theorem State.putGroup_q0ring (s : State) (g : Group) : (s.putGroup g).q0ring = s.q0ring := rfl
@[simp] theorem State.putGroup_powerCap (s : State) (g : Group) : (s.putGroup g).powerCap = s.powerCap := rfl
@[simp] theorem State.putGroup_spdm (s : State) (g : Group) : (s.putGroup g).spdm = s.spdm := rfl
@[simp] theorem State.putGroup_irqs (s : State) (g : Group) : (s.putGroup g).irqs = s.irqs := rfl
@[simp] theorem State.putGroup_pins (s : State) (g : Group) : (s.putGroup g).pins = s.pins := rfl
@[simp] theorem State.putGroup_refusals (s : State) (g : Group) : (s.putGroup g).refusals = s.refusals := rfl
@[simp] theorem State.putGroup_fuses (s : State) (g : Group) : (s.putGroup g).fuses = s.fuses := rfl
@[simp] theorem State.putGroup_firmware (s : State) (g : Group) : (s.putGroup g).firmware = s.firmware := rfl
@[simp] theorem State.putGroup_throttle (s : State) (g : Group) : (s.putGroup g).throttle = s.throttle := rfl
@[simp] theorem State.putGroup_throttleSince (s : State) (g : Group) : (s.putGroup g).throttleSince = s.throttleSince := rfl

@[simp] theorem State.modTeam_tick (s : State) (tid : Nat) (f : Team → Team) : (s.modTeam tid f).tick = s.tick := rfl
@[simp] theorem State.modTeam_serial (s : State) (tid : Nat) (f : Team → Team) : (s.modTeam tid f).serial = s.serial := rfl
@[simp] theorem State.modTeam_agenda (s : State) (tid : Nat) (f : Team → Team) : (s.modTeam tid f).agenda = s.agenda := rfl
@[simp] theorem State.modTeam_focus (s : State) (tid : Nat) (f : Team → Team) : (s.modTeam tid f).focus = s.focus := rfl
@[simp] theorem State.modTeam_fresh (s : State) (tid : Nat) (f : Team → Team) : (s.modTeam tid f).fresh = s.fresh := rfl
@[simp] theorem State.modTeam_dispatchDue (s : State) (tid : Nat) (f : Team → Team) : (s.modTeam tid f).dispatchDue = s.dispatchDue := rfl
@[simp] theorem State.modTeam_groups (s : State) (tid : Nat) (f : Team → Team) : (s.modTeam tid f).groups = s.groups := rfl
@[simp] theorem State.modTeam_launches (s : State) (tid : Nat) (f : Team → Team) : (s.modTeam tid f).launches = s.launches := rfl
@[simp] theorem State.modTeam_ctxs (s : State) (tid : Nat) (f : Team → Team) : (s.modTeam tid f).ctxs = s.ctxs := rfl
@[simp] theorem State.modTeam_parts (s : State) (tid : Nat) (f : Team → Team) : (s.modTeam tid f).parts = s.parts := rfl
@[simp] theorem State.modTeam_queues (s : State) (tid : Nat) (f : Team → Team) : (s.modTeam tid f).queues = s.queues := rfl
@[simp] theorem State.modTeam_cores (s : State) (tid : Nat) (f : Team → Team) : (s.modTeam tid f).cores = s.cores := rfl
@[simp] theorem State.modTeam_vacations (s : State) (tid : Nat) (f : Team → Team) : (s.modTeam tid f).vacations = s.vacations := rfl
@[simp] theorem State.modTeam_image (s : State) (tid : Nat) (f : Team → Team) : (s.modTeam tid f).image = s.image := rfl
@[simp] theorem State.modTeam_pending (s : State) (tid : Nat) (f : Team → Team) : (s.modTeam tid f).pending = s.pending := rfl
@[simp] theorem State.modTeam_wcb (s : State) (tid : Nat) (f : Team → Team) : (s.modTeam tid f).wcb = s.wcb := rfl
@[simp] theorem State.modTeam_l1 (s : State) (tid : Nat) (f : Team → Team) : (s.modTeam tid f).l1 = s.l1 := rfl
@[simp] theorem State.modTeam_tlb (s : State) (tid : Nat) (f : Team → Team) : (s.modTeam tid f).tlb = s.tlb := rfl
@[simp] theorem State.modTeam_marks (s : State) (tid : Nat) (f : Team → Team) : (s.modTeam tid f).marks = s.marks := rfl
@[simp] theorem State.modTeam_holders (s : State) (tid : Nat) (f : Team → Team) : (s.modTeam tid f).holders = s.holders := rfl
@[simp] theorem State.modTeam_pubs (s : State) (tid : Nat) (f : Team → Team) : (s.modTeam tid f).pubs = s.pubs := rfl
@[simp] theorem State.modTeam_texts (s : State) (tid : Nat) (f : Team → Team) : (s.modTeam tid f).texts = s.texts := rfl
@[simp] theorem State.modTeam_lost (s : State) (tid : Nat) (f : Team → Team) : (s.modTeam tid f).lost = s.lost := rfl
@[simp] theorem State.modTeam_hostMem (s : State) (tid : Nat) (f : Team → Team) : (s.modTeam tid f).hostMem = s.hostMem := rfl
@[simp] theorem State.modTeam_extents (s : State) (tid : Nat) (f : Team → Team) : (s.modTeam tid f).extents = s.extents := rfl
@[simp] theorem State.modTeam_segments (s : State) (tid : Nat) (f : Team → Team) : (s.modTeam tid f).segments = s.segments := rfl
@[simp] theorem State.modTeam_seals (s : State) (tid : Nat) (f : Team → Team) : (s.modTeam tid f).seals = s.seals := rfl
@[simp] theorem State.modTeam_dirty (s : State) (tid : Nat) (f : Team → Team) : (s.modTeam tid f).dirty = s.dirty := rfl
@[simp] theorem State.modTeam_peers (s : State) (tid : Nat) (f : Team → Team) : (s.modTeam tid f).peers = s.peers := rfl
@[simp] theorem State.modTeam_ships (s : State) (tid : Nat) (f : Team → Team) : (s.modTeam tid f).ships = s.ships := rfl
@[simp] theorem State.modTeam_ops (s : State) (tid : Nat) (f : Team → Team) : (s.modTeam tid f).ops = s.ops := rfl
@[simp] theorem State.modTeam_monitors (s : State) (tid : Nat) (f : Team → Team) : (s.modTeam tid f).monitors = s.monitors := rfl
@[simp] theorem State.modTeam_shoots (s : State) (tid : Nat) (f : Team → Team) : (s.modTeam tid f).shoots = s.shoots := rfl
@[simp] theorem State.modTeam_calls (s : State) (tid : Nat) (f : Team → Team) : (s.modTeam tid f).calls = s.calls := rfl
@[simp] theorem State.modTeam_dmus (s : State) (tid : Nat) (f : Team → Team) : (s.modTeam tid f).dmus = s.dmus := rfl
@[simp] theorem State.modTeam_sent (s : State) (tid : Nat) (f : Team → Team) : (s.modTeam tid f).sent = s.sent := rfl
@[simp] theorem State.modTeam_flows (s : State) (tid : Nat) (f : Team → Team) : (s.modTeam tid f).flows = s.flows := rfl
@[simp] theorem State.modTeam_awaiting (s : State) (tid : Nat) (f : Team → Team) : (s.modTeam tid f).awaiting = s.awaiting := rfl
@[simp] theorem State.modTeam_linkErrors (s : State) (tid : Nat) (f : Team → Team) : (s.modTeam tid f).linkErrors = s.linkErrors := rfl
@[simp] theorem State.modTeam_dueIn (s : State) (tid : Nat) (f : Team → Team) : (s.modTeam tid f).dueIn = s.dueIn := rfl
@[simp] theorem State.modTeam_roots (s : State) (tid : Nat) (f : Team → Team) : (s.modTeam tid f).roots = s.roots := rfl
@[simp] theorem State.modTeam_leaves (s : State) (tid : Nat) (f : Team → Team) : (s.modTeam tid f).leaves = s.leaves := rfl
@[simp] theorem State.modTeam_preds (s : State) (tid : Nat) (f : Team → Team) : (s.modTeam tid f).preds = s.preds := rfl
@[simp] theorem State.modTeam_l2 (s : State) (tid : Nat) (f : Team → Team) : (s.modTeam tid f).l2 = s.l2 := rfl
@[simp] theorem State.modTeam_ilc (s : State) (tid : Nat) (f : Team → Team) : (s.modTeam tid f).ilc = s.ilc := rfl
@[simp] theorem State.modTeam_seqs (s : State) (tid : Nat) (f : Team → Team) : (s.modTeam tid f).seqs = s.seqs := rfl
@[simp] theorem State.modTeam_control (s : State) (tid : Nat) (f : Team → Team) : (s.modTeam tid f).control = s.control := rfl
@[simp] theorem State.modTeam_demands (s : State) (tid : Nat) (f : Team → Team) : (s.modTeam tid f).demands = s.demands := rfl
@[simp] theorem State.modTeam_sendq (s : State) (tid : Nat) (f : Team → Team) : (s.modTeam tid f).sendq = s.sendq := rfl
@[simp] theorem State.modTeam_recvq (s : State) (tid : Nat) (f : Team → Team) : (s.modTeam tid f).recvq = s.recvq := rfl
@[simp] theorem State.modTeam_messages (s : State) (tid : Nat) (f : Team → Team) : (s.modTeam tid f).messages = s.messages := rfl
@[simp] theorem State.modTeam_boot (s : State) (tid : Nat) (f : Team → Team) : (s.modTeam tid f).boot = s.boot := rfl
@[simp] theorem State.modTeam_conf (s : State) (tid : Nat) (f : Team → Team) : (s.modTeam tid f).conf = s.conf := rfl
@[simp] theorem State.modTeam_q0ring (s : State) (tid : Nat) (f : Team → Team) : (s.modTeam tid f).q0ring = s.q0ring := rfl
@[simp] theorem State.modTeam_powerCap (s : State) (tid : Nat) (f : Team → Team) : (s.modTeam tid f).powerCap = s.powerCap := rfl
@[simp] theorem State.modTeam_spdm (s : State) (tid : Nat) (f : Team → Team) : (s.modTeam tid f).spdm = s.spdm := rfl
@[simp] theorem State.modTeam_irqs (s : State) (tid : Nat) (f : Team → Team) : (s.modTeam tid f).irqs = s.irqs := rfl
@[simp] theorem State.modTeam_pins (s : State) (tid : Nat) (f : Team → Team) : (s.modTeam tid f).pins = s.pins := rfl
@[simp] theorem State.modTeam_refusals (s : State) (tid : Nat) (f : Team → Team) : (s.modTeam tid f).refusals = s.refusals := rfl
@[simp] theorem State.modTeam_fuses (s : State) (tid : Nat) (f : Team → Team) : (s.modTeam tid f).fuses = s.fuses := rfl
@[simp] theorem State.modTeam_firmware (s : State) (tid : Nat) (f : Team → Team) : (s.modTeam tid f).firmware = s.firmware := rfl
@[simp] theorem State.modTeam_throttle (s : State) (tid : Nat) (f : Team → Team) : (s.modTeam tid f).throttle = s.throttle := rfl
@[simp] theorem State.modTeam_throttleSince (s : State) (tid : Nat) (f : Team → Team) : (s.modTeam tid f).throttleSince = s.throttleSince := rfl

@[simp] theorem State.modLaunch_tick (s : State) (lid : Nat) (f : Launch → Launch) : (s.modLaunch lid f).tick = s.tick := rfl
@[simp] theorem State.modLaunch_serial (s : State) (lid : Nat) (f : Launch → Launch) : (s.modLaunch lid f).serial = s.serial := rfl
@[simp] theorem State.modLaunch_agenda (s : State) (lid : Nat) (f : Launch → Launch) : (s.modLaunch lid f).agenda = s.agenda := rfl
@[simp] theorem State.modLaunch_focus (s : State) (lid : Nat) (f : Launch → Launch) : (s.modLaunch lid f).focus = s.focus := rfl
@[simp] theorem State.modLaunch_fresh (s : State) (lid : Nat) (f : Launch → Launch) : (s.modLaunch lid f).fresh = s.fresh := rfl
@[simp] theorem State.modLaunch_dispatchDue (s : State) (lid : Nat) (f : Launch → Launch) : (s.modLaunch lid f).dispatchDue = s.dispatchDue := rfl
@[simp] theorem State.modLaunch_groups (s : State) (lid : Nat) (f : Launch → Launch) : (s.modLaunch lid f).groups = s.groups := rfl
@[simp] theorem State.modLaunch_teams (s : State) (lid : Nat) (f : Launch → Launch) : (s.modLaunch lid f).teams = s.teams := rfl
@[simp] theorem State.modLaunch_ctxs (s : State) (lid : Nat) (f : Launch → Launch) : (s.modLaunch lid f).ctxs = s.ctxs := rfl
@[simp] theorem State.modLaunch_parts (s : State) (lid : Nat) (f : Launch → Launch) : (s.modLaunch lid f).parts = s.parts := rfl
@[simp] theorem State.modLaunch_queues (s : State) (lid : Nat) (f : Launch → Launch) : (s.modLaunch lid f).queues = s.queues := rfl
@[simp] theorem State.modLaunch_cores (s : State) (lid : Nat) (f : Launch → Launch) : (s.modLaunch lid f).cores = s.cores := rfl
@[simp] theorem State.modLaunch_vacations (s : State) (lid : Nat) (f : Launch → Launch) : (s.modLaunch lid f).vacations = s.vacations := rfl
@[simp] theorem State.modLaunch_image (s : State) (lid : Nat) (f : Launch → Launch) : (s.modLaunch lid f).image = s.image := rfl
@[simp] theorem State.modLaunch_pending (s : State) (lid : Nat) (f : Launch → Launch) : (s.modLaunch lid f).pending = s.pending := rfl
@[simp] theorem State.modLaunch_wcb (s : State) (lid : Nat) (f : Launch → Launch) : (s.modLaunch lid f).wcb = s.wcb := rfl
@[simp] theorem State.modLaunch_l1 (s : State) (lid : Nat) (f : Launch → Launch) : (s.modLaunch lid f).l1 = s.l1 := rfl
@[simp] theorem State.modLaunch_tlb (s : State) (lid : Nat) (f : Launch → Launch) : (s.modLaunch lid f).tlb = s.tlb := rfl
@[simp] theorem State.modLaunch_marks (s : State) (lid : Nat) (f : Launch → Launch) : (s.modLaunch lid f).marks = s.marks := rfl
@[simp] theorem State.modLaunch_holders (s : State) (lid : Nat) (f : Launch → Launch) : (s.modLaunch lid f).holders = s.holders := rfl
@[simp] theorem State.modLaunch_pubs (s : State) (lid : Nat) (f : Launch → Launch) : (s.modLaunch lid f).pubs = s.pubs := rfl
@[simp] theorem State.modLaunch_texts (s : State) (lid : Nat) (f : Launch → Launch) : (s.modLaunch lid f).texts = s.texts := rfl
@[simp] theorem State.modLaunch_lost (s : State) (lid : Nat) (f : Launch → Launch) : (s.modLaunch lid f).lost = s.lost := rfl
@[simp] theorem State.modLaunch_hostMem (s : State) (lid : Nat) (f : Launch → Launch) : (s.modLaunch lid f).hostMem = s.hostMem := rfl
@[simp] theorem State.modLaunch_extents (s : State) (lid : Nat) (f : Launch → Launch) : (s.modLaunch lid f).extents = s.extents := rfl
@[simp] theorem State.modLaunch_segments (s : State) (lid : Nat) (f : Launch → Launch) : (s.modLaunch lid f).segments = s.segments := rfl
@[simp] theorem State.modLaunch_seals (s : State) (lid : Nat) (f : Launch → Launch) : (s.modLaunch lid f).seals = s.seals := rfl
@[simp] theorem State.modLaunch_dirty (s : State) (lid : Nat) (f : Launch → Launch) : (s.modLaunch lid f).dirty = s.dirty := rfl
@[simp] theorem State.modLaunch_peers (s : State) (lid : Nat) (f : Launch → Launch) : (s.modLaunch lid f).peers = s.peers := rfl
@[simp] theorem State.modLaunch_ships (s : State) (lid : Nat) (f : Launch → Launch) : (s.modLaunch lid f).ships = s.ships := rfl
@[simp] theorem State.modLaunch_ops (s : State) (lid : Nat) (f : Launch → Launch) : (s.modLaunch lid f).ops = s.ops := rfl
@[simp] theorem State.modLaunch_monitors (s : State) (lid : Nat) (f : Launch → Launch) : (s.modLaunch lid f).monitors = s.monitors := rfl
@[simp] theorem State.modLaunch_shoots (s : State) (lid : Nat) (f : Launch → Launch) : (s.modLaunch lid f).shoots = s.shoots := rfl
@[simp] theorem State.modLaunch_calls (s : State) (lid : Nat) (f : Launch → Launch) : (s.modLaunch lid f).calls = s.calls := rfl
@[simp] theorem State.modLaunch_dmus (s : State) (lid : Nat) (f : Launch → Launch) : (s.modLaunch lid f).dmus = s.dmus := rfl
@[simp] theorem State.modLaunch_sent (s : State) (lid : Nat) (f : Launch → Launch) : (s.modLaunch lid f).sent = s.sent := rfl
@[simp] theorem State.modLaunch_flows (s : State) (lid : Nat) (f : Launch → Launch) : (s.modLaunch lid f).flows = s.flows := rfl
@[simp] theorem State.modLaunch_awaiting (s : State) (lid : Nat) (f : Launch → Launch) : (s.modLaunch lid f).awaiting = s.awaiting := rfl
@[simp] theorem State.modLaunch_linkErrors (s : State) (lid : Nat) (f : Launch → Launch) : (s.modLaunch lid f).linkErrors = s.linkErrors := rfl
@[simp] theorem State.modLaunch_dueIn (s : State) (lid : Nat) (f : Launch → Launch) : (s.modLaunch lid f).dueIn = s.dueIn := rfl
@[simp] theorem State.modLaunch_roots (s : State) (lid : Nat) (f : Launch → Launch) : (s.modLaunch lid f).roots = s.roots := rfl
@[simp] theorem State.modLaunch_leaves (s : State) (lid : Nat) (f : Launch → Launch) : (s.modLaunch lid f).leaves = s.leaves := rfl
@[simp] theorem State.modLaunch_preds (s : State) (lid : Nat) (f : Launch → Launch) : (s.modLaunch lid f).preds = s.preds := rfl
@[simp] theorem State.modLaunch_l2 (s : State) (lid : Nat) (f : Launch → Launch) : (s.modLaunch lid f).l2 = s.l2 := rfl
@[simp] theorem State.modLaunch_ilc (s : State) (lid : Nat) (f : Launch → Launch) : (s.modLaunch lid f).ilc = s.ilc := rfl
@[simp] theorem State.modLaunch_seqs (s : State) (lid : Nat) (f : Launch → Launch) : (s.modLaunch lid f).seqs = s.seqs := rfl
@[simp] theorem State.modLaunch_control (s : State) (lid : Nat) (f : Launch → Launch) : (s.modLaunch lid f).control = s.control := rfl
@[simp] theorem State.modLaunch_demands (s : State) (lid : Nat) (f : Launch → Launch) : (s.modLaunch lid f).demands = s.demands := rfl
@[simp] theorem State.modLaunch_sendq (s : State) (lid : Nat) (f : Launch → Launch) : (s.modLaunch lid f).sendq = s.sendq := rfl
@[simp] theorem State.modLaunch_recvq (s : State) (lid : Nat) (f : Launch → Launch) : (s.modLaunch lid f).recvq = s.recvq := rfl
@[simp] theorem State.modLaunch_messages (s : State) (lid : Nat) (f : Launch → Launch) : (s.modLaunch lid f).messages = s.messages := rfl
@[simp] theorem State.modLaunch_boot (s : State) (lid : Nat) (f : Launch → Launch) : (s.modLaunch lid f).boot = s.boot := rfl
@[simp] theorem State.modLaunch_conf (s : State) (lid : Nat) (f : Launch → Launch) : (s.modLaunch lid f).conf = s.conf := rfl
@[simp] theorem State.modLaunch_q0ring (s : State) (lid : Nat) (f : Launch → Launch) : (s.modLaunch lid f).q0ring = s.q0ring := rfl
@[simp] theorem State.modLaunch_powerCap (s : State) (lid : Nat) (f : Launch → Launch) : (s.modLaunch lid f).powerCap = s.powerCap := rfl
@[simp] theorem State.modLaunch_spdm (s : State) (lid : Nat) (f : Launch → Launch) : (s.modLaunch lid f).spdm = s.spdm := rfl
@[simp] theorem State.modLaunch_irqs (s : State) (lid : Nat) (f : Launch → Launch) : (s.modLaunch lid f).irqs = s.irqs := rfl
@[simp] theorem State.modLaunch_pins (s : State) (lid : Nat) (f : Launch → Launch) : (s.modLaunch lid f).pins = s.pins := rfl
@[simp] theorem State.modLaunch_refusals (s : State) (lid : Nat) (f : Launch → Launch) : (s.modLaunch lid f).refusals = s.refusals := rfl
@[simp] theorem State.modLaunch_fuses (s : State) (lid : Nat) (f : Launch → Launch) : (s.modLaunch lid f).fuses = s.fuses := rfl
@[simp] theorem State.modLaunch_firmware (s : State) (lid : Nat) (f : Launch → Launch) : (s.modLaunch lid f).firmware = s.firmware := rfl
@[simp] theorem State.modLaunch_throttle (s : State) (lid : Nat) (f : Launch → Launch) : (s.modLaunch lid f).throttle = s.throttle := rfl
@[simp] theorem State.modLaunch_throttleSince (s : State) (lid : Nat) (f : Launch → Launch) : (s.modLaunch lid f).throttleSince = s.throttleSince := rfl

@[simp] theorem State.modOp_tick (s : State) (id : Nat) (f : Op → Op) : (s.modOp id f).tick = s.tick := rfl
@[simp] theorem State.modOp_serial (s : State) (id : Nat) (f : Op → Op) : (s.modOp id f).serial = s.serial := rfl
@[simp] theorem State.modOp_agenda (s : State) (id : Nat) (f : Op → Op) : (s.modOp id f).agenda = s.agenda := rfl
@[simp] theorem State.modOp_focus (s : State) (id : Nat) (f : Op → Op) : (s.modOp id f).focus = s.focus := rfl
@[simp] theorem State.modOp_fresh (s : State) (id : Nat) (f : Op → Op) : (s.modOp id f).fresh = s.fresh := rfl
@[simp] theorem State.modOp_dispatchDue (s : State) (id : Nat) (f : Op → Op) : (s.modOp id f).dispatchDue = s.dispatchDue := rfl
@[simp] theorem State.modOp_groups (s : State) (id : Nat) (f : Op → Op) : (s.modOp id f).groups = s.groups := rfl
@[simp] theorem State.modOp_teams (s : State) (id : Nat) (f : Op → Op) : (s.modOp id f).teams = s.teams := rfl
@[simp] theorem State.modOp_launches (s : State) (id : Nat) (f : Op → Op) : (s.modOp id f).launches = s.launches := rfl
@[simp] theorem State.modOp_ctxs (s : State) (id : Nat) (f : Op → Op) : (s.modOp id f).ctxs = s.ctxs := rfl
@[simp] theorem State.modOp_parts (s : State) (id : Nat) (f : Op → Op) : (s.modOp id f).parts = s.parts := rfl
@[simp] theorem State.modOp_queues (s : State) (id : Nat) (f : Op → Op) : (s.modOp id f).queues = s.queues := rfl
@[simp] theorem State.modOp_cores (s : State) (id : Nat) (f : Op → Op) : (s.modOp id f).cores = s.cores := rfl
@[simp] theorem State.modOp_vacations (s : State) (id : Nat) (f : Op → Op) : (s.modOp id f).vacations = s.vacations := rfl
@[simp] theorem State.modOp_image (s : State) (id : Nat) (f : Op → Op) : (s.modOp id f).image = s.image := rfl
@[simp] theorem State.modOp_pending (s : State) (id : Nat) (f : Op → Op) : (s.modOp id f).pending = s.pending := rfl
@[simp] theorem State.modOp_wcb (s : State) (id : Nat) (f : Op → Op) : (s.modOp id f).wcb = s.wcb := rfl
@[simp] theorem State.modOp_l1 (s : State) (id : Nat) (f : Op → Op) : (s.modOp id f).l1 = s.l1 := rfl
@[simp] theorem State.modOp_tlb (s : State) (id : Nat) (f : Op → Op) : (s.modOp id f).tlb = s.tlb := rfl
@[simp] theorem State.modOp_marks (s : State) (id : Nat) (f : Op → Op) : (s.modOp id f).marks = s.marks := rfl
@[simp] theorem State.modOp_holders (s : State) (id : Nat) (f : Op → Op) : (s.modOp id f).holders = s.holders := rfl
@[simp] theorem State.modOp_pubs (s : State) (id : Nat) (f : Op → Op) : (s.modOp id f).pubs = s.pubs := rfl
@[simp] theorem State.modOp_texts (s : State) (id : Nat) (f : Op → Op) : (s.modOp id f).texts = s.texts := rfl
@[simp] theorem State.modOp_lost (s : State) (id : Nat) (f : Op → Op) : (s.modOp id f).lost = s.lost := rfl
@[simp] theorem State.modOp_hostMem (s : State) (id : Nat) (f : Op → Op) : (s.modOp id f).hostMem = s.hostMem := rfl
@[simp] theorem State.modOp_extents (s : State) (id : Nat) (f : Op → Op) : (s.modOp id f).extents = s.extents := rfl
@[simp] theorem State.modOp_segments (s : State) (id : Nat) (f : Op → Op) : (s.modOp id f).segments = s.segments := rfl
@[simp] theorem State.modOp_seals (s : State) (id : Nat) (f : Op → Op) : (s.modOp id f).seals = s.seals := rfl
@[simp] theorem State.modOp_dirty (s : State) (id : Nat) (f : Op → Op) : (s.modOp id f).dirty = s.dirty := rfl
@[simp] theorem State.modOp_peers (s : State) (id : Nat) (f : Op → Op) : (s.modOp id f).peers = s.peers := rfl
@[simp] theorem State.modOp_ships (s : State) (id : Nat) (f : Op → Op) : (s.modOp id f).ships = s.ships := rfl
@[simp] theorem State.modOp_monitors (s : State) (id : Nat) (f : Op → Op) : (s.modOp id f).monitors = s.monitors := rfl
@[simp] theorem State.modOp_shoots (s : State) (id : Nat) (f : Op → Op) : (s.modOp id f).shoots = s.shoots := rfl
@[simp] theorem State.modOp_calls (s : State) (id : Nat) (f : Op → Op) : (s.modOp id f).calls = s.calls := rfl
@[simp] theorem State.modOp_dmus (s : State) (id : Nat) (f : Op → Op) : (s.modOp id f).dmus = s.dmus := rfl
@[simp] theorem State.modOp_sent (s : State) (id : Nat) (f : Op → Op) : (s.modOp id f).sent = s.sent := rfl
@[simp] theorem State.modOp_flows (s : State) (id : Nat) (f : Op → Op) : (s.modOp id f).flows = s.flows := rfl
@[simp] theorem State.modOp_awaiting (s : State) (id : Nat) (f : Op → Op) : (s.modOp id f).awaiting = s.awaiting := rfl
@[simp] theorem State.modOp_linkErrors (s : State) (id : Nat) (f : Op → Op) : (s.modOp id f).linkErrors = s.linkErrors := rfl
@[simp] theorem State.modOp_dueIn (s : State) (id : Nat) (f : Op → Op) : (s.modOp id f).dueIn = s.dueIn := rfl
@[simp] theorem State.modOp_roots (s : State) (id : Nat) (f : Op → Op) : (s.modOp id f).roots = s.roots := rfl
@[simp] theorem State.modOp_leaves (s : State) (id : Nat) (f : Op → Op) : (s.modOp id f).leaves = s.leaves := rfl
@[simp] theorem State.modOp_preds (s : State) (id : Nat) (f : Op → Op) : (s.modOp id f).preds = s.preds := rfl
@[simp] theorem State.modOp_l2 (s : State) (id : Nat) (f : Op → Op) : (s.modOp id f).l2 = s.l2 := rfl
@[simp] theorem State.modOp_ilc (s : State) (id : Nat) (f : Op → Op) : (s.modOp id f).ilc = s.ilc := rfl
@[simp] theorem State.modOp_seqs (s : State) (id : Nat) (f : Op → Op) : (s.modOp id f).seqs = s.seqs := rfl
@[simp] theorem State.modOp_control (s : State) (id : Nat) (f : Op → Op) : (s.modOp id f).control = s.control := rfl
@[simp] theorem State.modOp_demands (s : State) (id : Nat) (f : Op → Op) : (s.modOp id f).demands = s.demands := rfl
@[simp] theorem State.modOp_sendq (s : State) (id : Nat) (f : Op → Op) : (s.modOp id f).sendq = s.sendq := rfl
@[simp] theorem State.modOp_recvq (s : State) (id : Nat) (f : Op → Op) : (s.modOp id f).recvq = s.recvq := rfl
@[simp] theorem State.modOp_messages (s : State) (id : Nat) (f : Op → Op) : (s.modOp id f).messages = s.messages := rfl
@[simp] theorem State.modOp_boot (s : State) (id : Nat) (f : Op → Op) : (s.modOp id f).boot = s.boot := rfl
@[simp] theorem State.modOp_conf (s : State) (id : Nat) (f : Op → Op) : (s.modOp id f).conf = s.conf := rfl
@[simp] theorem State.modOp_q0ring (s : State) (id : Nat) (f : Op → Op) : (s.modOp id f).q0ring = s.q0ring := rfl
@[simp] theorem State.modOp_powerCap (s : State) (id : Nat) (f : Op → Op) : (s.modOp id f).powerCap = s.powerCap := rfl
@[simp] theorem State.modOp_spdm (s : State) (id : Nat) (f : Op → Op) : (s.modOp id f).spdm = s.spdm := rfl
@[simp] theorem State.modOp_irqs (s : State) (id : Nat) (f : Op → Op) : (s.modOp id f).irqs = s.irqs := rfl
@[simp] theorem State.modOp_pins (s : State) (id : Nat) (f : Op → Op) : (s.modOp id f).pins = s.pins := rfl
@[simp] theorem State.modOp_refusals (s : State) (id : Nat) (f : Op → Op) : (s.modOp id f).refusals = s.refusals := rfl
@[simp] theorem State.modOp_fuses (s : State) (id : Nat) (f : Op → Op) : (s.modOp id f).fuses = s.fuses := rfl
@[simp] theorem State.modOp_firmware (s : State) (id : Nat) (f : Op → Op) : (s.modOp id f).firmware = s.firmware := rfl
@[simp] theorem State.modOp_throttle (s : State) (id : Nat) (f : Op → Op) : (s.modOp id f).throttle = s.throttle := rfl
@[simp] theorem State.modOp_throttleSince (s : State) (id : Nat) (f : Op → Op) : (s.modOp id f).throttleSince = s.throttleSince := rfl

@[simp] theorem State.dropOp_tick (s : State) (id : Nat) : (s.dropOp id).tick = s.tick := rfl
@[simp] theorem State.dropOp_serial (s : State) (id : Nat) : (s.dropOp id).serial = s.serial := rfl
@[simp] theorem State.dropOp_agenda (s : State) (id : Nat) : (s.dropOp id).agenda = s.agenda := rfl
@[simp] theorem State.dropOp_focus (s : State) (id : Nat) : (s.dropOp id).focus = s.focus := rfl
@[simp] theorem State.dropOp_fresh (s : State) (id : Nat) : (s.dropOp id).fresh = s.fresh := rfl
@[simp] theorem State.dropOp_dispatchDue (s : State) (id : Nat) : (s.dropOp id).dispatchDue = s.dispatchDue := rfl
@[simp] theorem State.dropOp_groups (s : State) (id : Nat) : (s.dropOp id).groups = s.groups := rfl
@[simp] theorem State.dropOp_teams (s : State) (id : Nat) : (s.dropOp id).teams = s.teams := rfl
@[simp] theorem State.dropOp_launches (s : State) (id : Nat) : (s.dropOp id).launches = s.launches := rfl
@[simp] theorem State.dropOp_ctxs (s : State) (id : Nat) : (s.dropOp id).ctxs = s.ctxs := rfl
@[simp] theorem State.dropOp_parts (s : State) (id : Nat) : (s.dropOp id).parts = s.parts := rfl
@[simp] theorem State.dropOp_queues (s : State) (id : Nat) : (s.dropOp id).queues = s.queues := rfl
@[simp] theorem State.dropOp_cores (s : State) (id : Nat) : (s.dropOp id).cores = s.cores := rfl
@[simp] theorem State.dropOp_vacations (s : State) (id : Nat) : (s.dropOp id).vacations = s.vacations := rfl
@[simp] theorem State.dropOp_image (s : State) (id : Nat) : (s.dropOp id).image = s.image := rfl
@[simp] theorem State.dropOp_pending (s : State) (id : Nat) : (s.dropOp id).pending = s.pending := rfl
@[simp] theorem State.dropOp_wcb (s : State) (id : Nat) : (s.dropOp id).wcb = s.wcb := rfl
@[simp] theorem State.dropOp_l1 (s : State) (id : Nat) : (s.dropOp id).l1 = s.l1 := rfl
@[simp] theorem State.dropOp_tlb (s : State) (id : Nat) : (s.dropOp id).tlb = s.tlb := rfl
@[simp] theorem State.dropOp_marks (s : State) (id : Nat) : (s.dropOp id).marks = s.marks := rfl
@[simp] theorem State.dropOp_holders (s : State) (id : Nat) : (s.dropOp id).holders = s.holders := rfl
@[simp] theorem State.dropOp_pubs (s : State) (id : Nat) : (s.dropOp id).pubs = s.pubs := rfl
@[simp] theorem State.dropOp_texts (s : State) (id : Nat) : (s.dropOp id).texts = s.texts := rfl
@[simp] theorem State.dropOp_lost (s : State) (id : Nat) : (s.dropOp id).lost = s.lost := rfl
@[simp] theorem State.dropOp_hostMem (s : State) (id : Nat) : (s.dropOp id).hostMem = s.hostMem := rfl
@[simp] theorem State.dropOp_extents (s : State) (id : Nat) : (s.dropOp id).extents = s.extents := rfl
@[simp] theorem State.dropOp_segments (s : State) (id : Nat) : (s.dropOp id).segments = s.segments := rfl
@[simp] theorem State.dropOp_seals (s : State) (id : Nat) : (s.dropOp id).seals = s.seals := rfl
@[simp] theorem State.dropOp_dirty (s : State) (id : Nat) : (s.dropOp id).dirty = s.dirty := rfl
@[simp] theorem State.dropOp_peers (s : State) (id : Nat) : (s.dropOp id).peers = s.peers := rfl
@[simp] theorem State.dropOp_ships (s : State) (id : Nat) : (s.dropOp id).ships = s.ships := rfl
@[simp] theorem State.dropOp_monitors (s : State) (id : Nat) : (s.dropOp id).monitors = s.monitors := rfl
@[simp] theorem State.dropOp_shoots (s : State) (id : Nat) : (s.dropOp id).shoots = s.shoots := rfl
@[simp] theorem State.dropOp_calls (s : State) (id : Nat) : (s.dropOp id).calls = s.calls := rfl
@[simp] theorem State.dropOp_dmus (s : State) (id : Nat) : (s.dropOp id).dmus = s.dmus := rfl
@[simp] theorem State.dropOp_sent (s : State) (id : Nat) : (s.dropOp id).sent = s.sent := rfl
@[simp] theorem State.dropOp_flows (s : State) (id : Nat) : (s.dropOp id).flows = s.flows := rfl
@[simp] theorem State.dropOp_awaiting (s : State) (id : Nat) : (s.dropOp id).awaiting = s.awaiting := rfl
@[simp] theorem State.dropOp_linkErrors (s : State) (id : Nat) : (s.dropOp id).linkErrors = s.linkErrors := rfl
@[simp] theorem State.dropOp_dueIn (s : State) (id : Nat) : (s.dropOp id).dueIn = s.dueIn := rfl
@[simp] theorem State.dropOp_roots (s : State) (id : Nat) : (s.dropOp id).roots = s.roots := rfl
@[simp] theorem State.dropOp_leaves (s : State) (id : Nat) : (s.dropOp id).leaves = s.leaves := rfl
@[simp] theorem State.dropOp_preds (s : State) (id : Nat) : (s.dropOp id).preds = s.preds := rfl
@[simp] theorem State.dropOp_l2 (s : State) (id : Nat) : (s.dropOp id).l2 = s.l2 := rfl
@[simp] theorem State.dropOp_ilc (s : State) (id : Nat) : (s.dropOp id).ilc = s.ilc := rfl
@[simp] theorem State.dropOp_seqs (s : State) (id : Nat) : (s.dropOp id).seqs = s.seqs := rfl
@[simp] theorem State.dropOp_control (s : State) (id : Nat) : (s.dropOp id).control = s.control := rfl
@[simp] theorem State.dropOp_demands (s : State) (id : Nat) : (s.dropOp id).demands = s.demands := rfl
@[simp] theorem State.dropOp_sendq (s : State) (id : Nat) : (s.dropOp id).sendq = s.sendq := rfl
@[simp] theorem State.dropOp_recvq (s : State) (id : Nat) : (s.dropOp id).recvq = s.recvq := rfl
@[simp] theorem State.dropOp_messages (s : State) (id : Nat) : (s.dropOp id).messages = s.messages := rfl
@[simp] theorem State.dropOp_boot (s : State) (id : Nat) : (s.dropOp id).boot = s.boot := rfl
@[simp] theorem State.dropOp_conf (s : State) (id : Nat) : (s.dropOp id).conf = s.conf := rfl
@[simp] theorem State.dropOp_q0ring (s : State) (id : Nat) : (s.dropOp id).q0ring = s.q0ring := rfl
@[simp] theorem State.dropOp_powerCap (s : State) (id : Nat) : (s.dropOp id).powerCap = s.powerCap := rfl
@[simp] theorem State.dropOp_spdm (s : State) (id : Nat) : (s.dropOp id).spdm = s.spdm := rfl
@[simp] theorem State.dropOp_irqs (s : State) (id : Nat) : (s.dropOp id).irqs = s.irqs := rfl
@[simp] theorem State.dropOp_pins (s : State) (id : Nat) : (s.dropOp id).pins = s.pins := rfl
@[simp] theorem State.dropOp_refusals (s : State) (id : Nat) : (s.dropOp id).refusals = s.refusals := rfl
@[simp] theorem State.dropOp_fuses (s : State) (id : Nat) : (s.dropOp id).fuses = s.fuses := rfl
@[simp] theorem State.dropOp_firmware (s : State) (id : Nat) : (s.dropOp id).firmware = s.firmware := rfl
@[simp] theorem State.dropOp_throttle (s : State) (id : Nat) : (s.dropOp id).throttle = s.throttle := rfl
@[simp] theorem State.dropOp_throttleSince (s : State) (id : Nat) : (s.dropOp id).throttleSince = s.throttleSince := rfl

@[simp] theorem State.modCtx_tick (s : State) (n : Nat) (f : Context → Context) : (s.modCtx n f).tick = s.tick := rfl
@[simp] theorem State.modCtx_serial (s : State) (n : Nat) (f : Context → Context) : (s.modCtx n f).serial = s.serial := rfl
@[simp] theorem State.modCtx_agenda (s : State) (n : Nat) (f : Context → Context) : (s.modCtx n f).agenda = s.agenda := rfl
@[simp] theorem State.modCtx_focus (s : State) (n : Nat) (f : Context → Context) : (s.modCtx n f).focus = s.focus := rfl
@[simp] theorem State.modCtx_fresh (s : State) (n : Nat) (f : Context → Context) : (s.modCtx n f).fresh = s.fresh := rfl
@[simp] theorem State.modCtx_dispatchDue (s : State) (n : Nat) (f : Context → Context) : (s.modCtx n f).dispatchDue = s.dispatchDue := rfl
@[simp] theorem State.modCtx_groups (s : State) (n : Nat) (f : Context → Context) : (s.modCtx n f).groups = s.groups := rfl
@[simp] theorem State.modCtx_teams (s : State) (n : Nat) (f : Context → Context) : (s.modCtx n f).teams = s.teams := rfl
@[simp] theorem State.modCtx_launches (s : State) (n : Nat) (f : Context → Context) : (s.modCtx n f).launches = s.launches := rfl
@[simp] theorem State.modCtx_parts (s : State) (n : Nat) (f : Context → Context) : (s.modCtx n f).parts = s.parts := rfl
@[simp] theorem State.modCtx_queues (s : State) (n : Nat) (f : Context → Context) : (s.modCtx n f).queues = s.queues := rfl
@[simp] theorem State.modCtx_cores (s : State) (n : Nat) (f : Context → Context) : (s.modCtx n f).cores = s.cores := rfl
@[simp] theorem State.modCtx_vacations (s : State) (n : Nat) (f : Context → Context) : (s.modCtx n f).vacations = s.vacations := rfl
@[simp] theorem State.modCtx_image (s : State) (n : Nat) (f : Context → Context) : (s.modCtx n f).image = s.image := rfl
@[simp] theorem State.modCtx_pending (s : State) (n : Nat) (f : Context → Context) : (s.modCtx n f).pending = s.pending := rfl
@[simp] theorem State.modCtx_wcb (s : State) (n : Nat) (f : Context → Context) : (s.modCtx n f).wcb = s.wcb := rfl
@[simp] theorem State.modCtx_l1 (s : State) (n : Nat) (f : Context → Context) : (s.modCtx n f).l1 = s.l1 := rfl
@[simp] theorem State.modCtx_tlb (s : State) (n : Nat) (f : Context → Context) : (s.modCtx n f).tlb = s.tlb := rfl
@[simp] theorem State.modCtx_marks (s : State) (n : Nat) (f : Context → Context) : (s.modCtx n f).marks = s.marks := rfl
@[simp] theorem State.modCtx_holders (s : State) (n : Nat) (f : Context → Context) : (s.modCtx n f).holders = s.holders := rfl
@[simp] theorem State.modCtx_pubs (s : State) (n : Nat) (f : Context → Context) : (s.modCtx n f).pubs = s.pubs := rfl
@[simp] theorem State.modCtx_texts (s : State) (n : Nat) (f : Context → Context) : (s.modCtx n f).texts = s.texts := rfl
@[simp] theorem State.modCtx_lost (s : State) (n : Nat) (f : Context → Context) : (s.modCtx n f).lost = s.lost := rfl
@[simp] theorem State.modCtx_hostMem (s : State) (n : Nat) (f : Context → Context) : (s.modCtx n f).hostMem = s.hostMem := rfl
@[simp] theorem State.modCtx_extents (s : State) (n : Nat) (f : Context → Context) : (s.modCtx n f).extents = s.extents := rfl
@[simp] theorem State.modCtx_segments (s : State) (n : Nat) (f : Context → Context) : (s.modCtx n f).segments = s.segments := rfl
@[simp] theorem State.modCtx_seals (s : State) (n : Nat) (f : Context → Context) : (s.modCtx n f).seals = s.seals := rfl
@[simp] theorem State.modCtx_dirty (s : State) (n : Nat) (f : Context → Context) : (s.modCtx n f).dirty = s.dirty := rfl
@[simp] theorem State.modCtx_peers (s : State) (n : Nat) (f : Context → Context) : (s.modCtx n f).peers = s.peers := rfl
@[simp] theorem State.modCtx_ships (s : State) (n : Nat) (f : Context → Context) : (s.modCtx n f).ships = s.ships := rfl
@[simp] theorem State.modCtx_ops (s : State) (n : Nat) (f : Context → Context) : (s.modCtx n f).ops = s.ops := rfl
@[simp] theorem State.modCtx_monitors (s : State) (n : Nat) (f : Context → Context) : (s.modCtx n f).monitors = s.monitors := rfl
@[simp] theorem State.modCtx_shoots (s : State) (n : Nat) (f : Context → Context) : (s.modCtx n f).shoots = s.shoots := rfl
@[simp] theorem State.modCtx_calls (s : State) (n : Nat) (f : Context → Context) : (s.modCtx n f).calls = s.calls := rfl
@[simp] theorem State.modCtx_dmus (s : State) (n : Nat) (f : Context → Context) : (s.modCtx n f).dmus = s.dmus := rfl
@[simp] theorem State.modCtx_sent (s : State) (n : Nat) (f : Context → Context) : (s.modCtx n f).sent = s.sent := rfl
@[simp] theorem State.modCtx_flows (s : State) (n : Nat) (f : Context → Context) : (s.modCtx n f).flows = s.flows := rfl
@[simp] theorem State.modCtx_awaiting (s : State) (n : Nat) (f : Context → Context) : (s.modCtx n f).awaiting = s.awaiting := rfl
@[simp] theorem State.modCtx_linkErrors (s : State) (n : Nat) (f : Context → Context) : (s.modCtx n f).linkErrors = s.linkErrors := rfl
@[simp] theorem State.modCtx_dueIn (s : State) (n : Nat) (f : Context → Context) : (s.modCtx n f).dueIn = s.dueIn := rfl
@[simp] theorem State.modCtx_roots (s : State) (n : Nat) (f : Context → Context) : (s.modCtx n f).roots = s.roots := rfl
@[simp] theorem State.modCtx_leaves (s : State) (n : Nat) (f : Context → Context) : (s.modCtx n f).leaves = s.leaves := rfl
@[simp] theorem State.modCtx_preds (s : State) (n : Nat) (f : Context → Context) : (s.modCtx n f).preds = s.preds := rfl
@[simp] theorem State.modCtx_l2 (s : State) (n : Nat) (f : Context → Context) : (s.modCtx n f).l2 = s.l2 := rfl
@[simp] theorem State.modCtx_ilc (s : State) (n : Nat) (f : Context → Context) : (s.modCtx n f).ilc = s.ilc := rfl
@[simp] theorem State.modCtx_seqs (s : State) (n : Nat) (f : Context → Context) : (s.modCtx n f).seqs = s.seqs := rfl
@[simp] theorem State.modCtx_control (s : State) (n : Nat) (f : Context → Context) : (s.modCtx n f).control = s.control := rfl
@[simp] theorem State.modCtx_demands (s : State) (n : Nat) (f : Context → Context) : (s.modCtx n f).demands = s.demands := rfl
@[simp] theorem State.modCtx_sendq (s : State) (n : Nat) (f : Context → Context) : (s.modCtx n f).sendq = s.sendq := rfl
@[simp] theorem State.modCtx_recvq (s : State) (n : Nat) (f : Context → Context) : (s.modCtx n f).recvq = s.recvq := rfl
@[simp] theorem State.modCtx_messages (s : State) (n : Nat) (f : Context → Context) : (s.modCtx n f).messages = s.messages := rfl
@[simp] theorem State.modCtx_boot (s : State) (n : Nat) (f : Context → Context) : (s.modCtx n f).boot = s.boot := rfl
@[simp] theorem State.modCtx_conf (s : State) (n : Nat) (f : Context → Context) : (s.modCtx n f).conf = s.conf := rfl
@[simp] theorem State.modCtx_q0ring (s : State) (n : Nat) (f : Context → Context) : (s.modCtx n f).q0ring = s.q0ring := rfl
@[simp] theorem State.modCtx_powerCap (s : State) (n : Nat) (f : Context → Context) : (s.modCtx n f).powerCap = s.powerCap := rfl
@[simp] theorem State.modCtx_spdm (s : State) (n : Nat) (f : Context → Context) : (s.modCtx n f).spdm = s.spdm := rfl
@[simp] theorem State.modCtx_irqs (s : State) (n : Nat) (f : Context → Context) : (s.modCtx n f).irqs = s.irqs := rfl
@[simp] theorem State.modCtx_pins (s : State) (n : Nat) (f : Context → Context) : (s.modCtx n f).pins = s.pins := rfl
@[simp] theorem State.modCtx_refusals (s : State) (n : Nat) (f : Context → Context) : (s.modCtx n f).refusals = s.refusals := rfl
@[simp] theorem State.modCtx_fuses (s : State) (n : Nat) (f : Context → Context) : (s.modCtx n f).fuses = s.fuses := rfl
@[simp] theorem State.modCtx_firmware (s : State) (n : Nat) (f : Context → Context) : (s.modCtx n f).firmware = s.firmware := rfl
@[simp] theorem State.modCtx_throttle (s : State) (n : Nat) (f : Context → Context) : (s.modCtx n f).throttle = s.throttle := rfl
@[simp] theorem State.modCtx_throttleSince (s : State) (n : Nat) (f : Context → Context) : (s.modCtx n f).throttleSince = s.throttleSince := rfl

@[simp] theorem State.note_tick (s : State) (ctx code t : Nat) : (s.note ctx code t).tick = s.tick := rfl
@[simp] theorem State.note_serial (s : State) (ctx code t : Nat) : (s.note ctx code t).serial = s.serial := rfl
@[simp] theorem State.note_agenda (s : State) (ctx code t : Nat) : (s.note ctx code t).agenda = s.agenda := rfl
@[simp] theorem State.note_focus (s : State) (ctx code t : Nat) : (s.note ctx code t).focus = s.focus := rfl
@[simp] theorem State.note_fresh (s : State) (ctx code t : Nat) : (s.note ctx code t).fresh = s.fresh := rfl
@[simp] theorem State.note_dispatchDue (s : State) (ctx code t : Nat) : (s.note ctx code t).dispatchDue = s.dispatchDue := rfl
@[simp] theorem State.note_groups (s : State) (ctx code t : Nat) : (s.note ctx code t).groups = s.groups := rfl
@[simp] theorem State.note_teams (s : State) (ctx code t : Nat) : (s.note ctx code t).teams = s.teams := rfl
@[simp] theorem State.note_launches (s : State) (ctx code t : Nat) : (s.note ctx code t).launches = s.launches := rfl
@[simp] theorem State.note_parts (s : State) (ctx code t : Nat) : (s.note ctx code t).parts = s.parts := rfl
@[simp] theorem State.note_queues (s : State) (ctx code t : Nat) : (s.note ctx code t).queues = s.queues := rfl
@[simp] theorem State.note_cores (s : State) (ctx code t : Nat) : (s.note ctx code t).cores = s.cores := rfl
@[simp] theorem State.note_vacations (s : State) (ctx code t : Nat) : (s.note ctx code t).vacations = s.vacations := rfl
@[simp] theorem State.note_image (s : State) (ctx code t : Nat) : (s.note ctx code t).image = s.image := rfl
@[simp] theorem State.note_pending (s : State) (ctx code t : Nat) : (s.note ctx code t).pending = s.pending := rfl
@[simp] theorem State.note_wcb (s : State) (ctx code t : Nat) : (s.note ctx code t).wcb = s.wcb := rfl
@[simp] theorem State.note_l1 (s : State) (ctx code t : Nat) : (s.note ctx code t).l1 = s.l1 := rfl
@[simp] theorem State.note_tlb (s : State) (ctx code t : Nat) : (s.note ctx code t).tlb = s.tlb := rfl
@[simp] theorem State.note_marks (s : State) (ctx code t : Nat) : (s.note ctx code t).marks = s.marks := rfl
@[simp] theorem State.note_holders (s : State) (ctx code t : Nat) : (s.note ctx code t).holders = s.holders := rfl
@[simp] theorem State.note_pubs (s : State) (ctx code t : Nat) : (s.note ctx code t).pubs = s.pubs := rfl
@[simp] theorem State.note_texts (s : State) (ctx code t : Nat) : (s.note ctx code t).texts = s.texts := rfl
@[simp] theorem State.note_lost (s : State) (ctx code t : Nat) : (s.note ctx code t).lost = s.lost := rfl
@[simp] theorem State.note_hostMem (s : State) (ctx code t : Nat) : (s.note ctx code t).hostMem = s.hostMem := rfl
@[simp] theorem State.note_extents (s : State) (ctx code t : Nat) : (s.note ctx code t).extents = s.extents := rfl
@[simp] theorem State.note_segments (s : State) (ctx code t : Nat) : (s.note ctx code t).segments = s.segments := rfl
@[simp] theorem State.note_seals (s : State) (ctx code t : Nat) : (s.note ctx code t).seals = s.seals := rfl
@[simp] theorem State.note_dirty (s : State) (ctx code t : Nat) : (s.note ctx code t).dirty = s.dirty := rfl
@[simp] theorem State.note_peers (s : State) (ctx code t : Nat) : (s.note ctx code t).peers = s.peers := rfl
@[simp] theorem State.note_ships (s : State) (ctx code t : Nat) : (s.note ctx code t).ships = s.ships := rfl
@[simp] theorem State.note_ops (s : State) (ctx code t : Nat) : (s.note ctx code t).ops = s.ops := rfl
@[simp] theorem State.note_monitors (s : State) (ctx code t : Nat) : (s.note ctx code t).monitors = s.monitors := rfl
@[simp] theorem State.note_shoots (s : State) (ctx code t : Nat) : (s.note ctx code t).shoots = s.shoots := rfl
@[simp] theorem State.note_calls (s : State) (ctx code t : Nat) : (s.note ctx code t).calls = s.calls := rfl
@[simp] theorem State.note_dmus (s : State) (ctx code t : Nat) : (s.note ctx code t).dmus = s.dmus := rfl
@[simp] theorem State.note_sent (s : State) (ctx code t : Nat) : (s.note ctx code t).sent = s.sent := rfl
@[simp] theorem State.note_flows (s : State) (ctx code t : Nat) : (s.note ctx code t).flows = s.flows := rfl
@[simp] theorem State.note_awaiting (s : State) (ctx code t : Nat) : (s.note ctx code t).awaiting = s.awaiting := rfl
@[simp] theorem State.note_linkErrors (s : State) (ctx code t : Nat) : (s.note ctx code t).linkErrors = s.linkErrors := rfl
@[simp] theorem State.note_dueIn (s : State) (ctx code t : Nat) : (s.note ctx code t).dueIn = s.dueIn := rfl
@[simp] theorem State.note_roots (s : State) (ctx code t : Nat) : (s.note ctx code t).roots = s.roots := rfl
@[simp] theorem State.note_leaves (s : State) (ctx code t : Nat) : (s.note ctx code t).leaves = s.leaves := rfl
@[simp] theorem State.note_preds (s : State) (ctx code t : Nat) : (s.note ctx code t).preds = s.preds := rfl
@[simp] theorem State.note_l2 (s : State) (ctx code t : Nat) : (s.note ctx code t).l2 = s.l2 := rfl
@[simp] theorem State.note_ilc (s : State) (ctx code t : Nat) : (s.note ctx code t).ilc = s.ilc := rfl
@[simp] theorem State.note_seqs (s : State) (ctx code t : Nat) : (s.note ctx code t).seqs = s.seqs := rfl
@[simp] theorem State.note_control (s : State) (ctx code t : Nat) : (s.note ctx code t).control = s.control := rfl
@[simp] theorem State.note_demands (s : State) (ctx code t : Nat) : (s.note ctx code t).demands = s.demands := rfl
@[simp] theorem State.note_sendq (s : State) (ctx code t : Nat) : (s.note ctx code t).sendq = s.sendq := rfl
@[simp] theorem State.note_recvq (s : State) (ctx code t : Nat) : (s.note ctx code t).recvq = s.recvq := rfl
@[simp] theorem State.note_messages (s : State) (ctx code t : Nat) : (s.note ctx code t).messages = s.messages := rfl
@[simp] theorem State.note_boot (s : State) (ctx code t : Nat) : (s.note ctx code t).boot = s.boot := rfl
@[simp] theorem State.note_conf (s : State) (ctx code t : Nat) : (s.note ctx code t).conf = s.conf := rfl
@[simp] theorem State.note_q0ring (s : State) (ctx code t : Nat) : (s.note ctx code t).q0ring = s.q0ring := rfl
@[simp] theorem State.note_powerCap (s : State) (ctx code t : Nat) : (s.note ctx code t).powerCap = s.powerCap := rfl
@[simp] theorem State.note_spdm (s : State) (ctx code t : Nat) : (s.note ctx code t).spdm = s.spdm := rfl
@[simp] theorem State.note_irqs (s : State) (ctx code t : Nat) : (s.note ctx code t).irqs = s.irqs := rfl
@[simp] theorem State.note_pins (s : State) (ctx code t : Nat) : (s.note ctx code t).pins = s.pins := rfl
@[simp] theorem State.note_refusals (s : State) (ctx code t : Nat) : (s.note ctx code t).refusals = s.refusals := rfl
@[simp] theorem State.note_fuses (s : State) (ctx code t : Nat) : (s.note ctx code t).fuses = s.fuses := rfl
@[simp] theorem State.note_firmware (s : State) (ctx code t : Nat) : (s.note ctx code t).firmware = s.firmware := rfl
@[simp] theorem State.note_throttle (s : State) (ctx code t : Nat) : (s.note ctx code t).throttle = s.throttle := rfl
@[simp] theorem State.note_throttleSince (s : State) (ctx code t : Nat) : (s.note ctx code t).throttleSince = s.throttleSince := rfl

@[simp] theorem State.modQueue_tick (s : State) (n : Nat) (f : Queue → Queue) : (s.modQueue n f).tick = s.tick := rfl
@[simp] theorem State.modQueue_serial (s : State) (n : Nat) (f : Queue → Queue) : (s.modQueue n f).serial = s.serial := rfl
@[simp] theorem State.modQueue_agenda (s : State) (n : Nat) (f : Queue → Queue) : (s.modQueue n f).agenda = s.agenda := rfl
@[simp] theorem State.modQueue_focus (s : State) (n : Nat) (f : Queue → Queue) : (s.modQueue n f).focus = s.focus := rfl
@[simp] theorem State.modQueue_fresh (s : State) (n : Nat) (f : Queue → Queue) : (s.modQueue n f).fresh = s.fresh := rfl
@[simp] theorem State.modQueue_dispatchDue (s : State) (n : Nat) (f : Queue → Queue) : (s.modQueue n f).dispatchDue = s.dispatchDue := rfl
@[simp] theorem State.modQueue_groups (s : State) (n : Nat) (f : Queue → Queue) : (s.modQueue n f).groups = s.groups := rfl
@[simp] theorem State.modQueue_teams (s : State) (n : Nat) (f : Queue → Queue) : (s.modQueue n f).teams = s.teams := rfl
@[simp] theorem State.modQueue_launches (s : State) (n : Nat) (f : Queue → Queue) : (s.modQueue n f).launches = s.launches := rfl
@[simp] theorem State.modQueue_ctxs (s : State) (n : Nat) (f : Queue → Queue) : (s.modQueue n f).ctxs = s.ctxs := rfl
@[simp] theorem State.modQueue_parts (s : State) (n : Nat) (f : Queue → Queue) : (s.modQueue n f).parts = s.parts := rfl
@[simp] theorem State.modQueue_cores (s : State) (n : Nat) (f : Queue → Queue) : (s.modQueue n f).cores = s.cores := rfl
@[simp] theorem State.modQueue_vacations (s : State) (n : Nat) (f : Queue → Queue) : (s.modQueue n f).vacations = s.vacations := rfl
@[simp] theorem State.modQueue_image (s : State) (n : Nat) (f : Queue → Queue) : (s.modQueue n f).image = s.image := rfl
@[simp] theorem State.modQueue_pending (s : State) (n : Nat) (f : Queue → Queue) : (s.modQueue n f).pending = s.pending := rfl
@[simp] theorem State.modQueue_wcb (s : State) (n : Nat) (f : Queue → Queue) : (s.modQueue n f).wcb = s.wcb := rfl
@[simp] theorem State.modQueue_l1 (s : State) (n : Nat) (f : Queue → Queue) : (s.modQueue n f).l1 = s.l1 := rfl
@[simp] theorem State.modQueue_tlb (s : State) (n : Nat) (f : Queue → Queue) : (s.modQueue n f).tlb = s.tlb := rfl
@[simp] theorem State.modQueue_marks (s : State) (n : Nat) (f : Queue → Queue) : (s.modQueue n f).marks = s.marks := rfl
@[simp] theorem State.modQueue_holders (s : State) (n : Nat) (f : Queue → Queue) : (s.modQueue n f).holders = s.holders := rfl
@[simp] theorem State.modQueue_pubs (s : State) (n : Nat) (f : Queue → Queue) : (s.modQueue n f).pubs = s.pubs := rfl
@[simp] theorem State.modQueue_texts (s : State) (n : Nat) (f : Queue → Queue) : (s.modQueue n f).texts = s.texts := rfl
@[simp] theorem State.modQueue_lost (s : State) (n : Nat) (f : Queue → Queue) : (s.modQueue n f).lost = s.lost := rfl
@[simp] theorem State.modQueue_hostMem (s : State) (n : Nat) (f : Queue → Queue) : (s.modQueue n f).hostMem = s.hostMem := rfl
@[simp] theorem State.modQueue_extents (s : State) (n : Nat) (f : Queue → Queue) : (s.modQueue n f).extents = s.extents := rfl
@[simp] theorem State.modQueue_segments (s : State) (n : Nat) (f : Queue → Queue) : (s.modQueue n f).segments = s.segments := rfl
@[simp] theorem State.modQueue_seals (s : State) (n : Nat) (f : Queue → Queue) : (s.modQueue n f).seals = s.seals := rfl
@[simp] theorem State.modQueue_dirty (s : State) (n : Nat) (f : Queue → Queue) : (s.modQueue n f).dirty = s.dirty := rfl
@[simp] theorem State.modQueue_peers (s : State) (n : Nat) (f : Queue → Queue) : (s.modQueue n f).peers = s.peers := rfl
@[simp] theorem State.modQueue_ships (s : State) (n : Nat) (f : Queue → Queue) : (s.modQueue n f).ships = s.ships := rfl
@[simp] theorem State.modQueue_ops (s : State) (n : Nat) (f : Queue → Queue) : (s.modQueue n f).ops = s.ops := rfl
@[simp] theorem State.modQueue_monitors (s : State) (n : Nat) (f : Queue → Queue) : (s.modQueue n f).monitors = s.monitors := rfl
@[simp] theorem State.modQueue_shoots (s : State) (n : Nat) (f : Queue → Queue) : (s.modQueue n f).shoots = s.shoots := rfl
@[simp] theorem State.modQueue_calls (s : State) (n : Nat) (f : Queue → Queue) : (s.modQueue n f).calls = s.calls := rfl
@[simp] theorem State.modQueue_dmus (s : State) (n : Nat) (f : Queue → Queue) : (s.modQueue n f).dmus = s.dmus := rfl
@[simp] theorem State.modQueue_sent (s : State) (n : Nat) (f : Queue → Queue) : (s.modQueue n f).sent = s.sent := rfl
@[simp] theorem State.modQueue_flows (s : State) (n : Nat) (f : Queue → Queue) : (s.modQueue n f).flows = s.flows := rfl
@[simp] theorem State.modQueue_awaiting (s : State) (n : Nat) (f : Queue → Queue) : (s.modQueue n f).awaiting = s.awaiting := rfl
@[simp] theorem State.modQueue_linkErrors (s : State) (n : Nat) (f : Queue → Queue) : (s.modQueue n f).linkErrors = s.linkErrors := rfl
@[simp] theorem State.modQueue_dueIn (s : State) (n : Nat) (f : Queue → Queue) : (s.modQueue n f).dueIn = s.dueIn := rfl
@[simp] theorem State.modQueue_roots (s : State) (n : Nat) (f : Queue → Queue) : (s.modQueue n f).roots = s.roots := rfl
@[simp] theorem State.modQueue_leaves (s : State) (n : Nat) (f : Queue → Queue) : (s.modQueue n f).leaves = s.leaves := rfl
@[simp] theorem State.modQueue_preds (s : State) (n : Nat) (f : Queue → Queue) : (s.modQueue n f).preds = s.preds := rfl
@[simp] theorem State.modQueue_l2 (s : State) (n : Nat) (f : Queue → Queue) : (s.modQueue n f).l2 = s.l2 := rfl
@[simp] theorem State.modQueue_ilc (s : State) (n : Nat) (f : Queue → Queue) : (s.modQueue n f).ilc = s.ilc := rfl
@[simp] theorem State.modQueue_seqs (s : State) (n : Nat) (f : Queue → Queue) : (s.modQueue n f).seqs = s.seqs := rfl
@[simp] theorem State.modQueue_control (s : State) (n : Nat) (f : Queue → Queue) : (s.modQueue n f).control = s.control := rfl
@[simp] theorem State.modQueue_demands (s : State) (n : Nat) (f : Queue → Queue) : (s.modQueue n f).demands = s.demands := rfl
@[simp] theorem State.modQueue_sendq (s : State) (n : Nat) (f : Queue → Queue) : (s.modQueue n f).sendq = s.sendq := rfl
@[simp] theorem State.modQueue_recvq (s : State) (n : Nat) (f : Queue → Queue) : (s.modQueue n f).recvq = s.recvq := rfl
@[simp] theorem State.modQueue_messages (s : State) (n : Nat) (f : Queue → Queue) : (s.modQueue n f).messages = s.messages := rfl
@[simp] theorem State.modQueue_boot (s : State) (n : Nat) (f : Queue → Queue) : (s.modQueue n f).boot = s.boot := rfl
@[simp] theorem State.modQueue_conf (s : State) (n : Nat) (f : Queue → Queue) : (s.modQueue n f).conf = s.conf := rfl
@[simp] theorem State.modQueue_q0ring (s : State) (n : Nat) (f : Queue → Queue) : (s.modQueue n f).q0ring = s.q0ring := rfl
@[simp] theorem State.modQueue_powerCap (s : State) (n : Nat) (f : Queue → Queue) : (s.modQueue n f).powerCap = s.powerCap := rfl
@[simp] theorem State.modQueue_spdm (s : State) (n : Nat) (f : Queue → Queue) : (s.modQueue n f).spdm = s.spdm := rfl
@[simp] theorem State.modQueue_irqs (s : State) (n : Nat) (f : Queue → Queue) : (s.modQueue n f).irqs = s.irqs := rfl
@[simp] theorem State.modQueue_pins (s : State) (n : Nat) (f : Queue → Queue) : (s.modQueue n f).pins = s.pins := rfl
@[simp] theorem State.modQueue_refusals (s : State) (n : Nat) (f : Queue → Queue) : (s.modQueue n f).refusals = s.refusals := rfl
@[simp] theorem State.modQueue_fuses (s : State) (n : Nat) (f : Queue → Queue) : (s.modQueue n f).fuses = s.fuses := rfl
@[simp] theorem State.modQueue_firmware (s : State) (n : Nat) (f : Queue → Queue) : (s.modQueue n f).firmware = s.firmware := rfl
@[simp] theorem State.modQueue_throttle (s : State) (n : Nat) (f : Queue → Queue) : (s.modQueue n f).throttle = s.throttle := rfl
@[simp] theorem State.modQueue_throttleSince (s : State) (n : Nat) (f : Queue → Queue) : (s.modQueue n f).throttleSince = s.throttleSince := rfl

@[simp] theorem State.modCore_tick (s : State) (n : Nat) (f : CoreState → CoreState) : (s.modCore n f).tick = s.tick := rfl
@[simp] theorem State.modCore_serial (s : State) (n : Nat) (f : CoreState → CoreState) : (s.modCore n f).serial = s.serial := rfl
@[simp] theorem State.modCore_agenda (s : State) (n : Nat) (f : CoreState → CoreState) : (s.modCore n f).agenda = s.agenda := rfl
@[simp] theorem State.modCore_focus (s : State) (n : Nat) (f : CoreState → CoreState) : (s.modCore n f).focus = s.focus := rfl
@[simp] theorem State.modCore_fresh (s : State) (n : Nat) (f : CoreState → CoreState) : (s.modCore n f).fresh = s.fresh := rfl
@[simp] theorem State.modCore_dispatchDue (s : State) (n : Nat) (f : CoreState → CoreState) : (s.modCore n f).dispatchDue = s.dispatchDue := rfl
@[simp] theorem State.modCore_groups (s : State) (n : Nat) (f : CoreState → CoreState) : (s.modCore n f).groups = s.groups := rfl
@[simp] theorem State.modCore_teams (s : State) (n : Nat) (f : CoreState → CoreState) : (s.modCore n f).teams = s.teams := rfl
@[simp] theorem State.modCore_launches (s : State) (n : Nat) (f : CoreState → CoreState) : (s.modCore n f).launches = s.launches := rfl
@[simp] theorem State.modCore_ctxs (s : State) (n : Nat) (f : CoreState → CoreState) : (s.modCore n f).ctxs = s.ctxs := rfl
@[simp] theorem State.modCore_parts (s : State) (n : Nat) (f : CoreState → CoreState) : (s.modCore n f).parts = s.parts := rfl
@[simp] theorem State.modCore_queues (s : State) (n : Nat) (f : CoreState → CoreState) : (s.modCore n f).queues = s.queues := rfl
@[simp] theorem State.modCore_vacations (s : State) (n : Nat) (f : CoreState → CoreState) : (s.modCore n f).vacations = s.vacations := rfl
@[simp] theorem State.modCore_image (s : State) (n : Nat) (f : CoreState → CoreState) : (s.modCore n f).image = s.image := rfl
@[simp] theorem State.modCore_pending (s : State) (n : Nat) (f : CoreState → CoreState) : (s.modCore n f).pending = s.pending := rfl
@[simp] theorem State.modCore_wcb (s : State) (n : Nat) (f : CoreState → CoreState) : (s.modCore n f).wcb = s.wcb := rfl
@[simp] theorem State.modCore_l1 (s : State) (n : Nat) (f : CoreState → CoreState) : (s.modCore n f).l1 = s.l1 := rfl
@[simp] theorem State.modCore_tlb (s : State) (n : Nat) (f : CoreState → CoreState) : (s.modCore n f).tlb = s.tlb := rfl
@[simp] theorem State.modCore_marks (s : State) (n : Nat) (f : CoreState → CoreState) : (s.modCore n f).marks = s.marks := rfl
@[simp] theorem State.modCore_holders (s : State) (n : Nat) (f : CoreState → CoreState) : (s.modCore n f).holders = s.holders := rfl
@[simp] theorem State.modCore_pubs (s : State) (n : Nat) (f : CoreState → CoreState) : (s.modCore n f).pubs = s.pubs := rfl
@[simp] theorem State.modCore_texts (s : State) (n : Nat) (f : CoreState → CoreState) : (s.modCore n f).texts = s.texts := rfl
@[simp] theorem State.modCore_lost (s : State) (n : Nat) (f : CoreState → CoreState) : (s.modCore n f).lost = s.lost := rfl
@[simp] theorem State.modCore_hostMem (s : State) (n : Nat) (f : CoreState → CoreState) : (s.modCore n f).hostMem = s.hostMem := rfl
@[simp] theorem State.modCore_extents (s : State) (n : Nat) (f : CoreState → CoreState) : (s.modCore n f).extents = s.extents := rfl
@[simp] theorem State.modCore_segments (s : State) (n : Nat) (f : CoreState → CoreState) : (s.modCore n f).segments = s.segments := rfl
@[simp] theorem State.modCore_seals (s : State) (n : Nat) (f : CoreState → CoreState) : (s.modCore n f).seals = s.seals := rfl
@[simp] theorem State.modCore_dirty (s : State) (n : Nat) (f : CoreState → CoreState) : (s.modCore n f).dirty = s.dirty := rfl
@[simp] theorem State.modCore_peers (s : State) (n : Nat) (f : CoreState → CoreState) : (s.modCore n f).peers = s.peers := rfl
@[simp] theorem State.modCore_ships (s : State) (n : Nat) (f : CoreState → CoreState) : (s.modCore n f).ships = s.ships := rfl
@[simp] theorem State.modCore_ops (s : State) (n : Nat) (f : CoreState → CoreState) : (s.modCore n f).ops = s.ops := rfl
@[simp] theorem State.modCore_monitors (s : State) (n : Nat) (f : CoreState → CoreState) : (s.modCore n f).monitors = s.monitors := rfl
@[simp] theorem State.modCore_shoots (s : State) (n : Nat) (f : CoreState → CoreState) : (s.modCore n f).shoots = s.shoots := rfl
@[simp] theorem State.modCore_calls (s : State) (n : Nat) (f : CoreState → CoreState) : (s.modCore n f).calls = s.calls := rfl
@[simp] theorem State.modCore_dmus (s : State) (n : Nat) (f : CoreState → CoreState) : (s.modCore n f).dmus = s.dmus := rfl
@[simp] theorem State.modCore_sent (s : State) (n : Nat) (f : CoreState → CoreState) : (s.modCore n f).sent = s.sent := rfl
@[simp] theorem State.modCore_flows (s : State) (n : Nat) (f : CoreState → CoreState) : (s.modCore n f).flows = s.flows := rfl
@[simp] theorem State.modCore_awaiting (s : State) (n : Nat) (f : CoreState → CoreState) : (s.modCore n f).awaiting = s.awaiting := rfl
@[simp] theorem State.modCore_linkErrors (s : State) (n : Nat) (f : CoreState → CoreState) : (s.modCore n f).linkErrors = s.linkErrors := rfl
@[simp] theorem State.modCore_dueIn (s : State) (n : Nat) (f : CoreState → CoreState) : (s.modCore n f).dueIn = s.dueIn := rfl
@[simp] theorem State.modCore_roots (s : State) (n : Nat) (f : CoreState → CoreState) : (s.modCore n f).roots = s.roots := rfl
@[simp] theorem State.modCore_leaves (s : State) (n : Nat) (f : CoreState → CoreState) : (s.modCore n f).leaves = s.leaves := rfl
@[simp] theorem State.modCore_preds (s : State) (n : Nat) (f : CoreState → CoreState) : (s.modCore n f).preds = s.preds := rfl
@[simp] theorem State.modCore_l2 (s : State) (n : Nat) (f : CoreState → CoreState) : (s.modCore n f).l2 = s.l2 := rfl
@[simp] theorem State.modCore_ilc (s : State) (n : Nat) (f : CoreState → CoreState) : (s.modCore n f).ilc = s.ilc := rfl
@[simp] theorem State.modCore_seqs (s : State) (n : Nat) (f : CoreState → CoreState) : (s.modCore n f).seqs = s.seqs := rfl
@[simp] theorem State.modCore_control (s : State) (n : Nat) (f : CoreState → CoreState) : (s.modCore n f).control = s.control := rfl
@[simp] theorem State.modCore_demands (s : State) (n : Nat) (f : CoreState → CoreState) : (s.modCore n f).demands = s.demands := rfl
@[simp] theorem State.modCore_sendq (s : State) (n : Nat) (f : CoreState → CoreState) : (s.modCore n f).sendq = s.sendq := rfl
@[simp] theorem State.modCore_recvq (s : State) (n : Nat) (f : CoreState → CoreState) : (s.modCore n f).recvq = s.recvq := rfl
@[simp] theorem State.modCore_messages (s : State) (n : Nat) (f : CoreState → CoreState) : (s.modCore n f).messages = s.messages := rfl
@[simp] theorem State.modCore_boot (s : State) (n : Nat) (f : CoreState → CoreState) : (s.modCore n f).boot = s.boot := rfl
@[simp] theorem State.modCore_conf (s : State) (n : Nat) (f : CoreState → CoreState) : (s.modCore n f).conf = s.conf := rfl
@[simp] theorem State.modCore_q0ring (s : State) (n : Nat) (f : CoreState → CoreState) : (s.modCore n f).q0ring = s.q0ring := rfl
@[simp] theorem State.modCore_powerCap (s : State) (n : Nat) (f : CoreState → CoreState) : (s.modCore n f).powerCap = s.powerCap := rfl
@[simp] theorem State.modCore_spdm (s : State) (n : Nat) (f : CoreState → CoreState) : (s.modCore n f).spdm = s.spdm := rfl
@[simp] theorem State.modCore_irqs (s : State) (n : Nat) (f : CoreState → CoreState) : (s.modCore n f).irqs = s.irqs := rfl
@[simp] theorem State.modCore_pins (s : State) (n : Nat) (f : CoreState → CoreState) : (s.modCore n f).pins = s.pins := rfl
@[simp] theorem State.modCore_refusals (s : State) (n : Nat) (f : CoreState → CoreState) : (s.modCore n f).refusals = s.refusals := rfl
@[simp] theorem State.modCore_fuses (s : State) (n : Nat) (f : CoreState → CoreState) : (s.modCore n f).fuses = s.fuses := rfl
@[simp] theorem State.modCore_firmware (s : State) (n : Nat) (f : CoreState → CoreState) : (s.modCore n f).firmware = s.firmware := rfl
@[simp] theorem State.modCore_throttle (s : State) (n : Nat) (f : CoreState → CoreState) : (s.modCore n f).throttle = s.throttle := rfl
@[simp] theorem State.modCore_throttleSince (s : State) (n : Nat) (f : CoreState → CoreState) : (s.modCore n f).throttleSince = s.throttleSince := rfl

@[simp] theorem State.modExtent_tick (s : State) (n : Nat) (f : Extent → Extent) : (s.modExtent n f).tick = s.tick := rfl
@[simp] theorem State.modExtent_serial (s : State) (n : Nat) (f : Extent → Extent) : (s.modExtent n f).serial = s.serial := rfl
@[simp] theorem State.modExtent_agenda (s : State) (n : Nat) (f : Extent → Extent) : (s.modExtent n f).agenda = s.agenda := rfl
@[simp] theorem State.modExtent_focus (s : State) (n : Nat) (f : Extent → Extent) : (s.modExtent n f).focus = s.focus := rfl
@[simp] theorem State.modExtent_fresh (s : State) (n : Nat) (f : Extent → Extent) : (s.modExtent n f).fresh = s.fresh := rfl
@[simp] theorem State.modExtent_dispatchDue (s : State) (n : Nat) (f : Extent → Extent) : (s.modExtent n f).dispatchDue = s.dispatchDue := rfl
@[simp] theorem State.modExtent_groups (s : State) (n : Nat) (f : Extent → Extent) : (s.modExtent n f).groups = s.groups := rfl
@[simp] theorem State.modExtent_teams (s : State) (n : Nat) (f : Extent → Extent) : (s.modExtent n f).teams = s.teams := rfl
@[simp] theorem State.modExtent_launches (s : State) (n : Nat) (f : Extent → Extent) : (s.modExtent n f).launches = s.launches := rfl
@[simp] theorem State.modExtent_ctxs (s : State) (n : Nat) (f : Extent → Extent) : (s.modExtent n f).ctxs = s.ctxs := rfl
@[simp] theorem State.modExtent_parts (s : State) (n : Nat) (f : Extent → Extent) : (s.modExtent n f).parts = s.parts := rfl
@[simp] theorem State.modExtent_queues (s : State) (n : Nat) (f : Extent → Extent) : (s.modExtent n f).queues = s.queues := rfl
@[simp] theorem State.modExtent_cores (s : State) (n : Nat) (f : Extent → Extent) : (s.modExtent n f).cores = s.cores := rfl
@[simp] theorem State.modExtent_vacations (s : State) (n : Nat) (f : Extent → Extent) : (s.modExtent n f).vacations = s.vacations := rfl
@[simp] theorem State.modExtent_image (s : State) (n : Nat) (f : Extent → Extent) : (s.modExtent n f).image = s.image := rfl
@[simp] theorem State.modExtent_pending (s : State) (n : Nat) (f : Extent → Extent) : (s.modExtent n f).pending = s.pending := rfl
@[simp] theorem State.modExtent_wcb (s : State) (n : Nat) (f : Extent → Extent) : (s.modExtent n f).wcb = s.wcb := rfl
@[simp] theorem State.modExtent_l1 (s : State) (n : Nat) (f : Extent → Extent) : (s.modExtent n f).l1 = s.l1 := rfl
@[simp] theorem State.modExtent_tlb (s : State) (n : Nat) (f : Extent → Extent) : (s.modExtent n f).tlb = s.tlb := rfl
@[simp] theorem State.modExtent_marks (s : State) (n : Nat) (f : Extent → Extent) : (s.modExtent n f).marks = s.marks := rfl
@[simp] theorem State.modExtent_holders (s : State) (n : Nat) (f : Extent → Extent) : (s.modExtent n f).holders = s.holders := rfl
@[simp] theorem State.modExtent_pubs (s : State) (n : Nat) (f : Extent → Extent) : (s.modExtent n f).pubs = s.pubs := rfl
@[simp] theorem State.modExtent_texts (s : State) (n : Nat) (f : Extent → Extent) : (s.modExtent n f).texts = s.texts := rfl
@[simp] theorem State.modExtent_lost (s : State) (n : Nat) (f : Extent → Extent) : (s.modExtent n f).lost = s.lost := rfl
@[simp] theorem State.modExtent_hostMem (s : State) (n : Nat) (f : Extent → Extent) : (s.modExtent n f).hostMem = s.hostMem := rfl
@[simp] theorem State.modExtent_segments (s : State) (n : Nat) (f : Extent → Extent) : (s.modExtent n f).segments = s.segments := rfl
@[simp] theorem State.modExtent_seals (s : State) (n : Nat) (f : Extent → Extent) : (s.modExtent n f).seals = s.seals := rfl
@[simp] theorem State.modExtent_dirty (s : State) (n : Nat) (f : Extent → Extent) : (s.modExtent n f).dirty = s.dirty := rfl
@[simp] theorem State.modExtent_peers (s : State) (n : Nat) (f : Extent → Extent) : (s.modExtent n f).peers = s.peers := rfl
@[simp] theorem State.modExtent_ships (s : State) (n : Nat) (f : Extent → Extent) : (s.modExtent n f).ships = s.ships := rfl
@[simp] theorem State.modExtent_ops (s : State) (n : Nat) (f : Extent → Extent) : (s.modExtent n f).ops = s.ops := rfl
@[simp] theorem State.modExtent_monitors (s : State) (n : Nat) (f : Extent → Extent) : (s.modExtent n f).monitors = s.monitors := rfl
@[simp] theorem State.modExtent_shoots (s : State) (n : Nat) (f : Extent → Extent) : (s.modExtent n f).shoots = s.shoots := rfl
@[simp] theorem State.modExtent_calls (s : State) (n : Nat) (f : Extent → Extent) : (s.modExtent n f).calls = s.calls := rfl
@[simp] theorem State.modExtent_dmus (s : State) (n : Nat) (f : Extent → Extent) : (s.modExtent n f).dmus = s.dmus := rfl
@[simp] theorem State.modExtent_sent (s : State) (n : Nat) (f : Extent → Extent) : (s.modExtent n f).sent = s.sent := rfl
@[simp] theorem State.modExtent_flows (s : State) (n : Nat) (f : Extent → Extent) : (s.modExtent n f).flows = s.flows := rfl
@[simp] theorem State.modExtent_awaiting (s : State) (n : Nat) (f : Extent → Extent) : (s.modExtent n f).awaiting = s.awaiting := rfl
@[simp] theorem State.modExtent_linkErrors (s : State) (n : Nat) (f : Extent → Extent) : (s.modExtent n f).linkErrors = s.linkErrors := rfl
@[simp] theorem State.modExtent_dueIn (s : State) (n : Nat) (f : Extent → Extent) : (s.modExtent n f).dueIn = s.dueIn := rfl
@[simp] theorem State.modExtent_roots (s : State) (n : Nat) (f : Extent → Extent) : (s.modExtent n f).roots = s.roots := rfl
@[simp] theorem State.modExtent_leaves (s : State) (n : Nat) (f : Extent → Extent) : (s.modExtent n f).leaves = s.leaves := rfl
@[simp] theorem State.modExtent_preds (s : State) (n : Nat) (f : Extent → Extent) : (s.modExtent n f).preds = s.preds := rfl
@[simp] theorem State.modExtent_l2 (s : State) (n : Nat) (f : Extent → Extent) : (s.modExtent n f).l2 = s.l2 := rfl
@[simp] theorem State.modExtent_ilc (s : State) (n : Nat) (f : Extent → Extent) : (s.modExtent n f).ilc = s.ilc := rfl
@[simp] theorem State.modExtent_seqs (s : State) (n : Nat) (f : Extent → Extent) : (s.modExtent n f).seqs = s.seqs := rfl
@[simp] theorem State.modExtent_control (s : State) (n : Nat) (f : Extent → Extent) : (s.modExtent n f).control = s.control := rfl
@[simp] theorem State.modExtent_demands (s : State) (n : Nat) (f : Extent → Extent) : (s.modExtent n f).demands = s.demands := rfl
@[simp] theorem State.modExtent_sendq (s : State) (n : Nat) (f : Extent → Extent) : (s.modExtent n f).sendq = s.sendq := rfl
@[simp] theorem State.modExtent_recvq (s : State) (n : Nat) (f : Extent → Extent) : (s.modExtent n f).recvq = s.recvq := rfl
@[simp] theorem State.modExtent_messages (s : State) (n : Nat) (f : Extent → Extent) : (s.modExtent n f).messages = s.messages := rfl
@[simp] theorem State.modExtent_boot (s : State) (n : Nat) (f : Extent → Extent) : (s.modExtent n f).boot = s.boot := rfl
@[simp] theorem State.modExtent_conf (s : State) (n : Nat) (f : Extent → Extent) : (s.modExtent n f).conf = s.conf := rfl
@[simp] theorem State.modExtent_q0ring (s : State) (n : Nat) (f : Extent → Extent) : (s.modExtent n f).q0ring = s.q0ring := rfl
@[simp] theorem State.modExtent_powerCap (s : State) (n : Nat) (f : Extent → Extent) : (s.modExtent n f).powerCap = s.powerCap := rfl
@[simp] theorem State.modExtent_spdm (s : State) (n : Nat) (f : Extent → Extent) : (s.modExtent n f).spdm = s.spdm := rfl
@[simp] theorem State.modExtent_irqs (s : State) (n : Nat) (f : Extent → Extent) : (s.modExtent n f).irqs = s.irqs := rfl
@[simp] theorem State.modExtent_pins (s : State) (n : Nat) (f : Extent → Extent) : (s.modExtent n f).pins = s.pins := rfl
@[simp] theorem State.modExtent_refusals (s : State) (n : Nat) (f : Extent → Extent) : (s.modExtent n f).refusals = s.refusals := rfl
@[simp] theorem State.modExtent_fuses (s : State) (n : Nat) (f : Extent → Extent) : (s.modExtent n f).fuses = s.fuses := rfl
@[simp] theorem State.modExtent_firmware (s : State) (n : Nat) (f : Extent → Extent) : (s.modExtent n f).firmware = s.firmware := rfl
@[simp] theorem State.modExtent_throttle (s : State) (n : Nat) (f : Extent → Extent) : (s.modExtent n f).throttle = s.throttle := rfl
@[simp] theorem State.modExtent_throttleSince (s : State) (n : Nat) (f : Extent → Extent) : (s.modExtent n f).throttleSince = s.throttleSince := rfl

@[simp] theorem State.modBarrier_tick (s : State) (tid i : Nat) (f : Barrier → Barrier) : (s.modBarrier tid i f).tick = s.tick := rfl
@[simp] theorem State.modBarrier_serial (s : State) (tid i : Nat) (f : Barrier → Barrier) : (s.modBarrier tid i f).serial = s.serial := rfl
@[simp] theorem State.modBarrier_agenda (s : State) (tid i : Nat) (f : Barrier → Barrier) : (s.modBarrier tid i f).agenda = s.agenda := rfl
@[simp] theorem State.modBarrier_focus (s : State) (tid i : Nat) (f : Barrier → Barrier) : (s.modBarrier tid i f).focus = s.focus := rfl
@[simp] theorem State.modBarrier_fresh (s : State) (tid i : Nat) (f : Barrier → Barrier) : (s.modBarrier tid i f).fresh = s.fresh := rfl
@[simp] theorem State.modBarrier_dispatchDue (s : State) (tid i : Nat) (f : Barrier → Barrier) : (s.modBarrier tid i f).dispatchDue = s.dispatchDue := rfl
@[simp] theorem State.modBarrier_groups (s : State) (tid i : Nat) (f : Barrier → Barrier) : (s.modBarrier tid i f).groups = s.groups := rfl
@[simp] theorem State.modBarrier_launches (s : State) (tid i : Nat) (f : Barrier → Barrier) : (s.modBarrier tid i f).launches = s.launches := rfl
@[simp] theorem State.modBarrier_ctxs (s : State) (tid i : Nat) (f : Barrier → Barrier) : (s.modBarrier tid i f).ctxs = s.ctxs := rfl
@[simp] theorem State.modBarrier_parts (s : State) (tid i : Nat) (f : Barrier → Barrier) : (s.modBarrier tid i f).parts = s.parts := rfl
@[simp] theorem State.modBarrier_queues (s : State) (tid i : Nat) (f : Barrier → Barrier) : (s.modBarrier tid i f).queues = s.queues := rfl
@[simp] theorem State.modBarrier_cores (s : State) (tid i : Nat) (f : Barrier → Barrier) : (s.modBarrier tid i f).cores = s.cores := rfl
@[simp] theorem State.modBarrier_vacations (s : State) (tid i : Nat) (f : Barrier → Barrier) : (s.modBarrier tid i f).vacations = s.vacations := rfl
@[simp] theorem State.modBarrier_image (s : State) (tid i : Nat) (f : Barrier → Barrier) : (s.modBarrier tid i f).image = s.image := rfl
@[simp] theorem State.modBarrier_pending (s : State) (tid i : Nat) (f : Barrier → Barrier) : (s.modBarrier tid i f).pending = s.pending := rfl
@[simp] theorem State.modBarrier_wcb (s : State) (tid i : Nat) (f : Barrier → Barrier) : (s.modBarrier tid i f).wcb = s.wcb := rfl
@[simp] theorem State.modBarrier_l1 (s : State) (tid i : Nat) (f : Barrier → Barrier) : (s.modBarrier tid i f).l1 = s.l1 := rfl
@[simp] theorem State.modBarrier_tlb (s : State) (tid i : Nat) (f : Barrier → Barrier) : (s.modBarrier tid i f).tlb = s.tlb := rfl
@[simp] theorem State.modBarrier_marks (s : State) (tid i : Nat) (f : Barrier → Barrier) : (s.modBarrier tid i f).marks = s.marks := rfl
@[simp] theorem State.modBarrier_holders (s : State) (tid i : Nat) (f : Barrier → Barrier) : (s.modBarrier tid i f).holders = s.holders := rfl
@[simp] theorem State.modBarrier_pubs (s : State) (tid i : Nat) (f : Barrier → Barrier) : (s.modBarrier tid i f).pubs = s.pubs := rfl
@[simp] theorem State.modBarrier_texts (s : State) (tid i : Nat) (f : Barrier → Barrier) : (s.modBarrier tid i f).texts = s.texts := rfl
@[simp] theorem State.modBarrier_lost (s : State) (tid i : Nat) (f : Barrier → Barrier) : (s.modBarrier tid i f).lost = s.lost := rfl
@[simp] theorem State.modBarrier_hostMem (s : State) (tid i : Nat) (f : Barrier → Barrier) : (s.modBarrier tid i f).hostMem = s.hostMem := rfl
@[simp] theorem State.modBarrier_extents (s : State) (tid i : Nat) (f : Barrier → Barrier) : (s.modBarrier tid i f).extents = s.extents := rfl
@[simp] theorem State.modBarrier_segments (s : State) (tid i : Nat) (f : Barrier → Barrier) : (s.modBarrier tid i f).segments = s.segments := rfl
@[simp] theorem State.modBarrier_seals (s : State) (tid i : Nat) (f : Barrier → Barrier) : (s.modBarrier tid i f).seals = s.seals := rfl
@[simp] theorem State.modBarrier_dirty (s : State) (tid i : Nat) (f : Barrier → Barrier) : (s.modBarrier tid i f).dirty = s.dirty := rfl
@[simp] theorem State.modBarrier_peers (s : State) (tid i : Nat) (f : Barrier → Barrier) : (s.modBarrier tid i f).peers = s.peers := rfl
@[simp] theorem State.modBarrier_ships (s : State) (tid i : Nat) (f : Barrier → Barrier) : (s.modBarrier tid i f).ships = s.ships := rfl
@[simp] theorem State.modBarrier_ops (s : State) (tid i : Nat) (f : Barrier → Barrier) : (s.modBarrier tid i f).ops = s.ops := rfl
@[simp] theorem State.modBarrier_monitors (s : State) (tid i : Nat) (f : Barrier → Barrier) : (s.modBarrier tid i f).monitors = s.monitors := rfl
@[simp] theorem State.modBarrier_shoots (s : State) (tid i : Nat) (f : Barrier → Barrier) : (s.modBarrier tid i f).shoots = s.shoots := rfl
@[simp] theorem State.modBarrier_calls (s : State) (tid i : Nat) (f : Barrier → Barrier) : (s.modBarrier tid i f).calls = s.calls := rfl
@[simp] theorem State.modBarrier_dmus (s : State) (tid i : Nat) (f : Barrier → Barrier) : (s.modBarrier tid i f).dmus = s.dmus := rfl
@[simp] theorem State.modBarrier_sent (s : State) (tid i : Nat) (f : Barrier → Barrier) : (s.modBarrier tid i f).sent = s.sent := rfl
@[simp] theorem State.modBarrier_flows (s : State) (tid i : Nat) (f : Barrier → Barrier) : (s.modBarrier tid i f).flows = s.flows := rfl
@[simp] theorem State.modBarrier_awaiting (s : State) (tid i : Nat) (f : Barrier → Barrier) : (s.modBarrier tid i f).awaiting = s.awaiting := rfl
@[simp] theorem State.modBarrier_linkErrors (s : State) (tid i : Nat) (f : Barrier → Barrier) : (s.modBarrier tid i f).linkErrors = s.linkErrors := rfl
@[simp] theorem State.modBarrier_dueIn (s : State) (tid i : Nat) (f : Barrier → Barrier) : (s.modBarrier tid i f).dueIn = s.dueIn := rfl
@[simp] theorem State.modBarrier_roots (s : State) (tid i : Nat) (f : Barrier → Barrier) : (s.modBarrier tid i f).roots = s.roots := rfl
@[simp] theorem State.modBarrier_leaves (s : State) (tid i : Nat) (f : Barrier → Barrier) : (s.modBarrier tid i f).leaves = s.leaves := rfl
@[simp] theorem State.modBarrier_preds (s : State) (tid i : Nat) (f : Barrier → Barrier) : (s.modBarrier tid i f).preds = s.preds := rfl
@[simp] theorem State.modBarrier_l2 (s : State) (tid i : Nat) (f : Barrier → Barrier) : (s.modBarrier tid i f).l2 = s.l2 := rfl
@[simp] theorem State.modBarrier_ilc (s : State) (tid i : Nat) (f : Barrier → Barrier) : (s.modBarrier tid i f).ilc = s.ilc := rfl
@[simp] theorem State.modBarrier_seqs (s : State) (tid i : Nat) (f : Barrier → Barrier) : (s.modBarrier tid i f).seqs = s.seqs := rfl
@[simp] theorem State.modBarrier_control (s : State) (tid i : Nat) (f : Barrier → Barrier) : (s.modBarrier tid i f).control = s.control := rfl
@[simp] theorem State.modBarrier_demands (s : State) (tid i : Nat) (f : Barrier → Barrier) : (s.modBarrier tid i f).demands = s.demands := rfl
@[simp] theorem State.modBarrier_sendq (s : State) (tid i : Nat) (f : Barrier → Barrier) : (s.modBarrier tid i f).sendq = s.sendq := rfl
@[simp] theorem State.modBarrier_recvq (s : State) (tid i : Nat) (f : Barrier → Barrier) : (s.modBarrier tid i f).recvq = s.recvq := rfl
@[simp] theorem State.modBarrier_messages (s : State) (tid i : Nat) (f : Barrier → Barrier) : (s.modBarrier tid i f).messages = s.messages := rfl
@[simp] theorem State.modBarrier_boot (s : State) (tid i : Nat) (f : Barrier → Barrier) : (s.modBarrier tid i f).boot = s.boot := rfl
@[simp] theorem State.modBarrier_conf (s : State) (tid i : Nat) (f : Barrier → Barrier) : (s.modBarrier tid i f).conf = s.conf := rfl
@[simp] theorem State.modBarrier_q0ring (s : State) (tid i : Nat) (f : Barrier → Barrier) : (s.modBarrier tid i f).q0ring = s.q0ring := rfl
@[simp] theorem State.modBarrier_powerCap (s : State) (tid i : Nat) (f : Barrier → Barrier) : (s.modBarrier tid i f).powerCap = s.powerCap := rfl
@[simp] theorem State.modBarrier_spdm (s : State) (tid i : Nat) (f : Barrier → Barrier) : (s.modBarrier tid i f).spdm = s.spdm := rfl
@[simp] theorem State.modBarrier_irqs (s : State) (tid i : Nat) (f : Barrier → Barrier) : (s.modBarrier tid i f).irqs = s.irqs := rfl
@[simp] theorem State.modBarrier_pins (s : State) (tid i : Nat) (f : Barrier → Barrier) : (s.modBarrier tid i f).pins = s.pins := rfl
@[simp] theorem State.modBarrier_refusals (s : State) (tid i : Nat) (f : Barrier → Barrier) : (s.modBarrier tid i f).refusals = s.refusals := rfl
@[simp] theorem State.modBarrier_fuses (s : State) (tid i : Nat) (f : Barrier → Barrier) : (s.modBarrier tid i f).fuses = s.fuses := rfl
@[simp] theorem State.modBarrier_firmware (s : State) (tid i : Nat) (f : Barrier → Barrier) : (s.modBarrier tid i f).firmware = s.firmware := rfl
@[simp] theorem State.modBarrier_throttle (s : State) (tid i : Nat) (f : Barrier → Barrier) : (s.modBarrier tid i f).throttle = s.throttle := rfl
@[simp] theorem State.modBarrier_throttleSince (s : State) (tid i : Nat) (f : Barrier → Barrier) : (s.modBarrier tid i f).throttleSince = s.throttleSince := rfl

@[simp] theorem State.setPub_tick (s : State) (slot : Nat) : (s.setPub slot).tick = s.tick := rfl
@[simp] theorem State.setPub_serial (s : State) (slot : Nat) : (s.setPub slot).serial = s.serial := rfl
@[simp] theorem State.setPub_agenda (s : State) (slot : Nat) : (s.setPub slot).agenda = s.agenda := rfl
@[simp] theorem State.setPub_focus (s : State) (slot : Nat) : (s.setPub slot).focus = s.focus := rfl
@[simp] theorem State.setPub_fresh (s : State) (slot : Nat) : (s.setPub slot).fresh = s.fresh := rfl
@[simp] theorem State.setPub_dispatchDue (s : State) (slot : Nat) : (s.setPub slot).dispatchDue = s.dispatchDue := rfl
@[simp] theorem State.setPub_groups (s : State) (slot : Nat) : (s.setPub slot).groups = s.groups := rfl
@[simp] theorem State.setPub_launches (s : State) (slot : Nat) : (s.setPub slot).launches = s.launches := rfl
@[simp] theorem State.setPub_ctxs (s : State) (slot : Nat) : (s.setPub slot).ctxs = s.ctxs := rfl
@[simp] theorem State.setPub_parts (s : State) (slot : Nat) : (s.setPub slot).parts = s.parts := rfl
@[simp] theorem State.setPub_queues (s : State) (slot : Nat) : (s.setPub slot).queues = s.queues := rfl
@[simp] theorem State.setPub_cores (s : State) (slot : Nat) : (s.setPub slot).cores = s.cores := rfl
@[simp] theorem State.setPub_vacations (s : State) (slot : Nat) : (s.setPub slot).vacations = s.vacations := rfl
@[simp] theorem State.setPub_image (s : State) (slot : Nat) : (s.setPub slot).image = s.image := rfl
@[simp] theorem State.setPub_pending (s : State) (slot : Nat) : (s.setPub slot).pending = s.pending := rfl
@[simp] theorem State.setPub_wcb (s : State) (slot : Nat) : (s.setPub slot).wcb = s.wcb := rfl
@[simp] theorem State.setPub_l1 (s : State) (slot : Nat) : (s.setPub slot).l1 = s.l1 := rfl
@[simp] theorem State.setPub_tlb (s : State) (slot : Nat) : (s.setPub slot).tlb = s.tlb := rfl
@[simp] theorem State.setPub_marks (s : State) (slot : Nat) : (s.setPub slot).marks = s.marks := rfl
@[simp] theorem State.setPub_holders (s : State) (slot : Nat) : (s.setPub slot).holders = s.holders := rfl
@[simp] theorem State.setPub_pubs (s : State) (slot : Nat) : (s.setPub slot).pubs = s.pubs := rfl
@[simp] theorem State.setPub_texts (s : State) (slot : Nat) : (s.setPub slot).texts = s.texts := rfl
@[simp] theorem State.setPub_lost (s : State) (slot : Nat) : (s.setPub slot).lost = s.lost := rfl
@[simp] theorem State.setPub_hostMem (s : State) (slot : Nat) : (s.setPub slot).hostMem = s.hostMem := rfl
@[simp] theorem State.setPub_extents (s : State) (slot : Nat) : (s.setPub slot).extents = s.extents := rfl
@[simp] theorem State.setPub_segments (s : State) (slot : Nat) : (s.setPub slot).segments = s.segments := rfl
@[simp] theorem State.setPub_seals (s : State) (slot : Nat) : (s.setPub slot).seals = s.seals := rfl
@[simp] theorem State.setPub_dirty (s : State) (slot : Nat) : (s.setPub slot).dirty = s.dirty := rfl
@[simp] theorem State.setPub_peers (s : State) (slot : Nat) : (s.setPub slot).peers = s.peers := rfl
@[simp] theorem State.setPub_ships (s : State) (slot : Nat) : (s.setPub slot).ships = s.ships := rfl
@[simp] theorem State.setPub_ops (s : State) (slot : Nat) : (s.setPub slot).ops = s.ops := rfl
@[simp] theorem State.setPub_monitors (s : State) (slot : Nat) : (s.setPub slot).monitors = s.monitors := rfl
@[simp] theorem State.setPub_shoots (s : State) (slot : Nat) : (s.setPub slot).shoots = s.shoots := rfl
@[simp] theorem State.setPub_calls (s : State) (slot : Nat) : (s.setPub slot).calls = s.calls := rfl
@[simp] theorem State.setPub_dmus (s : State) (slot : Nat) : (s.setPub slot).dmus = s.dmus := rfl
@[simp] theorem State.setPub_sent (s : State) (slot : Nat) : (s.setPub slot).sent = s.sent := rfl
@[simp] theorem State.setPub_flows (s : State) (slot : Nat) : (s.setPub slot).flows = s.flows := rfl
@[simp] theorem State.setPub_awaiting (s : State) (slot : Nat) : (s.setPub slot).awaiting = s.awaiting := rfl
@[simp] theorem State.setPub_linkErrors (s : State) (slot : Nat) : (s.setPub slot).linkErrors = s.linkErrors := rfl
@[simp] theorem State.setPub_dueIn (s : State) (slot : Nat) : (s.setPub slot).dueIn = s.dueIn := rfl
@[simp] theorem State.setPub_roots (s : State) (slot : Nat) : (s.setPub slot).roots = s.roots := rfl
@[simp] theorem State.setPub_leaves (s : State) (slot : Nat) : (s.setPub slot).leaves = s.leaves := rfl
@[simp] theorem State.setPub_preds (s : State) (slot : Nat) : (s.setPub slot).preds = s.preds := rfl
@[simp] theorem State.setPub_l2 (s : State) (slot : Nat) : (s.setPub slot).l2 = s.l2 := rfl
@[simp] theorem State.setPub_ilc (s : State) (slot : Nat) : (s.setPub slot).ilc = s.ilc := rfl
@[simp] theorem State.setPub_seqs (s : State) (slot : Nat) : (s.setPub slot).seqs = s.seqs := rfl
@[simp] theorem State.setPub_control (s : State) (slot : Nat) : (s.setPub slot).control = s.control := rfl
@[simp] theorem State.setPub_demands (s : State) (slot : Nat) : (s.setPub slot).demands = s.demands := rfl
@[simp] theorem State.setPub_sendq (s : State) (slot : Nat) : (s.setPub slot).sendq = s.sendq := rfl
@[simp] theorem State.setPub_recvq (s : State) (slot : Nat) : (s.setPub slot).recvq = s.recvq := rfl
@[simp] theorem State.setPub_messages (s : State) (slot : Nat) : (s.setPub slot).messages = s.messages := rfl
@[simp] theorem State.setPub_boot (s : State) (slot : Nat) : (s.setPub slot).boot = s.boot := rfl
@[simp] theorem State.setPub_conf (s : State) (slot : Nat) : (s.setPub slot).conf = s.conf := rfl
@[simp] theorem State.setPub_q0ring (s : State) (slot : Nat) : (s.setPub slot).q0ring = s.q0ring := rfl
@[simp] theorem State.setPub_powerCap (s : State) (slot : Nat) : (s.setPub slot).powerCap = s.powerCap := rfl
@[simp] theorem State.setPub_spdm (s : State) (slot : Nat) : (s.setPub slot).spdm = s.spdm := rfl
@[simp] theorem State.setPub_irqs (s : State) (slot : Nat) : (s.setPub slot).irqs = s.irqs := rfl
@[simp] theorem State.setPub_pins (s : State) (slot : Nat) : (s.setPub slot).pins = s.pins := rfl
@[simp] theorem State.setPub_refusals (s : State) (slot : Nat) : (s.setPub slot).refusals = s.refusals := rfl
@[simp] theorem State.setPub_fuses (s : State) (slot : Nat) : (s.setPub slot).fuses = s.fuses := rfl
@[simp] theorem State.setPub_firmware (s : State) (slot : Nat) : (s.setPub slot).firmware = s.firmware := rfl
@[simp] theorem State.setPub_throttle (s : State) (slot : Nat) : (s.setPub slot).throttle = s.throttle := rfl
@[simp] theorem State.setPub_throttleSince (s : State) (slot : Nat) : (s.setPub slot).throttleSince = s.throttleSince := rfl

@[simp] theorem State.setPending_tick (s : State) (slot : Nat) (b : Overlay) : (s.setPending slot b).tick = s.tick := rfl
@[simp] theorem State.setPending_serial (s : State) (slot : Nat) (b : Overlay) : (s.setPending slot b).serial = s.serial := rfl
@[simp] theorem State.setPending_agenda (s : State) (slot : Nat) (b : Overlay) : (s.setPending slot b).agenda = s.agenda := rfl
@[simp] theorem State.setPending_focus (s : State) (slot : Nat) (b : Overlay) : (s.setPending slot b).focus = s.focus := rfl
@[simp] theorem State.setPending_fresh (s : State) (slot : Nat) (b : Overlay) : (s.setPending slot b).fresh = s.fresh := rfl
@[simp] theorem State.setPending_dispatchDue (s : State) (slot : Nat) (b : Overlay) : (s.setPending slot b).dispatchDue = s.dispatchDue := rfl
@[simp] theorem State.setPending_groups (s : State) (slot : Nat) (b : Overlay) : (s.setPending slot b).groups = s.groups := rfl
@[simp] theorem State.setPending_teams (s : State) (slot : Nat) (b : Overlay) : (s.setPending slot b).teams = s.teams := rfl
@[simp] theorem State.setPending_launches (s : State) (slot : Nat) (b : Overlay) : (s.setPending slot b).launches = s.launches := rfl
@[simp] theorem State.setPending_ctxs (s : State) (slot : Nat) (b : Overlay) : (s.setPending slot b).ctxs = s.ctxs := rfl
@[simp] theorem State.setPending_parts (s : State) (slot : Nat) (b : Overlay) : (s.setPending slot b).parts = s.parts := rfl
@[simp] theorem State.setPending_queues (s : State) (slot : Nat) (b : Overlay) : (s.setPending slot b).queues = s.queues := rfl
@[simp] theorem State.setPending_cores (s : State) (slot : Nat) (b : Overlay) : (s.setPending slot b).cores = s.cores := rfl
@[simp] theorem State.setPending_vacations (s : State) (slot : Nat) (b : Overlay) : (s.setPending slot b).vacations = s.vacations := rfl
@[simp] theorem State.setPending_image (s : State) (slot : Nat) (b : Overlay) : (s.setPending slot b).image = s.image := rfl
@[simp] theorem State.setPending_wcb (s : State) (slot : Nat) (b : Overlay) : (s.setPending slot b).wcb = s.wcb := rfl
@[simp] theorem State.setPending_l1 (s : State) (slot : Nat) (b : Overlay) : (s.setPending slot b).l1 = s.l1 := rfl
@[simp] theorem State.setPending_tlb (s : State) (slot : Nat) (b : Overlay) : (s.setPending slot b).tlb = s.tlb := rfl
@[simp] theorem State.setPending_marks (s : State) (slot : Nat) (b : Overlay) : (s.setPending slot b).marks = s.marks := rfl
@[simp] theorem State.setPending_holders (s : State) (slot : Nat) (b : Overlay) : (s.setPending slot b).holders = s.holders := rfl
@[simp] theorem State.setPending_pubs (s : State) (slot : Nat) (b : Overlay) : (s.setPending slot b).pubs = s.pubs := rfl
@[simp] theorem State.setPending_texts (s : State) (slot : Nat) (b : Overlay) : (s.setPending slot b).texts = s.texts := rfl
@[simp] theorem State.setPending_lost (s : State) (slot : Nat) (b : Overlay) : (s.setPending slot b).lost = s.lost := rfl
@[simp] theorem State.setPending_hostMem (s : State) (slot : Nat) (b : Overlay) : (s.setPending slot b).hostMem = s.hostMem := rfl
@[simp] theorem State.setPending_extents (s : State) (slot : Nat) (b : Overlay) : (s.setPending slot b).extents = s.extents := rfl
@[simp] theorem State.setPending_segments (s : State) (slot : Nat) (b : Overlay) : (s.setPending slot b).segments = s.segments := rfl
@[simp] theorem State.setPending_seals (s : State) (slot : Nat) (b : Overlay) : (s.setPending slot b).seals = s.seals := rfl
@[simp] theorem State.setPending_dirty (s : State) (slot : Nat) (b : Overlay) : (s.setPending slot b).dirty = s.dirty := rfl
@[simp] theorem State.setPending_peers (s : State) (slot : Nat) (b : Overlay) : (s.setPending slot b).peers = s.peers := rfl
@[simp] theorem State.setPending_ships (s : State) (slot : Nat) (b : Overlay) : (s.setPending slot b).ships = s.ships := rfl
@[simp] theorem State.setPending_ops (s : State) (slot : Nat) (b : Overlay) : (s.setPending slot b).ops = s.ops := rfl
@[simp] theorem State.setPending_monitors (s : State) (slot : Nat) (b : Overlay) : (s.setPending slot b).monitors = s.monitors := rfl
@[simp] theorem State.setPending_shoots (s : State) (slot : Nat) (b : Overlay) : (s.setPending slot b).shoots = s.shoots := rfl
@[simp] theorem State.setPending_calls (s : State) (slot : Nat) (b : Overlay) : (s.setPending slot b).calls = s.calls := rfl
@[simp] theorem State.setPending_dmus (s : State) (slot : Nat) (b : Overlay) : (s.setPending slot b).dmus = s.dmus := rfl
@[simp] theorem State.setPending_sent (s : State) (slot : Nat) (b : Overlay) : (s.setPending slot b).sent = s.sent := rfl
@[simp] theorem State.setPending_flows (s : State) (slot : Nat) (b : Overlay) : (s.setPending slot b).flows = s.flows := rfl
@[simp] theorem State.setPending_awaiting (s : State) (slot : Nat) (b : Overlay) : (s.setPending slot b).awaiting = s.awaiting := rfl
@[simp] theorem State.setPending_linkErrors (s : State) (slot : Nat) (b : Overlay) : (s.setPending slot b).linkErrors = s.linkErrors := rfl
@[simp] theorem State.setPending_dueIn (s : State) (slot : Nat) (b : Overlay) : (s.setPending slot b).dueIn = s.dueIn := rfl
@[simp] theorem State.setPending_roots (s : State) (slot : Nat) (b : Overlay) : (s.setPending slot b).roots = s.roots := rfl
@[simp] theorem State.setPending_leaves (s : State) (slot : Nat) (b : Overlay) : (s.setPending slot b).leaves = s.leaves := rfl
@[simp] theorem State.setPending_preds (s : State) (slot : Nat) (b : Overlay) : (s.setPending slot b).preds = s.preds := rfl
@[simp] theorem State.setPending_l2 (s : State) (slot : Nat) (b : Overlay) : (s.setPending slot b).l2 = s.l2 := rfl
@[simp] theorem State.setPending_ilc (s : State) (slot : Nat) (b : Overlay) : (s.setPending slot b).ilc = s.ilc := rfl
@[simp] theorem State.setPending_seqs (s : State) (slot : Nat) (b : Overlay) : (s.setPending slot b).seqs = s.seqs := rfl
@[simp] theorem State.setPending_control (s : State) (slot : Nat) (b : Overlay) : (s.setPending slot b).control = s.control := rfl
@[simp] theorem State.setPending_demands (s : State) (slot : Nat) (b : Overlay) : (s.setPending slot b).demands = s.demands := rfl
@[simp] theorem State.setPending_sendq (s : State) (slot : Nat) (b : Overlay) : (s.setPending slot b).sendq = s.sendq := rfl
@[simp] theorem State.setPending_recvq (s : State) (slot : Nat) (b : Overlay) : (s.setPending slot b).recvq = s.recvq := rfl
@[simp] theorem State.setPending_messages (s : State) (slot : Nat) (b : Overlay) : (s.setPending slot b).messages = s.messages := rfl
@[simp] theorem State.setPending_boot (s : State) (slot : Nat) (b : Overlay) : (s.setPending slot b).boot = s.boot := rfl
@[simp] theorem State.setPending_conf (s : State) (slot : Nat) (b : Overlay) : (s.setPending slot b).conf = s.conf := rfl
@[simp] theorem State.setPending_q0ring (s : State) (slot : Nat) (b : Overlay) : (s.setPending slot b).q0ring = s.q0ring := rfl
@[simp] theorem State.setPending_powerCap (s : State) (slot : Nat) (b : Overlay) : (s.setPending slot b).powerCap = s.powerCap := rfl
@[simp] theorem State.setPending_spdm (s : State) (slot : Nat) (b : Overlay) : (s.setPending slot b).spdm = s.spdm := rfl
@[simp] theorem State.setPending_irqs (s : State) (slot : Nat) (b : Overlay) : (s.setPending slot b).irqs = s.irqs := rfl
@[simp] theorem State.setPending_pins (s : State) (slot : Nat) (b : Overlay) : (s.setPending slot b).pins = s.pins := rfl
@[simp] theorem State.setPending_refusals (s : State) (slot : Nat) (b : Overlay) : (s.setPending slot b).refusals = s.refusals := rfl
@[simp] theorem State.setPending_fuses (s : State) (slot : Nat) (b : Overlay) : (s.setPending slot b).fuses = s.fuses := rfl
@[simp] theorem State.setPending_firmware (s : State) (slot : Nat) (b : Overlay) : (s.setPending slot b).firmware = s.firmware := rfl
@[simp] theorem State.setPending_throttle (s : State) (slot : Nat) (b : Overlay) : (s.setPending slot b).throttle = s.throttle := rfl
@[simp] theorem State.setPending_throttleSince (s : State) (slot : Nat) (b : Overlay) : (s.setPending slot b).throttleSince = s.throttleSince := rfl

@[simp] theorem State.settleSegments_tick (s : State) : (s.settleSegments).tick = s.tick := rfl
@[simp] theorem State.settleSegments_serial (s : State) : (s.settleSegments).serial = s.serial := rfl
@[simp] theorem State.settleSegments_agenda (s : State) : (s.settleSegments).agenda = s.agenda := rfl
@[simp] theorem State.settleSegments_focus (s : State) : (s.settleSegments).focus = s.focus := rfl
@[simp] theorem State.settleSegments_fresh (s : State) : (s.settleSegments).fresh = s.fresh := rfl
@[simp] theorem State.settleSegments_dispatchDue (s : State) : (s.settleSegments).dispatchDue = s.dispatchDue := rfl
@[simp] theorem State.settleSegments_groups (s : State) : (s.settleSegments).groups = s.groups := rfl
@[simp] theorem State.settleSegments_teams (s : State) : (s.settleSegments).teams = s.teams := rfl
@[simp] theorem State.settleSegments_launches (s : State) : (s.settleSegments).launches = s.launches := rfl
@[simp] theorem State.settleSegments_ctxs (s : State) : (s.settleSegments).ctxs = s.ctxs := rfl
@[simp] theorem State.settleSegments_parts (s : State) : (s.settleSegments).parts = s.parts := rfl
@[simp] theorem State.settleSegments_queues (s : State) : (s.settleSegments).queues = s.queues := rfl
@[simp] theorem State.settleSegments_cores (s : State) : (s.settleSegments).cores = s.cores := rfl
@[simp] theorem State.settleSegments_vacations (s : State) : (s.settleSegments).vacations = s.vacations := rfl
@[simp] theorem State.settleSegments_image (s : State) : (s.settleSegments).image = s.image := rfl
@[simp] theorem State.settleSegments_pending (s : State) : (s.settleSegments).pending = s.pending := rfl
@[simp] theorem State.settleSegments_wcb (s : State) : (s.settleSegments).wcb = s.wcb := rfl
@[simp] theorem State.settleSegments_l1 (s : State) : (s.settleSegments).l1 = s.l1 := rfl
@[simp] theorem State.settleSegments_tlb (s : State) : (s.settleSegments).tlb = s.tlb := rfl
@[simp] theorem State.settleSegments_marks (s : State) : (s.settleSegments).marks = s.marks := rfl
@[simp] theorem State.settleSegments_holders (s : State) : (s.settleSegments).holders = s.holders := rfl
@[simp] theorem State.settleSegments_pubs (s : State) : (s.settleSegments).pubs = s.pubs := rfl
@[simp] theorem State.settleSegments_texts (s : State) : (s.settleSegments).texts = s.texts := rfl
@[simp] theorem State.settleSegments_lost (s : State) : (s.settleSegments).lost = s.lost := rfl
@[simp] theorem State.settleSegments_hostMem (s : State) : (s.settleSegments).hostMem = s.hostMem := rfl
@[simp] theorem State.settleSegments_extents (s : State) : (s.settleSegments).extents = s.extents := rfl
@[simp] theorem State.settleSegments_seals (s : State) : (s.settleSegments).seals = s.seals := rfl
@[simp] theorem State.settleSegments_dirty (s : State) : (s.settleSegments).dirty = s.dirty := rfl
@[simp] theorem State.settleSegments_peers (s : State) : (s.settleSegments).peers = s.peers := rfl
@[simp] theorem State.settleSegments_ships (s : State) : (s.settleSegments).ships = s.ships := rfl
@[simp] theorem State.settleSegments_ops (s : State) : (s.settleSegments).ops = s.ops := rfl
@[simp] theorem State.settleSegments_monitors (s : State) : (s.settleSegments).monitors = s.monitors := rfl
@[simp] theorem State.settleSegments_shoots (s : State) : (s.settleSegments).shoots = s.shoots := rfl
@[simp] theorem State.settleSegments_calls (s : State) : (s.settleSegments).calls = s.calls := rfl
@[simp] theorem State.settleSegments_dmus (s : State) : (s.settleSegments).dmus = s.dmus := rfl
@[simp] theorem State.settleSegments_sent (s : State) : (s.settleSegments).sent = s.sent := rfl
@[simp] theorem State.settleSegments_flows (s : State) : (s.settleSegments).flows = s.flows := rfl
@[simp] theorem State.settleSegments_awaiting (s : State) : (s.settleSegments).awaiting = s.awaiting := rfl
@[simp] theorem State.settleSegments_linkErrors (s : State) : (s.settleSegments).linkErrors = s.linkErrors := rfl
@[simp] theorem State.settleSegments_dueIn (s : State) : (s.settleSegments).dueIn = s.dueIn := rfl
@[simp] theorem State.settleSegments_roots (s : State) : (s.settleSegments).roots = s.roots := rfl
@[simp] theorem State.settleSegments_leaves (s : State) : (s.settleSegments).leaves = s.leaves := rfl
@[simp] theorem State.settleSegments_preds (s : State) : (s.settleSegments).preds = s.preds := rfl
@[simp] theorem State.settleSegments_l2 (s : State) : (s.settleSegments).l2 = s.l2 := rfl
@[simp] theorem State.settleSegments_ilc (s : State) : (s.settleSegments).ilc = s.ilc := rfl
@[simp] theorem State.settleSegments_seqs (s : State) : (s.settleSegments).seqs = s.seqs := rfl
@[simp] theorem State.settleSegments_control (s : State) : (s.settleSegments).control = s.control := rfl
@[simp] theorem State.settleSegments_demands (s : State) : (s.settleSegments).demands = s.demands := rfl
@[simp] theorem State.settleSegments_sendq (s : State) : (s.settleSegments).sendq = s.sendq := rfl
@[simp] theorem State.settleSegments_recvq (s : State) : (s.settleSegments).recvq = s.recvq := rfl
@[simp] theorem State.settleSegments_messages (s : State) : (s.settleSegments).messages = s.messages := rfl
@[simp] theorem State.settleSegments_boot (s : State) : (s.settleSegments).boot = s.boot := rfl
@[simp] theorem State.settleSegments_conf (s : State) : (s.settleSegments).conf = s.conf := rfl
@[simp] theorem State.settleSegments_q0ring (s : State) : (s.settleSegments).q0ring = s.q0ring := rfl
@[simp] theorem State.settleSegments_powerCap (s : State) : (s.settleSegments).powerCap = s.powerCap := rfl
@[simp] theorem State.settleSegments_spdm (s : State) : (s.settleSegments).spdm = s.spdm := rfl
@[simp] theorem State.settleSegments_irqs (s : State) : (s.settleSegments).irqs = s.irqs := rfl
@[simp] theorem State.settleSegments_pins (s : State) : (s.settleSegments).pins = s.pins := rfl
@[simp] theorem State.settleSegments_refusals (s : State) : (s.settleSegments).refusals = s.refusals := rfl
@[simp] theorem State.settleSegments_fuses (s : State) : (s.settleSegments).fuses = s.fuses := rfl
@[simp] theorem State.settleSegments_firmware (s : State) : (s.settleSegments).firmware = s.firmware := rfl
@[simp] theorem State.settleSegments_throttle (s : State) : (s.settleSegments).throttle = s.throttle := rfl
@[simp] theorem State.settleSegments_throttleSince (s : State) : (s.settleSegments).throttleSince = s.throttleSince := rfl

@[simp] theorem State.freeSlot_tick (s : State) (w : Nat) : (s.freeSlot w).tick = s.tick := rfl
@[simp] theorem State.freeSlot_serial (s : State) (w : Nat) : (s.freeSlot w).serial = s.serial := rfl
@[simp] theorem State.freeSlot_agenda (s : State) (w : Nat) : (s.freeSlot w).agenda = s.agenda := rfl
@[simp] theorem State.freeSlot_focus (s : State) (w : Nat) : (s.freeSlot w).focus = s.focus := rfl
@[simp] theorem State.freeSlot_fresh (s : State) (w : Nat) : (s.freeSlot w).fresh = s.fresh := rfl
@[simp] theorem State.freeSlot_dispatchDue (s : State) (w : Nat) : (s.freeSlot w).dispatchDue = s.dispatchDue := rfl
@[simp] theorem State.freeSlot_groups (s : State) (w : Nat) : (s.freeSlot w).groups = s.groups := rfl
@[simp] theorem State.freeSlot_teams (s : State) (w : Nat) : (s.freeSlot w).teams = s.teams := rfl
@[simp] theorem State.freeSlot_launches (s : State) (w : Nat) : (s.freeSlot w).launches = s.launches := rfl
@[simp] theorem State.freeSlot_ctxs (s : State) (w : Nat) : (s.freeSlot w).ctxs = s.ctxs := rfl
@[simp] theorem State.freeSlot_parts (s : State) (w : Nat) : (s.freeSlot w).parts = s.parts := rfl
@[simp] theorem State.freeSlot_queues (s : State) (w : Nat) : (s.freeSlot w).queues = s.queues := rfl
@[simp] theorem State.freeSlot_cores (s : State) (w : Nat) : (s.freeSlot w).cores = s.cores := rfl
@[simp] theorem State.freeSlot_vacations (s : State) (w : Nat) : (s.freeSlot w).vacations = s.vacations := rfl
@[simp] theorem State.freeSlot_image (s : State) (w : Nat) : (s.freeSlot w).image = s.image := rfl
@[simp] theorem State.freeSlot_pending (s : State) (w : Nat) : (s.freeSlot w).pending = s.pending := rfl
@[simp] theorem State.freeSlot_wcb (s : State) (w : Nat) : (s.freeSlot w).wcb = s.wcb := rfl
@[simp] theorem State.freeSlot_l1 (s : State) (w : Nat) : (s.freeSlot w).l1 = s.l1 := rfl
@[simp] theorem State.freeSlot_tlb (s : State) (w : Nat) : (s.freeSlot w).tlb = s.tlb := rfl
@[simp] theorem State.freeSlot_marks (s : State) (w : Nat) : (s.freeSlot w).marks = s.marks := rfl
@[simp] theorem State.freeSlot_pubs (s : State) (w : Nat) : (s.freeSlot w).pubs = s.pubs := rfl
@[simp] theorem State.freeSlot_texts (s : State) (w : Nat) : (s.freeSlot w).texts = s.texts := rfl
@[simp] theorem State.freeSlot_lost (s : State) (w : Nat) : (s.freeSlot w).lost = s.lost := rfl
@[simp] theorem State.freeSlot_hostMem (s : State) (w : Nat) : (s.freeSlot w).hostMem = s.hostMem := rfl
@[simp] theorem State.freeSlot_extents (s : State) (w : Nat) : (s.freeSlot w).extents = s.extents := rfl
@[simp] theorem State.freeSlot_segments (s : State) (w : Nat) : (s.freeSlot w).segments = s.segments := rfl
@[simp] theorem State.freeSlot_seals (s : State) (w : Nat) : (s.freeSlot w).seals = s.seals := rfl
@[simp] theorem State.freeSlot_dirty (s : State) (w : Nat) : (s.freeSlot w).dirty = s.dirty := rfl
@[simp] theorem State.freeSlot_peers (s : State) (w : Nat) : (s.freeSlot w).peers = s.peers := rfl
@[simp] theorem State.freeSlot_ships (s : State) (w : Nat) : (s.freeSlot w).ships = s.ships := rfl
@[simp] theorem State.freeSlot_ops (s : State) (w : Nat) : (s.freeSlot w).ops = s.ops := rfl
@[simp] theorem State.freeSlot_monitors (s : State) (w : Nat) : (s.freeSlot w).monitors = s.monitors := rfl
@[simp] theorem State.freeSlot_shoots (s : State) (w : Nat) : (s.freeSlot w).shoots = s.shoots := rfl
@[simp] theorem State.freeSlot_calls (s : State) (w : Nat) : (s.freeSlot w).calls = s.calls := rfl
@[simp] theorem State.freeSlot_dmus (s : State) (w : Nat) : (s.freeSlot w).dmus = s.dmus := rfl
@[simp] theorem State.freeSlot_sent (s : State) (w : Nat) : (s.freeSlot w).sent = s.sent := rfl
@[simp] theorem State.freeSlot_flows (s : State) (w : Nat) : (s.freeSlot w).flows = s.flows := rfl
@[simp] theorem State.freeSlot_awaiting (s : State) (w : Nat) : (s.freeSlot w).awaiting = s.awaiting := rfl
@[simp] theorem State.freeSlot_linkErrors (s : State) (w : Nat) : (s.freeSlot w).linkErrors = s.linkErrors := rfl
@[simp] theorem State.freeSlot_dueIn (s : State) (w : Nat) : (s.freeSlot w).dueIn = s.dueIn := rfl
@[simp] theorem State.freeSlot_roots (s : State) (w : Nat) : (s.freeSlot w).roots = s.roots := rfl
@[simp] theorem State.freeSlot_leaves (s : State) (w : Nat) : (s.freeSlot w).leaves = s.leaves := rfl
@[simp] theorem State.freeSlot_preds (s : State) (w : Nat) : (s.freeSlot w).preds = s.preds := rfl
@[simp] theorem State.freeSlot_l2 (s : State) (w : Nat) : (s.freeSlot w).l2 = s.l2 := rfl
@[simp] theorem State.freeSlot_ilc (s : State) (w : Nat) : (s.freeSlot w).ilc = s.ilc := rfl
@[simp] theorem State.freeSlot_seqs (s : State) (w : Nat) : (s.freeSlot w).seqs = s.seqs := rfl
@[simp] theorem State.freeSlot_control (s : State) (w : Nat) : (s.freeSlot w).control = s.control := rfl
@[simp] theorem State.freeSlot_demands (s : State) (w : Nat) : (s.freeSlot w).demands = s.demands := rfl
@[simp] theorem State.freeSlot_sendq (s : State) (w : Nat) : (s.freeSlot w).sendq = s.sendq := rfl
@[simp] theorem State.freeSlot_recvq (s : State) (w : Nat) : (s.freeSlot w).recvq = s.recvq := rfl
@[simp] theorem State.freeSlot_messages (s : State) (w : Nat) : (s.freeSlot w).messages = s.messages := rfl
@[simp] theorem State.freeSlot_boot (s : State) (w : Nat) : (s.freeSlot w).boot = s.boot := rfl
@[simp] theorem State.freeSlot_conf (s : State) (w : Nat) : (s.freeSlot w).conf = s.conf := rfl
@[simp] theorem State.freeSlot_q0ring (s : State) (w : Nat) : (s.freeSlot w).q0ring = s.q0ring := rfl
@[simp] theorem State.freeSlot_powerCap (s : State) (w : Nat) : (s.freeSlot w).powerCap = s.powerCap := rfl
@[simp] theorem State.freeSlot_spdm (s : State) (w : Nat) : (s.freeSlot w).spdm = s.spdm := rfl
@[simp] theorem State.freeSlot_irqs (s : State) (w : Nat) : (s.freeSlot w).irqs = s.irqs := rfl
@[simp] theorem State.freeSlot_pins (s : State) (w : Nat) : (s.freeSlot w).pins = s.pins := rfl
@[simp] theorem State.freeSlot_refusals (s : State) (w : Nat) : (s.freeSlot w).refusals = s.refusals := rfl
@[simp] theorem State.freeSlot_fuses (s : State) (w : Nat) : (s.freeSlot w).fuses = s.fuses := rfl
@[simp] theorem State.freeSlot_firmware (s : State) (w : Nat) : (s.freeSlot w).firmware = s.firmware := rfl
@[simp] theorem State.freeSlot_throttle (s : State) (w : Nat) : (s.freeSlot w).throttle = s.throttle := rfl
@[simp] theorem State.freeSlot_throttleSince (s : State) (w : Nat) : (s.freeSlot w).throttleSince = s.throttleSince := rfl

@[simp] theorem State.hostWrite_tick (s : State) (a n x : Nat) : (s.hostWrite a n x).tick = s.tick := rfl
@[simp] theorem State.hostWrite_serial (s : State) (a n x : Nat) : (s.hostWrite a n x).serial = s.serial := rfl
@[simp] theorem State.hostWrite_agenda (s : State) (a n x : Nat) : (s.hostWrite a n x).agenda = s.agenda := rfl
@[simp] theorem State.hostWrite_focus (s : State) (a n x : Nat) : (s.hostWrite a n x).focus = s.focus := rfl
@[simp] theorem State.hostWrite_fresh (s : State) (a n x : Nat) : (s.hostWrite a n x).fresh = s.fresh := rfl
@[simp] theorem State.hostWrite_dispatchDue (s : State) (a n x : Nat) : (s.hostWrite a n x).dispatchDue = s.dispatchDue := rfl
@[simp] theorem State.hostWrite_groups (s : State) (a n x : Nat) : (s.hostWrite a n x).groups = s.groups := rfl
@[simp] theorem State.hostWrite_teams (s : State) (a n x : Nat) : (s.hostWrite a n x).teams = s.teams := rfl
@[simp] theorem State.hostWrite_launches (s : State) (a n x : Nat) : (s.hostWrite a n x).launches = s.launches := rfl
@[simp] theorem State.hostWrite_ctxs (s : State) (a n x : Nat) : (s.hostWrite a n x).ctxs = s.ctxs := rfl
@[simp] theorem State.hostWrite_parts (s : State) (a n x : Nat) : (s.hostWrite a n x).parts = s.parts := rfl
@[simp] theorem State.hostWrite_queues (s : State) (a n x : Nat) : (s.hostWrite a n x).queues = s.queues := rfl
@[simp] theorem State.hostWrite_cores (s : State) (a n x : Nat) : (s.hostWrite a n x).cores = s.cores := rfl
@[simp] theorem State.hostWrite_vacations (s : State) (a n x : Nat) : (s.hostWrite a n x).vacations = s.vacations := rfl
@[simp] theorem State.hostWrite_image (s : State) (a n x : Nat) : (s.hostWrite a n x).image = s.image := rfl
@[simp] theorem State.hostWrite_pending (s : State) (a n x : Nat) : (s.hostWrite a n x).pending = s.pending := rfl
@[simp] theorem State.hostWrite_wcb (s : State) (a n x : Nat) : (s.hostWrite a n x).wcb = s.wcb := rfl
@[simp] theorem State.hostWrite_l1 (s : State) (a n x : Nat) : (s.hostWrite a n x).l1 = s.l1 := rfl
@[simp] theorem State.hostWrite_tlb (s : State) (a n x : Nat) : (s.hostWrite a n x).tlb = s.tlb := rfl
@[simp] theorem State.hostWrite_marks (s : State) (a n x : Nat) : (s.hostWrite a n x).marks = s.marks := rfl
@[simp] theorem State.hostWrite_holders (s : State) (a n x : Nat) : (s.hostWrite a n x).holders = s.holders := rfl
@[simp] theorem State.hostWrite_pubs (s : State) (a n x : Nat) : (s.hostWrite a n x).pubs = s.pubs := rfl
@[simp] theorem State.hostWrite_texts (s : State) (a n x : Nat) : (s.hostWrite a n x).texts = s.texts := rfl
@[simp] theorem State.hostWrite_lost (s : State) (a n x : Nat) : (s.hostWrite a n x).lost = s.lost := rfl
@[simp] theorem State.hostWrite_extents (s : State) (a n x : Nat) : (s.hostWrite a n x).extents = s.extents := rfl
@[simp] theorem State.hostWrite_segments (s : State) (a n x : Nat) : (s.hostWrite a n x).segments = s.segments := rfl
@[simp] theorem State.hostWrite_seals (s : State) (a n x : Nat) : (s.hostWrite a n x).seals = s.seals := rfl
@[simp] theorem State.hostWrite_dirty (s : State) (a n x : Nat) : (s.hostWrite a n x).dirty = s.dirty := rfl
@[simp] theorem State.hostWrite_peers (s : State) (a n x : Nat) : (s.hostWrite a n x).peers = s.peers := rfl
@[simp] theorem State.hostWrite_ships (s : State) (a n x : Nat) : (s.hostWrite a n x).ships = s.ships := rfl
@[simp] theorem State.hostWrite_ops (s : State) (a n x : Nat) : (s.hostWrite a n x).ops = s.ops := rfl
@[simp] theorem State.hostWrite_monitors (s : State) (a n x : Nat) : (s.hostWrite a n x).monitors = s.monitors := rfl
@[simp] theorem State.hostWrite_shoots (s : State) (a n x : Nat) : (s.hostWrite a n x).shoots = s.shoots := rfl
@[simp] theorem State.hostWrite_calls (s : State) (a n x : Nat) : (s.hostWrite a n x).calls = s.calls := rfl
@[simp] theorem State.hostWrite_dmus (s : State) (a n x : Nat) : (s.hostWrite a n x).dmus = s.dmus := rfl
@[simp] theorem State.hostWrite_sent (s : State) (a n x : Nat) : (s.hostWrite a n x).sent = s.sent := rfl
@[simp] theorem State.hostWrite_flows (s : State) (a n x : Nat) : (s.hostWrite a n x).flows = s.flows := rfl
@[simp] theorem State.hostWrite_awaiting (s : State) (a n x : Nat) : (s.hostWrite a n x).awaiting = s.awaiting := rfl
@[simp] theorem State.hostWrite_linkErrors (s : State) (a n x : Nat) : (s.hostWrite a n x).linkErrors = s.linkErrors := rfl
@[simp] theorem State.hostWrite_dueIn (s : State) (a n x : Nat) : (s.hostWrite a n x).dueIn = s.dueIn := rfl
@[simp] theorem State.hostWrite_roots (s : State) (a n x : Nat) : (s.hostWrite a n x).roots = s.roots := rfl
@[simp] theorem State.hostWrite_leaves (s : State) (a n x : Nat) : (s.hostWrite a n x).leaves = s.leaves := rfl
@[simp] theorem State.hostWrite_preds (s : State) (a n x : Nat) : (s.hostWrite a n x).preds = s.preds := rfl
@[simp] theorem State.hostWrite_l2 (s : State) (a n x : Nat) : (s.hostWrite a n x).l2 = s.l2 := rfl
@[simp] theorem State.hostWrite_ilc (s : State) (a n x : Nat) : (s.hostWrite a n x).ilc = s.ilc := rfl
@[simp] theorem State.hostWrite_seqs (s : State) (a n x : Nat) : (s.hostWrite a n x).seqs = s.seqs := rfl
@[simp] theorem State.hostWrite_control (s : State) (a n x : Nat) : (s.hostWrite a n x).control = s.control := rfl
@[simp] theorem State.hostWrite_demands (s : State) (a n x : Nat) : (s.hostWrite a n x).demands = s.demands := rfl
@[simp] theorem State.hostWrite_sendq (s : State) (a n x : Nat) : (s.hostWrite a n x).sendq = s.sendq := rfl
@[simp] theorem State.hostWrite_recvq (s : State) (a n x : Nat) : (s.hostWrite a n x).recvq = s.recvq := rfl
@[simp] theorem State.hostWrite_messages (s : State) (a n x : Nat) : (s.hostWrite a n x).messages = s.messages := rfl
@[simp] theorem State.hostWrite_boot (s : State) (a n x : Nat) : (s.hostWrite a n x).boot = s.boot := rfl
@[simp] theorem State.hostWrite_conf (s : State) (a n x : Nat) : (s.hostWrite a n x).conf = s.conf := rfl
@[simp] theorem State.hostWrite_q0ring (s : State) (a n x : Nat) : (s.hostWrite a n x).q0ring = s.q0ring := rfl
@[simp] theorem State.hostWrite_powerCap (s : State) (a n x : Nat) : (s.hostWrite a n x).powerCap = s.powerCap := rfl
@[simp] theorem State.hostWrite_spdm (s : State) (a n x : Nat) : (s.hostWrite a n x).spdm = s.spdm := rfl
@[simp] theorem State.hostWrite_irqs (s : State) (a n x : Nat) : (s.hostWrite a n x).irqs = s.irqs := rfl
@[simp] theorem State.hostWrite_pins (s : State) (a n x : Nat) : (s.hostWrite a n x).pins = s.pins := rfl
@[simp] theorem State.hostWrite_refusals (s : State) (a n x : Nat) : (s.hostWrite a n x).refusals = s.refusals := rfl
@[simp] theorem State.hostWrite_fuses (s : State) (a n x : Nat) : (s.hostWrite a n x).fuses = s.fuses := rfl
@[simp] theorem State.hostWrite_firmware (s : State) (a n x : Nat) : (s.hostWrite a n x).firmware = s.firmware := rfl
@[simp] theorem State.hostWrite_throttle (s : State) (a n x : Nat) : (s.hostWrite a n x).throttle = s.throttle := rfl
@[simp] theorem State.hostWrite_throttleSince (s : State) (a n x : Nat) : (s.hostWrite a n x).throttleSince = s.throttleSince := rfl

@[simp] theorem State.opportunity_groups (s : State) (ctx : Nat) : (s.opportunity ctx).groups = s.groups := rfl
@[simp] theorem State.opportunity_tick (s : State) (ctx : Nat) : (s.opportunity ctx).tick = s.tick := rfl
@[simp] theorem State.opportunity_serial (s : State) (ctx : Nat) : (s.opportunity ctx).serial = s.serial := rfl
@[simp] theorem State.opportunity_agenda (s : State) (ctx : Nat) : (s.opportunity ctx).agenda = s.agenda := rfl
@[simp] theorem State.opportunity_focus (s : State) (ctx : Nat) : (s.opportunity ctx).focus = s.focus := rfl
@[simp] theorem State.opportunity_fresh (s : State) (ctx : Nat) : (s.opportunity ctx).fresh = s.fresh := rfl
@[simp] theorem State.opportunity_teams (s : State) (ctx : Nat) : (s.opportunity ctx).teams = s.teams := rfl
@[simp] theorem State.opportunity_launches (s : State) (ctx : Nat) : (s.opportunity ctx).launches = s.launches := rfl
@[simp] theorem State.opportunity_ctxs (s : State) (ctx : Nat) : (s.opportunity ctx).ctxs = s.ctxs := rfl
@[simp] theorem State.opportunity_parts (s : State) (ctx : Nat) : (s.opportunity ctx).parts = s.parts := rfl
@[simp] theorem State.opportunity_queues (s : State) (ctx : Nat) : (s.opportunity ctx).queues = s.queues := rfl
@[simp] theorem State.opportunity_cores (s : State) (ctx : Nat) : (s.opportunity ctx).cores = s.cores := rfl
@[simp] theorem State.opportunity_vacations (s : State) (ctx : Nat) : (s.opportunity ctx).vacations = s.vacations := rfl
@[simp] theorem State.opportunity_image (s : State) (ctx : Nat) : (s.opportunity ctx).image = s.image := rfl
@[simp] theorem State.opportunity_pending (s : State) (ctx : Nat) : (s.opportunity ctx).pending = s.pending := rfl
@[simp] theorem State.opportunity_wcb (s : State) (ctx : Nat) : (s.opportunity ctx).wcb = s.wcb := rfl
@[simp] theorem State.opportunity_l1 (s : State) (ctx : Nat) : (s.opportunity ctx).l1 = s.l1 := rfl
@[simp] theorem State.opportunity_tlb (s : State) (ctx : Nat) : (s.opportunity ctx).tlb = s.tlb := rfl
@[simp] theorem State.opportunity_marks (s : State) (ctx : Nat) : (s.opportunity ctx).marks = s.marks := rfl
@[simp] theorem State.opportunity_holders (s : State) (ctx : Nat) : (s.opportunity ctx).holders = s.holders := rfl
@[simp] theorem State.opportunity_pubs (s : State) (ctx : Nat) : (s.opportunity ctx).pubs = s.pubs := rfl
@[simp] theorem State.opportunity_texts (s : State) (ctx : Nat) : (s.opportunity ctx).texts = s.texts := rfl
@[simp] theorem State.opportunity_lost (s : State) (ctx : Nat) : (s.opportunity ctx).lost = s.lost := rfl
@[simp] theorem State.opportunity_hostMem (s : State) (ctx : Nat) : (s.opportunity ctx).hostMem = s.hostMem := rfl
@[simp] theorem State.opportunity_extents (s : State) (ctx : Nat) : (s.opportunity ctx).extents = s.extents := rfl
@[simp] theorem State.opportunity_segments (s : State) (ctx : Nat) : (s.opportunity ctx).segments = s.segments := rfl
@[simp] theorem State.opportunity_seals (s : State) (ctx : Nat) : (s.opportunity ctx).seals = s.seals := rfl
@[simp] theorem State.opportunity_dirty (s : State) (ctx : Nat) : (s.opportunity ctx).dirty = s.dirty := rfl
@[simp] theorem State.opportunity_peers (s : State) (ctx : Nat) : (s.opportunity ctx).peers = s.peers := rfl
@[simp] theorem State.opportunity_ships (s : State) (ctx : Nat) : (s.opportunity ctx).ships = s.ships := rfl
@[simp] theorem State.opportunity_ops (s : State) (ctx : Nat) : (s.opportunity ctx).ops = s.ops := rfl
@[simp] theorem State.opportunity_monitors (s : State) (ctx : Nat) : (s.opportunity ctx).monitors = s.monitors := rfl
@[simp] theorem State.opportunity_shoots (s : State) (ctx : Nat) : (s.opportunity ctx).shoots = s.shoots := rfl
@[simp] theorem State.opportunity_calls (s : State) (ctx : Nat) : (s.opportunity ctx).calls = s.calls := rfl
@[simp] theorem State.opportunity_dmus (s : State) (ctx : Nat) : (s.opportunity ctx).dmus = s.dmus := rfl
@[simp] theorem State.opportunity_sent (s : State) (ctx : Nat) : (s.opportunity ctx).sent = s.sent := rfl
@[simp] theorem State.opportunity_flows (s : State) (ctx : Nat) : (s.opportunity ctx).flows = s.flows := rfl
@[simp] theorem State.opportunity_awaiting (s : State) (ctx : Nat) : (s.opportunity ctx).awaiting = s.awaiting := rfl
@[simp] theorem State.opportunity_linkErrors (s : State) (ctx : Nat) : (s.opportunity ctx).linkErrors = s.linkErrors := rfl
@[simp] theorem State.opportunity_roots (s : State) (ctx : Nat) : (s.opportunity ctx).roots = s.roots := rfl
@[simp] theorem State.opportunity_leaves (s : State) (ctx : Nat) : (s.opportunity ctx).leaves = s.leaves := rfl
@[simp] theorem State.opportunity_preds (s : State) (ctx : Nat) : (s.opportunity ctx).preds = s.preds := rfl
@[simp] theorem State.opportunity_l2 (s : State) (ctx : Nat) : (s.opportunity ctx).l2 = s.l2 := rfl
@[simp] theorem State.opportunity_ilc (s : State) (ctx : Nat) : (s.opportunity ctx).ilc = s.ilc := rfl
@[simp] theorem State.opportunity_seqs (s : State) (ctx : Nat) : (s.opportunity ctx).seqs = s.seqs := rfl
@[simp] theorem State.opportunity_control (s : State) (ctx : Nat) : (s.opportunity ctx).control = s.control := rfl
@[simp] theorem State.opportunity_demands (s : State) (ctx : Nat) : (s.opportunity ctx).demands = s.demands := rfl
@[simp] theorem State.opportunity_sendq (s : State) (ctx : Nat) : (s.opportunity ctx).sendq = s.sendq := rfl
@[simp] theorem State.opportunity_recvq (s : State) (ctx : Nat) : (s.opportunity ctx).recvq = s.recvq := rfl
@[simp] theorem State.opportunity_messages (s : State) (ctx : Nat) : (s.opportunity ctx).messages = s.messages := rfl
@[simp] theorem State.opportunity_boot (s : State) (ctx : Nat) : (s.opportunity ctx).boot = s.boot := rfl
@[simp] theorem State.opportunity_conf (s : State) (ctx : Nat) : (s.opportunity ctx).conf = s.conf := rfl
@[simp] theorem State.opportunity_q0ring (s : State) (ctx : Nat) : (s.opportunity ctx).q0ring = s.q0ring := rfl
@[simp] theorem State.opportunity_powerCap (s : State) (ctx : Nat) : (s.opportunity ctx).powerCap = s.powerCap := rfl
@[simp] theorem State.opportunity_spdm (s : State) (ctx : Nat) : (s.opportunity ctx).spdm = s.spdm := rfl
@[simp] theorem State.opportunity_irqs (s : State) (ctx : Nat) : (s.opportunity ctx).irqs = s.irqs := rfl
@[simp] theorem State.opportunity_pins (s : State) (ctx : Nat) : (s.opportunity ctx).pins = s.pins := rfl
@[simp] theorem State.opportunity_refusals (s : State) (ctx : Nat) : (s.opportunity ctx).refusals = s.refusals := rfl
@[simp] theorem State.opportunity_fuses (s : State) (ctx : Nat) : (s.opportunity ctx).fuses = s.fuses := rfl
@[simp] theorem State.opportunity_firmware (s : State) (ctx : Nat) : (s.opportunity ctx).firmware = s.firmware := rfl
@[simp] theorem State.opportunity_throttle (s : State) (ctx : Nat) : (s.opportunity ctx).throttle = s.throttle := rfl
@[simp] theorem State.opportunity_throttleSince (s : State) (ctx : Nat) : (s.opportunity ctx).throttleSince = s.throttleSince := rfl

@[simp] theorem State.putFlow_groups (s : State) (f : Flow) : (s.putFlow f).groups = s.groups := rfl
@[simp] theorem State.putFlow_tick (s : State) (f : Flow) : (s.putFlow f).tick = s.tick := rfl
@[simp] theorem State.putFlow_serial (s : State) (f : Flow) : (s.putFlow f).serial = s.serial := rfl
@[simp] theorem State.putFlow_agenda (s : State) (f : Flow) : (s.putFlow f).agenda = s.agenda := rfl
@[simp] theorem State.putFlow_focus (s : State) (f : Flow) : (s.putFlow f).focus = s.focus := rfl
@[simp] theorem State.putFlow_fresh (s : State) (f : Flow) : (s.putFlow f).fresh = s.fresh := rfl
@[simp] theorem State.putFlow_dispatchDue (s : State) (f : Flow) : (s.putFlow f).dispatchDue = s.dispatchDue := rfl
@[simp] theorem State.putFlow_teams (s : State) (f : Flow) : (s.putFlow f).teams = s.teams := rfl
@[simp] theorem State.putFlow_launches (s : State) (f : Flow) : (s.putFlow f).launches = s.launches := rfl
@[simp] theorem State.putFlow_ctxs (s : State) (f : Flow) : (s.putFlow f).ctxs = s.ctxs := rfl
@[simp] theorem State.putFlow_parts (s : State) (f : Flow) : (s.putFlow f).parts = s.parts := rfl
@[simp] theorem State.putFlow_queues (s : State) (f : Flow) : (s.putFlow f).queues = s.queues := rfl
@[simp] theorem State.putFlow_cores (s : State) (f : Flow) : (s.putFlow f).cores = s.cores := rfl
@[simp] theorem State.putFlow_vacations (s : State) (f : Flow) : (s.putFlow f).vacations = s.vacations := rfl
@[simp] theorem State.putFlow_image (s : State) (f : Flow) : (s.putFlow f).image = s.image := rfl
@[simp] theorem State.putFlow_pending (s : State) (f : Flow) : (s.putFlow f).pending = s.pending := rfl
@[simp] theorem State.putFlow_wcb (s : State) (f : Flow) : (s.putFlow f).wcb = s.wcb := rfl
@[simp] theorem State.putFlow_l1 (s : State) (f : Flow) : (s.putFlow f).l1 = s.l1 := rfl
@[simp] theorem State.putFlow_tlb (s : State) (f : Flow) : (s.putFlow f).tlb = s.tlb := rfl
@[simp] theorem State.putFlow_marks (s : State) (f : Flow) : (s.putFlow f).marks = s.marks := rfl
@[simp] theorem State.putFlow_holders (s : State) (f : Flow) : (s.putFlow f).holders = s.holders := rfl
@[simp] theorem State.putFlow_pubs (s : State) (f : Flow) : (s.putFlow f).pubs = s.pubs := rfl
@[simp] theorem State.putFlow_texts (s : State) (f : Flow) : (s.putFlow f).texts = s.texts := rfl
@[simp] theorem State.putFlow_lost (s : State) (f : Flow) : (s.putFlow f).lost = s.lost := rfl
@[simp] theorem State.putFlow_hostMem (s : State) (f : Flow) : (s.putFlow f).hostMem = s.hostMem := rfl
@[simp] theorem State.putFlow_extents (s : State) (f : Flow) : (s.putFlow f).extents = s.extents := rfl
@[simp] theorem State.putFlow_segments (s : State) (f : Flow) : (s.putFlow f).segments = s.segments := rfl
@[simp] theorem State.putFlow_seals (s : State) (f : Flow) : (s.putFlow f).seals = s.seals := rfl
@[simp] theorem State.putFlow_dirty (s : State) (f : Flow) : (s.putFlow f).dirty = s.dirty := rfl
@[simp] theorem State.putFlow_peers (s : State) (f : Flow) : (s.putFlow f).peers = s.peers := rfl
@[simp] theorem State.putFlow_ships (s : State) (f : Flow) : (s.putFlow f).ships = s.ships := rfl
@[simp] theorem State.putFlow_ops (s : State) (f : Flow) : (s.putFlow f).ops = s.ops := rfl
@[simp] theorem State.putFlow_monitors (s : State) (f : Flow) : (s.putFlow f).monitors = s.monitors := rfl
@[simp] theorem State.putFlow_shoots (s : State) (f : Flow) : (s.putFlow f).shoots = s.shoots := rfl
@[simp] theorem State.putFlow_calls (s : State) (f : Flow) : (s.putFlow f).calls = s.calls := rfl
@[simp] theorem State.putFlow_dmus (s : State) (f : Flow) : (s.putFlow f).dmus = s.dmus := rfl
@[simp] theorem State.putFlow_sent (s : State) (f : Flow) : (s.putFlow f).sent = s.sent := rfl
@[simp] theorem State.putFlow_awaiting (s : State) (f : Flow) : (s.putFlow f).awaiting = s.awaiting := rfl
@[simp] theorem State.putFlow_linkErrors (s : State) (f : Flow) : (s.putFlow f).linkErrors = s.linkErrors := rfl
@[simp] theorem State.putFlow_dueIn (s : State) (f : Flow) : (s.putFlow f).dueIn = s.dueIn := rfl
@[simp] theorem State.putFlow_roots (s : State) (f : Flow) : (s.putFlow f).roots = s.roots := rfl
@[simp] theorem State.putFlow_leaves (s : State) (f : Flow) : (s.putFlow f).leaves = s.leaves := rfl
@[simp] theorem State.putFlow_preds (s : State) (f : Flow) : (s.putFlow f).preds = s.preds := rfl
@[simp] theorem State.putFlow_l2 (s : State) (f : Flow) : (s.putFlow f).l2 = s.l2 := rfl
@[simp] theorem State.putFlow_ilc (s : State) (f : Flow) : (s.putFlow f).ilc = s.ilc := rfl
@[simp] theorem State.putFlow_seqs (s : State) (f : Flow) : (s.putFlow f).seqs = s.seqs := rfl
@[simp] theorem State.putFlow_control (s : State) (f : Flow) : (s.putFlow f).control = s.control := rfl
@[simp] theorem State.putFlow_demands (s : State) (f : Flow) : (s.putFlow f).demands = s.demands := rfl
@[simp] theorem State.putFlow_sendq (s : State) (f : Flow) : (s.putFlow f).sendq = s.sendq := rfl
@[simp] theorem State.putFlow_recvq (s : State) (f : Flow) : (s.putFlow f).recvq = s.recvq := rfl
@[simp] theorem State.putFlow_messages (s : State) (f : Flow) : (s.putFlow f).messages = s.messages := rfl
@[simp] theorem State.putFlow_boot (s : State) (f : Flow) : (s.putFlow f).boot = s.boot := rfl
@[simp] theorem State.putFlow_conf (s : State) (f : Flow) : (s.putFlow f).conf = s.conf := rfl
@[simp] theorem State.putFlow_q0ring (s : State) (f : Flow) : (s.putFlow f).q0ring = s.q0ring := rfl
@[simp] theorem State.putFlow_powerCap (s : State) (f : Flow) : (s.putFlow f).powerCap = s.powerCap := rfl
@[simp] theorem State.putFlow_spdm (s : State) (f : Flow) : (s.putFlow f).spdm = s.spdm := rfl
@[simp] theorem State.putFlow_irqs (s : State) (f : Flow) : (s.putFlow f).irqs = s.irqs := rfl
@[simp] theorem State.putFlow_pins (s : State) (f : Flow) : (s.putFlow f).pins = s.pins := rfl
@[simp] theorem State.putFlow_refusals (s : State) (f : Flow) : (s.putFlow f).refusals = s.refusals := rfl
@[simp] theorem State.putFlow_fuses (s : State) (f : Flow) : (s.putFlow f).fuses = s.fuses := rfl
@[simp] theorem State.putFlow_firmware (s : State) (f : Flow) : (s.putFlow f).firmware = s.firmware := rfl
@[simp] theorem State.putFlow_throttle (s : State) (f : Flow) : (s.putFlow f).throttle = s.throttle := rfl
@[simp] theorem State.putFlow_throttleSince (s : State) (f : Flow) : (s.putFlow f).throttleSince = s.throttleSince := rfl

@[simp] theorem Lane.putV_p (l : Lane) (n : Nat) (x : Word) : (l.putV n x).p = l.p := rfl
@[simp] theorem Lane.putV_sb (l : Lane) (n : Nat) (x : Word) : (l.putV n x).sb = l.sb := rfl
@[simp] theorem Lane.putV_vpc (l : Lane) (n : Nat) (x : Word) : (l.putV n x).vpc = l.vpc := rfl
@[simp] theorem Lane.putV_stack (l : Lane) (n : Nat) (x : Word) : (l.putV n x).stack = l.stack := rfl
@[simp] theorem Lane.putV_origin (l : Lane) (n : Nat) (x : Word) : (l.putV n x).origin = l.origin := rfl
@[simp] theorem Lane.putV_exited (l : Lane) (n : Nat) (x : Word) : (l.putV n x).exited = l.exited := rfl
@[simp] theorem Lane.putV_team (l : Lane) (n : Nat) (x : Word) : (l.putV n x).team = l.team := rfl
@[simp] theorem Lane.putV_dist (l : Lane) (n : Nat) (x : Word) : (l.putV n x).dist = l.dist := rfl
@[simp] theorem Lane.putV_fresh (l : Lane) (n : Nat) (x : Word) : (l.putV n x).fresh = l.fresh := rfl
@[simp] theorem Lane.putV_pend (l : Lane) (n : Nat) (x : Word) : (l.putV n x).pend = l.pend := rfl

@[simp] theorem Lane.putCounter_v (l : Lane) (k x : Nat) : (l.putCounter k x).v = l.v := rfl
@[simp] theorem Lane.putCounter_p (l : Lane) (k x : Nat) : (l.putCounter k x).p = l.p := rfl
@[simp] theorem Lane.putCounter_vpc (l : Lane) (k x : Nat) : (l.putCounter k x).vpc = l.vpc := rfl
@[simp] theorem Lane.putCounter_stack (l : Lane) (k x : Nat) : (l.putCounter k x).stack = l.stack := rfl
@[simp] theorem Lane.putCounter_origin (l : Lane) (k x : Nat) : (l.putCounter k x).origin = l.origin := rfl
@[simp] theorem Lane.putCounter_exited (l : Lane) (k x : Nat) : (l.putCounter k x).exited = l.exited := rfl
@[simp] theorem Lane.putCounter_team (l : Lane) (k x : Nat) : (l.putCounter k x).team = l.team := rfl
@[simp] theorem Lane.putCounter_dist (l : Lane) (k x : Nat) : (l.putCounter k x).dist = l.dist := rfl
@[simp] theorem Lane.putCounter_fresh (l : Lane) (k x : Nat) : (l.putCounter k x).fresh = l.fresh := rfl
@[simp] theorem Lane.putCounter_pend (l : Lane) (k x : Nat) : (l.putCounter k x).pend = l.pend := rfl

@[simp] theorem Lane.push_v (l : Lane) (a : DWord) : (l.push a).v = l.v := rfl
@[simp] theorem Lane.push_p (l : Lane) (a : DWord) : (l.push a).p = l.p := rfl
@[simp] theorem Lane.push_sb (l : Lane) (a : DWord) : (l.push a).sb = l.sb := rfl
@[simp] theorem Lane.push_vpc (l : Lane) (a : DWord) : (l.push a).vpc = l.vpc := rfl
@[simp] theorem Lane.push_origin (l : Lane) (a : DWord) : (l.push a).origin = l.origin := rfl
@[simp] theorem Lane.push_exited (l : Lane) (a : DWord) : (l.push a).exited = l.exited := rfl
@[simp] theorem Lane.push_team (l : Lane) (a : DWord) : (l.push a).team = l.team := rfl
@[simp] theorem Lane.push_dist (l : Lane) (a : DWord) : (l.push a).dist = l.dist := rfl
@[simp] theorem Lane.push_fresh (l : Lane) (a : DWord) : (l.push a).fresh = l.fresh := rfl
@[simp] theorem Lane.push_pend (l : Lane) (a : DWord) : (l.push a).pend = l.pend := rfl

@[simp] theorem Lane.putP_v (l : Lane) (n : Nat) (x : Bool) : (l.putP n x).v = l.v := by unfold Lane.putP; split <;> rfl
@[simp] theorem Lane.putP_sb (l : Lane) (n : Nat) (x : Bool) : (l.putP n x).sb = l.sb := by unfold Lane.putP; split <;> rfl
@[simp] theorem Lane.putP_vpc (l : Lane) (n : Nat) (x : Bool) : (l.putP n x).vpc = l.vpc := by unfold Lane.putP; split <;> rfl
@[simp] theorem Lane.putP_stack (l : Lane) (n : Nat) (x : Bool) : (l.putP n x).stack = l.stack := by unfold Lane.putP; split <;> rfl
@[simp] theorem Lane.putP_origin (l : Lane) (n : Nat) (x : Bool) : (l.putP n x).origin = l.origin := by unfold Lane.putP; split <;> rfl
@[simp] theorem Lane.putP_exited (l : Lane) (n : Nat) (x : Bool) : (l.putP n x).exited = l.exited := by unfold Lane.putP; split <;> rfl
@[simp] theorem Lane.putP_team (l : Lane) (n : Nat) (x : Bool) : (l.putP n x).team = l.team := by unfold Lane.putP; split <;> rfl
@[simp] theorem Lane.putP_dist (l : Lane) (n : Nat) (x : Bool) : (l.putP n x).dist = l.dist := by unfold Lane.putP; split <;> rfl
@[simp] theorem Lane.putP_fresh (l : Lane) (n : Nat) (x : Bool) : (l.putP n x).fresh = l.fresh := by unfold Lane.putP; split <;> rfl
@[simp] theorem Lane.putP_pend (l : Lane) (n : Nat) (x : Bool) : (l.putP n x).pend = l.pend := by unfold Lane.putP; split <;> rfl

@[simp] theorem Group.putS_gid (g : Group) (n : Nat) (x : DWord) : (g.putS n x).gid = g.gid := by unfold Group.putS; split <;> rfl
@[simp] theorem Group.putS_owner (g : Group) (n : Nat) (x : DWord) : (g.putS n x).owner = g.owner := by unfold Group.putS; split <;> rfl
@[simp] theorem Group.putS_launchGrp (g : Group) (n : Nat) (x : DWord) : (g.putS n x).launchGrp = g.launchGrp := by unfold Group.putS; split <;> rfl
@[simp] theorem Group.putS_place (g : Group) (n : Nat) (x : DWord) : (g.putS n x).place = g.place := by unfold Group.putS; split <;> rfl
@[simp] theorem Group.putS_lastSlot (g : Group) (n : Nat) (x : DWord) : (g.putS n x).lastSlot = g.lastSlot := by unfold Group.putS; split <;> rfl
@[simp] theorem Group.putS_alloc (g : Group) (n : Nat) (x : DWord) : (g.putS n x).alloc = g.alloc := by unfold Group.putS; split <;> rfl
@[simp] theorem Group.putS_lanes (g : Group) (n : Nat) (x : DWord) : (g.putS n x).lanes = g.lanes := by unfold Group.putS; split <;> rfl
@[simp] theorem Group.putS_fpflags (g : Group) (n : Nat) (x : DWord) : (g.putS n x).fpflags = g.fpflags := by unfold Group.putS; split <;> rfl
@[simp] theorem Group.putS_gang (g : Group) (n : Nat) (x : DWord) : (g.putS n x).gang = g.gang := by unfold Group.putS; split <;> rfl
@[simp] theorem Group.putS_mmaCount (g : Group) (n : Nat) (x : DWord) : (g.putS n x).mmaCount = g.mmaCount := by unfold Group.putS; split <;> rfl
@[simp] theorem Group.putS_former (g : Group) (n : Nat) (x : DWord) : (g.putS n x).former = g.former := by unfold Group.putS; split <;> rfl
@[simp] theorem Group.putS_runs (g : Group) (n : Nat) (x : DWord) : (g.putS n x).runs = g.runs := by unfold Group.putS; split <;> rfl
@[simp] theorem Group.putS_dist (g : Group) (n : Nat) (x : DWord) : (g.putS n x).dist = g.dist := by unfold Group.putS; split <;> rfl
@[simp] theorem Group.putS_sfresh (g : Group) (n : Nat) (x : DWord) : (g.putS n x).sfresh = g.sfresh := by unfold Group.putS; split <;> rfl
@[simp] theorem Group.putS_spend (g : Group) (n : Nat) (x : DWord) : (g.putS n x).spend = g.spend := by unfold Group.putS; split <;> rfl
@[simp] theorem Group.putS_active (g : Group) (n : Nat) (x : DWord) : (g.putS n x).active = g.active := by unfold Group.putS; split <;> rfl
@[simp] theorem Group.putS_lastIssue (g : Group) (n : Nat) (x : DWord) : (g.putS n x).lastIssue = g.lastIssue := by unfold Group.putS; split <;> rfl
@[simp] theorem Group.putS_pendingSince (g : Group) (n : Nat) (x : DWord) : (g.putS n x).pendingSince = g.pendingSince := by unfold Group.putS; split <;> rfl
@[simp] theorem Group.putS_holds (g : Group) (n : Nat) (x : DWord) : (g.putS n x).holds = g.holds := by unfold Group.putS; split <;> rfl
@[simp] theorem Group.putS_halted (g : Group) (n : Nat) (x : DWord) : (g.putS n x).halted = g.halted := by unfold Group.putS; split <;> rfl
@[simp] theorem Group.putS_doomed (g : Group) (n : Nat) (x : DWord) : (g.putS n x).doomed = g.doomed := by unfold Group.putS; split <;> rfl
@[simp] theorem Group.putS_ended (g : Group) (n : Nat) (x : DWord) : (g.putS n x).ended = g.ended := by unfold Group.putS; split <;> rfl
@[simp] theorem Group.putS_yielded (g : Group) (n : Nat) (x : DWord) : (g.putS n x).yielded = g.yielded := by unfold Group.putS; split <;> rfl
@[simp] theorem Group.putS_overflowed (g : Group) (n : Nat) (x : DWord) : (g.putS n x).overflowed = g.overflowed := by unfold Group.putS; split <;> rfl
@[simp] theorem Group.putS_lent (g : Group) (n : Nat) (x : DWord) : (g.putS n x).lent = g.lent := by unfold Group.putS; split <;> rfl
@[simp] theorem Group.putS_report (g : Group) (n : Nat) (x : DWord) : (g.putS n x).report = g.report := by unfold Group.putS; split <;> rfl

end Sys2Proof.Machine
end

