-- ==== Sys2Proof/Laws/Memory.lean ====
section
/-!
SUPPORT. Every operation over memory keeps its canonical form; reset memory has it; a read gives what was written last; the shared operations
over the state keep both memories canonical.
-/
namespace Sys2Proof.Machine

/-! ## Lists of cells -/

theorem cellsFrom_le {lo lo' : Nat} {m : List Host.Cell} (h : cellsFrom lo m = true) (hl : lo' ≤ lo) : cellsFrom lo' m = true := by
  cases m with
  | nil => rfl
  | cons c rest =>
    obtain ⟨a, x⟩ := c
    simp only [cellsFrom, Bool.and_eq_true, decide_eq_true_eq] at h ⊢
    exact ⟨by omega, h.2⟩

theorem cellsFrom_put {lo a : Nat} {x : Byte} {m : List Host.Cell} (h : cellsFrom lo m = true) (ha : lo ≤ a) :
    cellsFrom lo (cellPut m a x) = true := by
  induction m generalizing lo with
  | nil => simp [cellPut, cellsFrom, ha]
  | cons c rest ih =>
    obtain ⟨b, y⟩ := c
    simp only [cellsFrom, Bool.and_eq_true, decide_eq_true_eq] at h
    unfold cellPut
    by_cases h1 : a < b
    · rw [if_pos h1]
      simp only [cellsFrom, Bool.and_eq_true, decide_eq_true_eq]
      exact ⟨ha, by omega, h.2⟩
    · rw [if_neg h1]
      by_cases h2 : a = b
      · rw [if_pos h2]
        simp only [cellsFrom, Bool.and_eq_true, decide_eq_true_eq]
        exact ⟨ha, by rw [h2]; exact h.2⟩
      · rw [if_neg h2]
        simp only [cellsFrom, Bool.and_eq_true, decide_eq_true_eq]
        exact ⟨h.1, ih h.2 (by omega)⟩

theorem cellsFrom_drop {lo a : Nat} {m : List Host.Cell} (h : cellsFrom lo m = true) : cellsFrom lo (cellDrop m a) = true := by
  induction m generalizing lo with
  | nil => rfl
  | cons c rest ih =>
    obtain ⟨b, y⟩ := c
    simp only [cellsFrom, Bool.and_eq_true, decide_eq_true_eq] at h
    unfold cellDrop
    split
    · exact cellsFrom_le h.2 (by omega)
    · simp only [cellsFrom, Bool.and_eq_true, decide_eq_true_eq]
      exact ⟨h.1, ih h.2⟩

theorem cellsFrom_filter {lo : Nat} {p : Host.Cell → Bool} {m : List Host.Cell} (h : cellsFrom lo m = true) :
    cellsFrom lo (m.filter p) = true := by
  induction m generalizing lo with
  | nil => rfl
  | cons c rest ih =>
    obtain ⟨b, y⟩ := c
    simp only [cellsFrom, Bool.and_eq_true, decide_eq_true_eq] at h
    rw [List.filter_cons]
    split
    · simp only [cellsFrom, Bool.and_eq_true, decide_eq_true_eq]
      exact ⟨h.1, ih h.2⟩
    · exact cellsFrom_le (ih h.2) (by omega)

theorem mem_cellPut {a : Nat} {x : Byte} {m : List Host.Cell} {c : Host.Cell} (h : c ∈ cellPut m a x) : c = (a, x) ∨ c ∈ m := by
  induction m with
  | nil => simpa [cellPut] using h
  | cons d rest ih =>
    obtain ⟨b, y⟩ := d
    unfold cellPut at h
    split at h
    · simpa using h
    · split at h
      · rcases List.mem_cons.mp h with h | h
        · exact .inl h
        · exact .inr (List.mem_cons_of_mem _ h)
      · rcases List.mem_cons.mp h with h | h
        · exact .inr (by simp [h])
        · rcases ih h with h | h
          · exact .inl h
          · exact .inr (List.mem_cons_of_mem _ h)

theorem mem_cellDrop {a : Nat} {m : List Host.Cell} {c : Host.Cell} (h : c ∈ cellDrop m a) : c ∈ m := by
  induction m with
  | nil => exact h
  | cons d rest ih =>
    obtain ⟨b, y⟩ := d
    unfold cellDrop at h
    split at h
    · exact List.mem_cons_of_mem _ h
    · rcases List.mem_cons.mp h with h | h
      · simp [h]
      · exact List.mem_cons_of_mem _ (ih h)

/-! ## The canonical form is kept -/

theorem Memory.wf_iff (m : Memory) : m.wf = true ↔ cellsFrom 0 m = true ∧ ∀ c ∈ m, c.2 ≠ 0 := by
  simp [Memory.wf]

theorem Memory.wf_nil : Memory.wf [] = true := rfl

theorem Memory.put_wf {m : Memory} (h : m.wf = true) (a : Nat) (x : Byte) : (m.put a x).wf = true := by
  rw [Memory.wf_iff] at h ⊢
  unfold Memory.put
  split
  · exact ⟨cellsFrom_drop h.1, fun c hc => h.2 c (mem_cellDrop hc)⟩
  · rename_i hx
    refine ⟨cellsFrom_put h.1 (Nat.zero_le _), fun c hc => ?_⟩
    rcases mem_cellPut hc with rfl | hc
    · exact hx
    · exact h.2 c hc

theorem Memory.putBytes_wf {m : Memory} (h : m.wf = true) (a : Nat) (l : List Byte) : (m.putBytes a l).wf = true := by
  induction l generalizing m a with
  | nil => exact h
  | cons x xs ih => exact ih (Memory.put_wf h a x) (a + 1)

theorem Memory.putNat_wf {m : Memory} (h : m.wf = true) (a n x : Nat) : (m.putNat a n x).wf = true := Memory.putBytes_wf h a _

theorem Memory.overlay_wf {m : Memory} (h : m.wf = true) (o : Overlay) : (m.overlay o).wf = true := by
  unfold Memory.overlay
  induction o generalizing m with
  | nil => exact h
  | cons c rest ih => exact ih (Memory.put_wf h c.1 c.2)

theorem Memory.cellsIf_wf {m : Memory} (h : m.wf = true) (p : Nat → Bool) : Memory.wf (cellsIf p m) = true := by
  rw [Memory.wf_iff] at h ⊢
  exact ⟨cellsFrom_filter h.1, fun c hc => h.2 c (List.mem_filter.mp hc).1⟩

theorem State.reset_memoriesOk : MemoriesOk State.reset := ⟨rfl, rfl⟩

/-! ## A read after a write -/

theorem cellAt_put_self (m : List Host.Cell) (a : Nat) (x : Byte) : cellAt (cellPut m a x) a = some x := by
  induction m with
  | nil => simp [cellPut, cellAt]
  | cons c rest ih =>
    obtain ⟨b, y⟩ := c
    unfold cellPut
    split
    · simp [cellAt]
    · split
      · simp [cellAt]
      · rename_i h
        simp [cellAt, h, ih]

theorem cellAt_put_other (m : List Host.Cell) {a b : Nat} (x : Byte) (h : b ≠ a) : cellAt (cellPut m a x) b = cellAt m b := by
  induction m with
  | nil => simp [cellPut, cellAt, h]
  | cons c rest ih =>
    obtain ⟨d, y⟩ := c
    unfold cellPut
    split
    · simp [cellAt, h]
    · split
      · rename_i e
        subst e
        simp [cellAt, h]
      · simp only [cellAt, ih]

theorem cellAt_none {m : List Host.Cell} {lo a : Nat} (h : cellsFrom lo m = true) (ha : a < lo) : cellAt m a = none := by
  induction m generalizing lo with
  | nil => rfl
  | cons c rest ih =>
    obtain ⟨b, y⟩ := c
    simp only [cellsFrom, Bool.and_eq_true, decide_eq_true_eq] at h
    have e : ¬ a = b := by omega
    simp only [cellAt, if_neg e]
    exact ih h.2 (by omega)

theorem cellAt_drop_self {m : List Host.Cell} {lo : Nat} (a : Nat) (h : cellsFrom lo m = true) : cellAt (cellDrop m a) a = none := by
  induction m generalizing lo with
  | nil => rfl
  | cons c rest ih =>
    obtain ⟨b, y⟩ := c
    simp only [cellsFrom, Bool.and_eq_true, decide_eq_true_eq] at h
    unfold cellDrop
    split
    · exact cellAt_none h.2 (by omega)
    · rename_i e
      simp only [cellAt, if_neg e]
      exact ih h.2

theorem cellAt_drop_other (m : List Host.Cell) {a b : Nat} (h : b ≠ a) : cellAt (cellDrop m a) b = cellAt m b := by
  induction m with
  | nil => rfl
  | cons c rest ih =>
    obtain ⟨d, y⟩ := c
    unfold cellDrop
    split
    · rename_i e
      subst e
      simp [cellAt, h]
    · simp only [cellAt, ih]

theorem Memory.get_put_self {m : Memory} (h : m.wf = true) (a : Nat) (x : Byte) : (m.put a x).get a = x := by
  rw [Memory.wf_iff] at h
  unfold Memory.put Memory.get
  split
  · rename_i e
    rw [cellAt_drop_self a h.1, e]
    rfl
  · rw [cellAt_put_self]
    rfl

theorem Memory.get_put_other (m : Memory) {a b : Nat} (x : Byte) (h : b ≠ a) : (m.put a x).get b = m.get b := by
  unfold Memory.put Memory.get
  split
  · rw [cellAt_drop_other m h]
  · rw [cellAt_put_other m x h]

/-- Bytes outside what is written read as before. -/
theorem Memory.get_putBytes_other (m : Memory) (a : Nat) (l : List Byte) {b : Nat} (h : b < a ∨ a + l.length ≤ b) :
    (m.putBytes a l).get b = m.get b := by
  induction l generalizing m a with
  | nil => rfl
  | cons x xs ih =>
    simp only [List.length_cons] at h
    show (Memory.putBytes (m.put a x) (a + 1) xs).get b = m.get b
    rw [ih (m.put a x) (a + 1) (by omega), Memory.get_put_other m x (by omega)]

/-- What is written from an address on reads back. -/
theorem Memory.bytes_putBytes {m : Memory} (h : m.wf = true) (a : Nat) (l : List Byte) : (m.putBytes a l).bytes a l.length = l := by
  induction l generalizing m a with
  | nil => rfl
  | cons x xs ih =>
    show (Memory.putBytes (m.put a x) (a + 1) xs).get a :: (Memory.putBytes (m.put a x) (a + 1) xs).bytes (a + 1) xs.length = x :: xs
    rw [ih (Memory.put_wf h a x) (a + 1), Memory.get_putBytes_other _ _ _ (by omega), Memory.get_put_self h]

theorem leBytes_length (n x : Nat) : (leBytes n x).length = n := by
  induction n generalizing x with
  | zero => rfl
  | succ n ih => simp [leBytes, ih]

theorem leNat_leBytes (n x : Nat) : leNat (leBytes n x) = x % 256 ^ n := by
  induction n generalizing x with
  | zero => simp [leBytes, leNat, Nat.mod_one]
  | succ n ih =>
    simp only [leBytes, leNat, ih, BitVec.toNat_ofNat]
    rw [show 256 ^ (n + 1) = 256 * 256 ^ n by rw [Nat.pow_succ, Nat.mul_comm], Nat.mod_mul]

/-- A number written reads back, modulo its width. -/
theorem Memory.nat_putNat {m : Memory} (h : m.wf = true) (a n x : Nat) : (m.putNat a n x).nat a n = x % 256 ^ n := by
  have e := Memory.bytes_putBytes h a (leBytes n x)
  rw [leBytes_length] at e
  unfold Memory.nat Memory.putNat
  rw [e, leNat_leBytes]

/-! ## Shared operations keep both memories canonical -/

/-- A state with the memories of another. -/
theorem MemoriesOk.of {s t : State} (h : MemoriesOk s) (hi : t.image = s.image) (hh : t.hostMem = s.hostMem) : MemoriesOk t :=
  ⟨hi ▸ h.image, hh ▸ h.host⟩

/-- A fold keeps what every step of it keeps. -/
theorem MemoriesOk.foldl {α : Type} {f : State → α → State} (hf : ∀ s x, MemoriesOk s → MemoriesOk (f s x)) (l : List α) {s : State}
    (h : MemoriesOk s) : MemoriesOk (l.foldl f s) := by
  induction l generalizing s with
  | nil => exact h
  | cons x xs ih => exact ih (hf s x h)

theorem State.hostWrite_memoriesOk {s : State} (h : MemoriesOk s) (a n x : Nat) : MemoriesOk (s.hostWrite a n x) :=
  ⟨h.image, Memory.putNat_wf h.host a n x⟩

theorem State.ringPut_memoriesOk {s : State} (h : MemoriesOk s) (c : Context) (x : Nat) : MemoriesOk (s.ringPut c x) :=
  (State.hostWrite_memoriesOk h (c.evring + 32 * c.evtail) 32 x).of rfl rfl

theorem State.event_memoriesOk {s : State} (h : MemoriesOk s) (ctx : Nat) (e : EventInfo) : MemoriesOk (s.event ctx e) := by
  unfold State.event
  split
  · exact h
  · rename_i c hc
    simp only
    split
    · split
      · exact h.of rfl rfl
      · exact h.of rfl rfl
    · refine State.ringPut_memoriesOk ?_ _ _
      exact h.of rfl rfl

theorem State.completeCommand_memoriesOk {s : State} (h : MemoriesOk s) (queue slot status : Nat) :
    MemoriesOk (s.completeCommand queue slot status) := by
  unfold State.completeCommand
  split
  · exact h
  · split
    · exact h
    · rename_i q _ _ c _
      simp only
      have k := State.hostWrite_memoriesOk h (q.slotAddr slot + 56) 8 (2 ^ 63 + c.tag.toNat * 256 + status % 256)
      split
      · exact k.of rfl rfl
      · exact k.of rfl rfl

theorem State.endMonitor_memoriesOk {s : State} (h : MemoriesOk s) (m : Monitor) (v : Option Nat) : MemoriesOk (s.endMonitor m v) := by
  unfold State.endMonitor
  simp only
  split
  · refine State.completeCommand_memoriesOk ?_ _ _ _
    exact h.of rfl rfl
  · exact h.of rfl rfl

theorem State.evalMonitors_memoriesOk {s : State} (h : MemoriesOk s) (lines : List Nat) : MemoriesOk (s.evalMonitors lines) := by
  unfold State.evalMonitors
  refine MemoriesOk.foldl (fun s m h => ?_) _ h
  simp only
  split
  · split
    · exact State.endMonitor_memoriesOk h m _
    · exact h
  · exact h

theorem State.holdLine_image (s : State) (line : Nat) (v : Version) : (s.holdLine line v).image = s.image := by
  unfold State.holdLine
  split <;> rfl
theorem State.holdLine_hostMem (s : State) (line : Nat) (v : Version) : (s.holdLine line v).hostMem = s.hostMem := by
  unfold State.holdLine
  split <;> rfl

/-- A fold leaves what every step of it leaves. -/
theorem State.foldl_same {α β : Type} (p : State → β) {f : State → α → State} (hf : ∀ s x, p (f s x) = p s) (l : List α) (s : State) :
    p (l.foldl f s) = p s := by
  induction l generalizing s with
  | nil => rfl
  | cons x xs ih => exact (ih _).trans (hf s x)

theorem State.holdPublished_image (s : State) (lines good : List Nat) (slot : Nat) : (s.holdPublished lines good slot).image = s.image :=
  State.foldl_same (·.image) (fun s n => s.holdLine_image n none) _ _
theorem State.holdPublished_hostMem (s : State) (lines good : List Nat) (slot : Nat) : (s.holdPublished lines good slot).hostMem = s.hostMem :=
  State.foldl_same (·.hostMem) (fun s n => s.holdLine_hostMem n none) _ _

theorem State.dropGone_image (s : State) (lines : List Nat) : (s.dropGone lines).image = s.image :=
  (State.settleSegments_image _).trans (ArmatureOnly.foldl State.settleEntry_only _ _).image
theorem State.dropGone_hostMem (s : State) (lines : List Nat) : (s.dropGone lines).hostMem = s.hostMem :=
  (State.settleSegments_hostMem _).trans (ArmatureOnly.foldl State.settleEntry_only _ _).hostMem

/-- A publication keeps the image canonical (R236). -/
theorem State.commitImage_memoriesOk {s : State} (h : MemoriesOk s) (b : Overlay) (slot : Nat) (tag toward : BitVec 32) (step : Bool) :
    MemoriesOk (s.commitImage b slot tag toward step) := by
  unfold State.commitImage
  simp only
  refine State.evalMonitors_memoriesOk ?_ _
  refine MemoriesOk.of (s := { s with image := s.image.overlay (s.definedBytes b) }) ⟨Memory.overlay_wf h.image _, h.host⟩ ?_ ?_
  · rw [State.dropGone_image, State.holdPublished_image]
  · rw [State.dropGone_hostMem, State.holdPublished_hostMem]

theorem State.publish_memoriesOk {s : State} (h : MemoriesOk s) (slot : Nat) : MemoriesOk (s.publish slot) := by
  unfold State.publish
  simp only
  refine State.commitImage_memoriesOk ?_ _ _ _ _ _
  exact h.of rfl rfl

theorem State.publishPart_memoriesOk {s : State} (h : MemoriesOk s) (slot : Nat) (p : Nat → Bool) (x : Overlay) :
    MemoriesOk (s.publishPart slot p x) := by
  unfold State.publishPart
  simp only
  refine State.commitImage_memoriesOk ?_ _ _ _ _ _
  exact h.of rfl rfl

end Sys2Proof.Machine
end

