-- ==== Sys2Proof/Laws/Steps.lean ====
section
/-!
SUPPORT. A step runs what the decoder reads.
-/
namespace Sys2Proof

/-- Decoding with the operands made into something first is decoding and then making it. -/
theorem decodeCtlx_map {α β : Type} (f : α → β) (x : Fields) (callx : ArgsBx → α) (ret exit yield nop : ArgsC → α) (trap brk : ArgsTrap → α) :
    decodeCtlx x (fun o => f (callx o)) (fun o => f (ret o)) (fun o => f (exit o)) (fun o => f (yield o)) (fun o => f (nop o))
      (fun o => f (trap o)) (fun o => f (brk o)) = (decodeCtlx x callx ret exit yield nop trap brk).map f := by
  have hb : x.getBx (fun o => f (callx o)) = (x.getBx callx).map f := by unfold Fields.getBx; split <;> rfl
  have hc : ∀ k : ArgsC → α, x.getC (fun o => f (k o)) = (x.getC k).map f := by intro k; unfold Fields.getC; split <;> rfl
  have ht : ∀ k : ArgsTrap → α, x.getTrap (fun o => f (k o)) = (x.getTrap k).map f := by intro k; unfold Fields.getTrap; split <;> rfl
  unfold decodeCtlx
  split
  · rw [hb]
    cases x.getBx callx with
    | error r => rfl
    | ok y =>
      show (if x.a % 2 = 0 then Except.ok (f y) else Except.error Reject.oddPair) = (if x.a % 2 = 0 then Except.ok y else Except.error Reject.oddPair).map f
      split <;> rfl
  · exact hc ret
  · exact hc exit
  · exact hc yield
  · exact ht trap
  · exact ht brk
  · exact hc nop

/-- The same for a whole instruction. -/
theorem decodeWith_map {α β : Type} (f : α → β) (k : Instr → α) (callx : ArgsBx → α) (ret exit yield nop : ArgsC → α)
    (trap brk : ArgsTrap → α) (ws : List Word) :
    decodeWith (fun i => f (k i)) (fun o => f (callx o)) (fun o => f (ret o)) (fun o => f (exit o)) (fun o => f (yield o)) (fun o => f (nop o))
      (fun o => f (trap o)) (fun o => f (brk o)) ws
      = (decodeWith k callx ret exit yield nop trap brk ws).map (fun x => (f x.1, x.2)) := by
  cases ws with
  | nil => rfl
  | cons w rest =>
    simp only [decodeWith]
    split
    · cases decodeSlit (Fields.ofWord w) rest <;> rfl
    · split
      · cases decodeVlit (Fields.ofWord w) rest <;> rfl
      · split
        · rw [decodeCtlx_map f]
          cases decodeCtlx (Fields.ofWord w) callx ret exit yield nop trap brk <;> rfl
        · cases decodeMost (Fields.ofWord w) with
          | error e => rfl
          | ok i =>
            simp only
            cases checkOperands i <;> rfl

namespace Machine

/-- What the words of a clause do is what `exec` does with the instruction that `decode` reads. -/
theorem State.runWords_ok {s : State} {gid : Nat} {ws rest : List Word} {i : Instr} (h : decode ws = .ok (i, rest)) :
    s.runWords gid ws = exec i s := by
  have e := decodeWith_map (fun i => exec i s) id Instr.callx Instr.ret Instr.exit Instr.yield Instr.nop Instr.trap Instr.brk ws
  have d : decodeWith id Instr.callx Instr.ret Instr.exit Instr.yield Instr.nop Instr.trap Instr.brk ws = .ok (i, rest) := h
  rw [d] at e
  show (match decodeWith (fun i => exec i s) (fun o => exec (.callx o) s) (fun o => exec (.ret o) s) (fun o => exec (.exit o) s)
    (fun o => exec (.yield o) s) (fun o => exec (.nop o) s) (fun o => exec (.trap o) s) (fun o => exec (.brk o) s) ws with
    | .ok (x, _) => x
    | .error _ => .next (s.killGroup gid 0x01)) = exec i s
  rw [show decodeWith (fun i => exec i s) (fun o => exec (.callx o) s) (fun o => exec (.ret o) s) (fun o => exec (.exit o) s)
    (fun o => exec (.yield o) s) (fun o => exec (.nop o) s) (fun o => exec (.trap o) s) (fun o => exec (.brk o) s) ws
    = .ok (exec i s, rest) from e]

/-- Words that cannot be read end the group. -/
theorem State.runWords_error {s : State} {gid : Nat} {ws : List Word} {r : Reject} (h : decode ws = .error r) :
    s.runWords gid ws = .next (s.killGroup gid 0x01) := by
  have e := decodeWith_map (fun i => exec i s) id Instr.callx Instr.ret Instr.exit Instr.yield Instr.nop Instr.trap Instr.brk ws
  have d : decodeWith id Instr.callx Instr.ret Instr.exit Instr.yield Instr.nop Instr.trap Instr.brk ws = .error r := h
  rw [d] at e
  show (match decodeWith (fun i => exec i s) (fun o => exec (.callx o) s) (fun o => exec (.ret o) s) (fun o => exec (.exit o) s)
    (fun o => exec (.yield o) s) (fun o => exec (.nop o) s) (fun o => exec (.trap o) s) (fun o => exec (.brk o) s) ws with
    | .ok (x, _) => x
    | .error _ => .next (s.killGroup gid 0x01)) = .next (s.killGroup gid 0x01)
  rw [show decodeWith (fun i => exec i s) (fun o => exec (.callx o) s) (fun o => exec (.ret o) s) (fun o => exec (.exit o) s)
    (fun o => exec (.yield o) s) (fun o => exec (.nop o) s) (fun o => exec (.trap o) s) (fun o => exec (.brk o) s) ws = .error r from e]

end Machine
end Sys2Proof
end

