-- ==== Sys2Proof/Laws/Next.lean ====
section
/-!
SUPPORT. Every instruction of the table completes: no meaning stops the machine.
-/
namespace Sys2Proof.Machine

/-- A word answers a next state, whatever it makes of it. -/
theorem State.wordOf_next (s : State) (share : Share) (guard : Option Nat) (u : Uses) (k : Ctx → State) : ∃ t, s.wordOf share guard u k = .next t := by
  unfold State.wordOf
  split
  · exact ⟨_, rfl⟩
  · split
    · exact ⟨_, rfl⟩
    · exact ⟨_, rfl⟩

/-- What every instruction and every event answers is a next state. -/
theorem exec_next (i : Instr) (s : State) : ∃ t, exec i s = .next t := by
  cases i
  all_goals try exact ⟨_, rfl⟩
  case iadd o => show ∃ t, execIadd o s = .next t; unfold execIadd State.integer State.vector; exact State.wordOf_next _ _ _ _ _
  case iadds o => show ∃ t, execIadds o s = .next t; unfold execIadds State.integer State.vector; exact State.wordOf_next _ _ _ _ _
  case iaddus o => show ∃ t, execIaddus o s = .next t; unfold execIaddus State.integer State.vector; exact State.wordOf_next _ _ _ _ _
  case isub o => show ∃ t, execIsub o s = .next t; unfold execIsub State.integer State.vector; exact State.wordOf_next _ _ _ _ _
  case isubs o => show ∃ t, execIsubs o s = .next t; unfold execIsubs State.integer State.vector; exact State.wordOf_next _ _ _ _ _
  case isubus o => show ∃ t, execIsubus o s = .next t; unfold execIsubus State.integer State.vector; exact State.wordOf_next _ _ _ _ _
  case irsub o => show ∃ t, execIrsub o s = .next t; unfold execIrsub State.integer State.vector; exact State.wordOf_next _ _ _ _ _
  case imul o => show ∃ t, execImul o s = .next t; unfold execImul State.integer State.vector; exact State.wordOf_next _ _ _ _ _
  case imulhi o => show ∃ t, execImulhi o s = .next t; unfold execImulhi State.integer State.vector; exact State.wordOf_next _ _ _ _ _
  case imulhu o => show ∃ t, execImulhu o s = .next t; unfold execImulhu State.integer State.vector; exact State.wordOf_next _ _ _ _ _
  case imad o => show ∃ t, execImad o s = .next t; unfold execImad State.integerAcc State.vector; exact State.wordOf_next _ _ _ _ _
  case and o => show ∃ t, execAnd o s = .next t; unfold execAnd State.integer State.vector; exact State.wordOf_next _ _ _ _ _
  case or o => show ∃ t, execOr o s = .next t; unfold execOr State.integer State.vector; exact State.wordOf_next _ _ _ _ _
  case xor o => show ∃ t, execXor o s = .next t; unfold execXor State.integer State.vector; exact State.wordOf_next _ _ _ _ _
  case andn o => show ∃ t, execAndn o s = .next t; unfold execAndn State.integer State.vector; exact State.wordOf_next _ _ _ _ _
  case shl o => show ∃ t, execShl o s = .next t; unfold execShl State.integer State.vector; exact State.wordOf_next _ _ _ _ _
  case shr o => show ∃ t, execShr o s = .next t; unfold execShr State.integer State.vector; exact State.wordOf_next _ _ _ _ _
  case sar o => show ∃ t, execSar o s = .next t; unfold execSar State.integer State.vector; exact State.wordOf_next _ _ _ _ _
  case rol o => show ∃ t, execRol o s = .next t; unfold execRol State.integer State.vector; exact State.wordOf_next _ _ _ _ _
  case imin o => show ∃ t, execImin o s = .next t; unfold execImin State.integer State.vector; exact State.wordOf_next _ _ _ _ _
  case imax o => show ∃ t, execImax o s = .next t; unfold execImax State.integer State.vector; exact State.wordOf_next _ _ _ _ _
  case iminu o => show ∃ t, execIminu o s = .next t; unfold execIminu State.integer State.vector; exact State.wordOf_next _ _ _ _ _
  case imaxu o => show ∃ t, execImaxu o s = .next t; unfold execImaxu State.integer State.vector; exact State.wordOf_next _ _ _ _ _
  case popc o => show ∃ t, execPopc o s = .next t; unfold execPopc State.bitCount State.vector; exact State.wordOf_next _ _ _ _ _
  case clz o => show ∃ t, execClz o s = .next t; unfold execClz State.bitCount State.vector; exact State.wordOf_next _ _ _ _ _
  case brev o => show ∃ t, execBrev o s = .next t; unfold execBrev State.bitCount State.vector; exact State.wordOf_next _ _ _ _ _
  case ffs o => show ∃ t, execFfs o s = .next t; unfold execFfs State.bitCount State.vector; exact State.wordOf_next _ _ _ _ _
  case bfe o => show ∃ t, execBfe o s = .next t; unfold execBfe State.integer State.vector; exact State.wordOf_next _ _ _ _ _
  case bfes o => show ∃ t, execBfes o s = .next t; unfold execBfes State.integer State.vector; exact State.wordOf_next _ _ _ _ _
  case bfi o => show ∃ t, execBfi o s = .next t; unfold execBfi State.integerAcc State.vector; exact State.wordOf_next _ _ _ _ _
  case lea o => show ∃ t, execLea o s = .next t; unfold execLea State.vector; exact State.wordOf_next _ _ _ _ _
  case sel o => show ∃ t, execSel o s = .next t; unfold execSel State.vector; exact State.wordOf_next _ _ _ _ _
  case add64 o => show ∃ t, execAdd64 o s = .next t; unfold execAdd64 State.vector64; exact State.wordOf_next _ _ _ _ _
  case sub64 o => show ∃ t, execSub64 o s = .next t; unfold execSub64 State.vector64; exact State.wordOf_next _ _ _ _ _
  case mul64 o => show ∃ t, execMul64 o s = .next t; unfold execMul64 State.vector64; exact State.wordOf_next _ _ _ _ _
  case mulw o => show ∃ t, execMulw o s = .next t; unfold execMulw State.vector64; exact State.wordOf_next _ _ _ _ _
  case iaddi o => show ∃ t, execIaddi o s = .next t; unfold execIaddi State.vector; exact State.wordOf_next _ _ _ _ _
  case mix o => show ∃ t, execMix o s = .next t; unfold execMix State.vector; exact State.wordOf_next _ _ _ _ _
  case idp4Ss o => show ∃ t, execIdp4Ss o s = .next t; unfold execIdp4Ss State.integerAcc State.vector; exact State.wordOf_next _ _ _ _ _
  case idp4Nn o => show ∃ t, execIdp4Nn o s = .next t; unfold execIdp4Nn State.integerAcc State.vector; exact State.wordOf_next _ _ _ _ _
  case idp4Sn o => show ∃ t, execIdp4Sn o s = .next t; unfold execIdp4Sn State.integerAcc State.vector; exact State.wordOf_next _ _ _ _ _
  case sadd o => show ∃ t, execSadd o s = .next t; unfold execSadd State.scalar3 State.scalar; exact State.wordOf_next _ _ _ _ _
  case ssub o => show ∃ t, execSsub o s = .next t; unfold execSsub State.scalar3 State.scalar; exact State.wordOf_next _ _ _ _ _
  case smul o => show ∃ t, execSmul o s = .next t; unfold execSmul State.scalar3 State.scalar; exact State.wordOf_next _ _ _ _ _
  case smulhn o => show ∃ t, execSmulhn o s = .next t; unfold execSmulhn State.scalar3 State.scalar; exact State.wordOf_next _ _ _ _ _
  case sand o => show ∃ t, execSand o s = .next t; unfold execSand State.scalar3 State.scalar; exact State.wordOf_next _ _ _ _ _
  case sor o => show ∃ t, execSor o s = .next t; unfold execSor State.scalar3 State.scalar; exact State.wordOf_next _ _ _ _ _
  case sxor o => show ∃ t, execSxor o s = .next t; unfold execSxor State.scalar3 State.scalar; exact State.wordOf_next _ _ _ _ _
  case sandn o => show ∃ t, execSandn o s = .next t; unfold execSandn State.scalar3 State.scalar; exact State.wordOf_next _ _ _ _ _
  case sshl o => show ∃ t, execSshl o s = .next t; unfold execSshl State.scalar3 State.scalar; exact State.wordOf_next _ _ _ _ _
  case sshr o => show ∃ t, execSshr o s = .next t; unfold execSshr State.scalar3 State.scalar; exact State.wordOf_next _ _ _ _ _
  case ssar o => show ∃ t, execSsar o s = .next t; unfold execSsar State.scalar3 State.scalar; exact State.wordOf_next _ _ _ _ _
  case smin o => show ∃ t, execSmin o s = .next t; unfold execSmin State.scalar3 State.scalar; exact State.wordOf_next _ _ _ _ _
  case smax o => show ∃ t, execSmax o s = .next t; unfold execSmax State.scalar3 State.scalar; exact State.wordOf_next _ _ _ _ _
  case sminu o => show ∃ t, execSminu o s = .next t; unfold execSminu State.scalar3 State.scalar; exact State.wordOf_next _ _ _ _ _
  case smaxu o => show ∃ t, execSmaxu o s = .next t; unfold execSmaxu State.scalar3 State.scalar; exact State.wordOf_next _ _ _ _ _
  case saddi o => show ∃ t, execSaddi o s = .next t; unfold execSaddi State.scalar; exact State.wordOf_next _ _ _ _ _
  case slit o lit => show ∃ t, execSlit o lit s = .next t; unfold execSlit; exact State.wordOf_next _ _ _ _ _
  case slitW64 o lit0 lit1 => show ∃ t, execSlitW64 o lit0 lit1 s = .next t; unfold execSlitW64; exact State.wordOf_next _ _ _ _ _
  case slea o => show ∃ t, execSlea o s = .next t; unfold execSlea State.scalar; exact State.wordOf_next _ _ _ _ _
  case fadd o => show ∃ t, execFadd o s = .next t; unfold execFadd State.single State.vectorF; exact State.wordOf_next _ _ _ _ _
  case fsub o => show ∃ t, execFsub o s = .next t; unfold execFsub State.single State.vectorF; exact State.wordOf_next _ _ _ _ _
  case fmul o => show ∃ t, execFmul o s = .next t; unfold execFmul State.vectorF; exact State.wordOf_next _ _ _ _ _
  case ffma o => show ∃ t, execFfma o s = .next t; unfold execFfma State.vectorF; exact State.wordOf_next _ _ _ _ _
  case ffms o => show ∃ t, execFfms o s = .next t; unfold execFfms State.vectorF; exact State.wordOf_next _ _ _ _ _
  case fmin o => show ∃ t, execFmin o s = .next t; unfold execFmin State.selectWord State.vectorF; exact State.wordOf_next _ _ _ _ _
  case fmax o => show ∃ t, execFmax o s = .next t; unfold execFmax State.selectWord State.vectorF; exact State.wordOf_next _ _ _ _ _
  case fminp o => show ∃ t, execFminp o s = .next t; unfold execFminp State.selectWord State.vectorF; exact State.wordOf_next _ _ _ _ _
  case fmaxp o => show ∃ t, execFmaxp o s = .next t; unfold execFmaxp State.selectWord State.vectorF; exact State.wordOf_next _ _ _ _ _
  case frcp o => show ∃ t, execFrcp o s = .next t; unfold execFrcp State.special State.vectorF; exact State.wordOf_next _ _ _ _ _
  case frsq o => show ∃ t, execFrsq o s = .next t; unfold execFrsq State.special State.vectorF; exact State.wordOf_next _ _ _ _ _
  case fsqrt o => show ∃ t, execFsqrt o s = .next t; unfold execFsqrt State.special State.vectorF; exact State.wordOf_next _ _ _ _ _
  case fex2 o => show ∃ t, execFex2 o s = .next t; unfold execFex2 State.special State.vectorF; exact State.wordOf_next _ _ _ _ _
  case flg2 o => show ∃ t, execFlg2 o s = .next t; unfold execFlg2 State.special State.vectorF; exact State.wordOf_next _ _ _ _ _
  case fsnt o => show ∃ t, execFsnt o s = .next t; unfold execFsnt State.special State.vectorF; exact State.wordOf_next _ _ _ _ _
  case fcst o => show ∃ t, execFcst o s = .next t; unfold execFcst State.special State.vectorF; exact State.wordOf_next _ _ _ _ _
  case dadd o => show ∃ t, execDadd o s = .next t; unfold execDadd State.double State.vectorF64; exact State.wordOf_next _ _ _ _ _
  case dsub o => show ∃ t, execDsub o s = .next t; unfold execDsub State.double State.vectorF64; exact State.wordOf_next _ _ _ _ _
  case dmul o => show ∃ t, execDmul o s = .next t; unfold execDmul State.double State.vectorF64; exact State.wordOf_next _ _ _ _ _
  case dfma o => show ∃ t, execDfma o s = .next t; unfold execDfma State.vectorF64; exact State.wordOf_next _ _ _ _ _
  case dmin o => show ∃ t, execDmin o s = .next t; unfold execDmin State.double State.vectorF64; exact State.wordOf_next _ _ _ _ _
  case dmax o => show ∃ t, execDmax o s = .next t; unfold execDmax State.double State.vectorF64; exact State.wordOf_next _ _ _ _ _
  case ddiv o => show ∃ t, execDdiv o s = .next t; unfold execDdiv State.double State.vectorF64; exact State.wordOf_next _ _ _ _ _
  case dsqrt o => show ∃ t, execDsqrt o s = .next t; unfold execDsqrt State.vectorF64; exact State.wordOf_next _ _ _ _ _
  case hadd2 o => show ∃ t, execHadd2 o s = .next t; unfold execHadd2 State.packed State.vectorF; exact State.wordOf_next _ _ _ _ _
  case hmul2 o => show ∃ t, execHmul2 o s = .next t; unfold execHmul2 State.packed State.vectorF; exact State.wordOf_next _ _ _ _ _
  case hfma2 o => show ∃ t, execHfma2 o s = .next t; unfold execHfma2 State.vectorF; exact State.wordOf_next _ _ _ _ _
  case hmax2 o => show ∃ t, execHmax2 o s = .next t; unfold execHmax2 State.packed State.vectorF; exact State.wordOf_next _ _ _ _ _
  case cvt o => show ∃ t, execCvt o s = .next t; unfold execCvt State.vectorF State.vectorF64; split <;> exact State.wordOf_next _ _ _ _ _
  case pk8e4 o => show ∃ t, execPk8e4 o s = .next t; unfold execPk8e4 State.pack State.vectorF; exact State.wordOf_next _ _ _ _ _
  case pk8e5 o => show ∃ t, execPk8e5 o s = .next t; unfold execPk8e5 State.pack State.vectorF; exact State.wordOf_next _ _ _ _ _
  case pk4 o => show ∃ t, execPk4 o s = .next t; unfold execPk4 State.pack State.vectorF; exact State.wordOf_next _ _ _ _ _
  case up8e4 o => show ∃ t, execUp8e4 o s = .next t; unfold execUp8e4 State.unpack State.vectorF64; exact State.wordOf_next _ _ _ _ _
  case up8e5 o => show ∃ t, execUp8e5 o s = .next t; unfold execUp8e5 State.unpack State.vectorF64; exact State.wordOf_next _ _ _ _ _
  case up4 o => show ∃ t, execUp4 o s = .next t; unfold execUp4 State.unpack State.vectorF64; exact State.wordOf_next _ _ _ _ _
  case qi8 o => show ∃ t, execQi8 o s = .next t; unfold execQi8 State.vectorF; exact State.wordOf_next _ _ _ _ _
  case dq4 o => show ∃ t, execDq4 o s = .next t; unfold execDq4 State.vectorF64; exact State.wordOf_next _ _ _ _ _
  case icmp o => show ∃ t, execIcmp o s = .next t; unfold execIcmp State.compare; exact State.wordOf_next _ _ _ _ _
  case ucmp o => show ∃ t, execUcmp o s = .next t; unfold execUcmp State.compare; exact State.wordOf_next _ _ _ _ _
  case fcmp o => show ∃ t, execFcmp o s = .next t; unfold execFcmp State.compare; exact State.wordOf_next _ _ _ _ _
  case dcmp o => show ∃ t, execDcmp o s = .next t; unfold execDcmp State.compare; exact State.wordOf_next _ _ _ _ _
  case scmp o => show ∃ t, execScmp o s = .next t; unfold execScmp State.compare; exact State.wordOf_next _ _ _ _ _
  case mov o => show ∃ t, execMov o s = .next t; unfold execMov State.vector; exact State.wordOf_next _ _ _ _ _
  case movs o => show ∃ t, execMovs o s = .next t; unfold execMovs State.vector; exact State.wordOf_next _ _ _ _ _
  case rdln o => show ∃ t, execRdln o s = .next t; unfold execRdln; exact State.wordOf_next _ _ _ _ _
  case wrln o => show ∃ t, execWrln o s = .next t; unfold execWrln; exact State.wordOf_next _ _ _ _ _
  case vlit o lit => show ∃ t, execVlit o lit s = .next t; unfold execVlit; exact State.wordOf_next _ _ _ _ _
  case rdsr o => show ∃ t, execRdsr o s = .next t; unfold execRdsr State.vector64 State.vector; split <;> exact State.wordOf_next _ _ _ _ _
  case wrsr o => show ∃ t, execWrsr o s = .next t; unfold execWrsr; exact State.wordOf_next _ _ _ _ _
  case rdpc o => show ∃ t, execRdpc o s = .next t; unfold execRdpc State.vector64; exact State.wordOf_next _ _ _ _ _
  case shflIdx o => show ∃ t, execShflIdx o s = .next t; unfold execShflIdx State.shuffle State.vector; exact State.wordOf_next _ _ _ _ _
  case shflUp o => show ∃ t, execShflUp o s = .next t; unfold execShflUp State.shuffle State.vector; exact State.wordOf_next _ _ _ _ _
  case shflDown o => show ∃ t, execShflDown o s = .next t; unfold execShflDown State.shuffle State.vector; exact State.wordOf_next _ _ _ _ _
  case shflXor o => show ∃ t, execShflXor o s = .next t; unfold execShflXor State.shuffle State.vector; exact State.wordOf_next _ _ _ _ _
  case vall o => show ∃ t, execVall o s = .next t; unfold execVall State.predicate; exact State.wordOf_next _ _ _ _ _
  case vany o => show ∃ t, execVany o s = .next t; unfold execVany State.predicate; exact State.wordOf_next _ _ _ _ _
  case ballot o => show ∃ t, execBallot o s = .next t; unfold execBallot State.vector; exact State.wordOf_next _ _ _ _ _
  case pand o => show ∃ t, execPand o s = .next t; unfold execPand State.predicate; exact State.wordOf_next _ _ _ _ _
  case por o => show ∃ t, execPor o s = .next t; unfold execPor State.predicate; exact State.wordOf_next _ _ _ _ _
  case pxor o => show ∃ t, execPxor o s = .next t; unfold execPxor State.predicate; exact State.wordOf_next _ _ _ _ _
  case pset o => show ∃ t, execPset o s = .next t; unfold execPset State.predicate; exact State.wordOf_next _ _ _ _ _
  case vmatch o => show ∃ t, execVmatch o s = .next t; unfold execVmatch State.vector; exact State.wordOf_next _ _ _ _ _
  case gredAdd o => show ∃ t, execGredAdd o s = .next t; unfold execGredAdd State.reduce; exact State.wordOf_next _ _ _ _ _
  case gredMin o => show ∃ t, execGredMin o s = .next t; unfold execGredMin State.reduce; exact State.wordOf_next _ _ _ _ _
  case gredMax o => show ∃ t, execGredMax o s = .next t; unfold execGredMax State.reduce; exact State.wordOf_next _ _ _ _ _
  case gredMinu o => show ∃ t, execGredMinu o s = .next t; unfold execGredMinu State.reduce; exact State.wordOf_next _ _ _ _ _
  case gredMaxu o => show ∃ t, execGredMaxu o s = .next t; unfold execGredMaxu State.reduce; exact State.wordOf_next _ _ _ _ _
  case gredFadd o => show ∃ t, execGredFadd o s = .next t; unfold execGredFadd State.reduce; exact State.wordOf_next _ _ _ _ _
  case gredFmin o => show ∃ t, execGredFmin o s = .next t; unfold execGredFmin State.reduce; exact State.wordOf_next _ _ _ _ _
  case gredFmax o => show ∃ t, execGredFmax o s = .next t; unfold execGredFmax State.reduce; exact State.wordOf_next _ _ _ _ _
  case scani o => show ∃ t, execScani o s = .next t; unfold execScani State.scan State.vectorF; exact State.wordOf_next _ _ _ _ _
  case scanx o => show ∃ t, execScanx o s = .next t; unfold execScanx State.scan State.vectorF; exact State.wordOf_next _ _ _ _ _
  case scanf o => show ∃ t, execScanf o s = .next t; unfold execScanf State.scan State.vectorF; exact State.wordOf_next _ _ _ _ _
  case scanfx o => show ∃ t, execScanfx o s = .next t; unfold execScanfx State.scan State.vectorF; exact State.wordOf_next _ _ _ _ _
  case scanmax o => show ∃ t, execScanmax o s = .next t; unfold execScanmax State.scan State.vectorF; exact State.wordOf_next _ _ _ _ _
  case scanmin o => show ∃ t, execScanmin o s = .next t; unfold execScanmin State.scan State.vectorF; exact State.wordOf_next _ _ _ _ _
  case segscan o => show ∃ t, execSegscan o s = .next t; unfold execSegscan State.vector; exact State.wordOf_next _ _ _ _ _
  case ldB o => show ∃ t, execLdB o s = .next t; unfold execLdB State.loadWord; exact State.wordOf_next _ _ _ _ _
  case ldH o => show ∃ t, execLdH o s = .next t; unfold execLdH State.loadWord; exact State.wordOf_next _ _ _ _ _
  case ldW o => show ∃ t, execLdW o s = .next t; unfold execLdW State.loadWord; exact State.wordOf_next _ _ _ _ _
  case ldD o => show ∃ t, execLdD o s = .next t; unfold execLdD State.loadWord; exact State.wordOf_next _ _ _ _ _
  case ldQ o => show ∃ t, execLdQ o s = .next t; unfold execLdQ State.loadWord; exact State.wordOf_next _ _ _ _ _
  case ldSb o => show ∃ t, execLdSb o s = .next t; unfold execLdSb State.loadWord; exact State.wordOf_next _ _ _ _ _
  case ldSh o => show ∃ t, execLdSh o s = .next t; unfold execLdSh State.loadWord; exact State.wordOf_next _ _ _ _ _
  case ldSc o => show ∃ t, execLdSc o s = .next t; unfold execLdSc; exact State.wordOf_next _ _ _ _ _
  case stB o => show ∃ t, execStB o s = .next t; unfold execStB State.storeWord; exact State.wordOf_next _ _ _ _ _
  case stH o => show ∃ t, execStH o s = .next t; unfold execStH State.storeWord; exact State.wordOf_next _ _ _ _ _
  case stW o => show ∃ t, execStW o s = .next t; unfold execStW State.storeWord; exact State.wordOf_next _ _ _ _ _
  case stD o => show ∃ t, execStD o s = .next t; unfold execStD State.storeWord; exact State.wordOf_next _ _ _ _ _
  case stQ o => show ∃ t, execStQ o s = .next t; unfold execStQ State.storeWord; exact State.wordOf_next _ _ _ _ _
  case stSc o => show ∃ t, execStSc o s = .next t; unfold execStSc; exact State.wordOf_next _ _ _ _ _
  case ldsB o => show ∃ t, execLdsB o s = .next t; unfold execLdsB State.ldsWord State.spadWord; exact State.wordOf_next _ _ _ _ _
  case ldsH o => show ∃ t, execLdsH o s = .next t; unfold execLdsH State.ldsWord State.spadWord; exact State.wordOf_next _ _ _ _ _
  case ldsW o => show ∃ t, execLdsW o s = .next t; unfold execLdsW State.ldsWord State.spadWord; exact State.wordOf_next _ _ _ _ _
  case ldsD o => show ∃ t, execLdsD o s = .next t; unfold execLdsD State.ldsWord State.spadWord; exact State.wordOf_next _ _ _ _ _
  case ldsQ o => show ∃ t, execLdsQ o s = .next t; unfold execLdsQ State.ldsWord State.spadWord; exact State.wordOf_next _ _ _ _ _
  case ldsSb o => show ∃ t, execLdsSb o s = .next t; unfold execLdsSb State.ldsWord State.spadWord; exact State.wordOf_next _ _ _ _ _
  case ldsSh o => show ∃ t, execLdsSh o s = .next t; unfold execLdsSh State.ldsWord State.spadWord; exact State.wordOf_next _ _ _ _ _
  case stsB o => show ∃ t, execStsB o s = .next t; unfold execStsB State.stsWord State.spadWord; exact State.wordOf_next _ _ _ _ _
  case stsH o => show ∃ t, execStsH o s = .next t; unfold execStsH State.stsWord State.spadWord; exact State.wordOf_next _ _ _ _ _
  case stsW o => show ∃ t, execStsW o s = .next t; unfold execStsW State.stsWord State.spadWord; exact State.wordOf_next _ _ _ _ _
  case stsD o => show ∃ t, execStsD o s = .next t; unfold execStsD State.stsWord State.spadWord; exact State.wordOf_next _ _ _ _ _
  case stsQ o => show ∃ t, execStsQ o s = .next t; unfold execStsQ State.stsWord State.spadWord; exact State.wordOf_next _ _ _ _ _
  case stsf o => show ∃ t, execStsf o s = .next t; unfold execStsf State.spadWord; exact State.wordOf_next _ _ _ _ _
  case sete o => show ∃ t, execSete o s = .next t; unfold execSete State.spadWord; exact State.wordOf_next _ _ _ _ _
  case ldfW o => show ∃ t, execLdfW o s = .next t; unfold execLdfW State.ldfWord; exact State.wordOf_next _ _ _ _ _
  case ldfD o => show ∃ t, execLdfD o s = .next t; unfold execLdfD State.ldfWord; exact State.wordOf_next _ _ _ _ _
  case ldfQ o => show ∃ t, execLdfQ o s = .next t; unfold execLdfQ State.ldfWord; exact State.wordOf_next _ _ _ _ _
  case ldaW o => show ∃ t, execLdaW o s = .next t; unfold execLdaW State.loadWord; exact State.wordOf_next _ _ _ _ _
  case ldaD o => show ∃ t, execLdaD o s = .next t; unfold execLdaD State.loadWord; exact State.wordOf_next _ _ _ _ _
  case ldaQ o => show ∃ t, execLdaQ o s = .next t; unfold execLdaQ State.loadWord; exact State.wordOf_next _ _ _ _ _
  case staW o => show ∃ t, execStaW o s = .next t; unfold execStaW State.storeWord; exact State.wordOf_next _ _ _ _ _
  case staD o => show ∃ t, execStaD o s = .next t; unfold execStaD State.storeWord; exact State.wordOf_next _ _ _ _ _
  case staQ o => show ∃ t, execStaQ o s = .next t; unfold execStaQ State.storeWord; exact State.wordOf_next _ _ _ _ _
  case atomAdd o => show ∃ t, execAtomAdd o s = .next t; unfold execAtomAdd State.atomicWord; exact State.wordOf_next _ _ _ _ _
  case atomSmin o => show ∃ t, execAtomSmin o s = .next t; unfold execAtomSmin State.atomicWord; exact State.wordOf_next _ _ _ _ _
  case atomSmax o => show ∃ t, execAtomSmax o s = .next t; unfold execAtomSmax State.atomicWord; exact State.wordOf_next _ _ _ _ _
  case atomUmin o => show ∃ t, execAtomUmin o s = .next t; unfold execAtomUmin State.atomicWord; exact State.wordOf_next _ _ _ _ _
  case atomUmax o => show ∃ t, execAtomUmax o s = .next t; unfold execAtomUmax State.atomicWord; exact State.wordOf_next _ _ _ _ _
  case atomAnd o => show ∃ t, execAtomAnd o s = .next t; unfold execAtomAnd State.atomicWord; exact State.wordOf_next _ _ _ _ _
  case atomOr o => show ∃ t, execAtomOr o s = .next t; unfold execAtomOr State.atomicWord; exact State.wordOf_next _ _ _ _ _
  case atomXor o => show ∃ t, execAtomXor o s = .next t; unfold execAtomXor State.atomicWord; exact State.wordOf_next _ _ _ _ _
  case atomxXchg32 o => show ∃ t, execAtomxXchg32 o s = .next t; unfold execAtomxXchg32 State.atomicWord; exact State.wordOf_next _ _ _ _ _
  case atomxXchg64 o => show ∃ t, execAtomxXchg64 o s = .next t; unfold execAtomxXchg64 State.atomicWord; exact State.wordOf_next _ _ _ _ _
  case atomxAdd64 o => show ∃ t, execAtomxAdd64 o s = .next t; unfold execAtomxAdd64 State.atomicWord; exact State.wordOf_next _ _ _ _ _
  case atomxFadd32 o => show ∃ t, execAtomxFadd32 o s = .next t; unfold execAtomxFadd32 State.atomicWord; exact State.wordOf_next _ _ _ _ _
  case atomxFmin32 o => show ∃ t, execAtomxFmin32 o s = .next t; unfold execAtomxFmin32 State.atomicWord; exact State.wordOf_next _ _ _ _ _
  case atomxFmax32 o => show ∃ t, execAtomxFmax32 o s = .next t; unfold execAtomxFmax32 State.atomicWord; exact State.wordOf_next _ _ _ _ _
  case atomxFadd64 o => show ∃ t, execAtomxFadd64 o s = .next t; unfold execAtomxFadd64 State.atomicWord; exact State.wordOf_next _ _ _ _ _
  case atomxIncw o => show ∃ t, execAtomxIncw o s = .next t; unfold execAtomxIncw State.atomicWord; exact State.wordOf_next _ _ _ _ _
  case cas32 o => show ∃ t, execCas32 o s = .next t; unfold execCas32 State.casWord; exact State.wordOf_next _ _ _ _ _
  case cas64 o => show ∃ t, execCas64 o s = .next t; unfold execCas64 State.casWord; exact State.wordOf_next _ _ _ _ _
  case atomsAdd o => show ∃ t, execAtomsAdd o s = .next t; unfold execAtomsAdd State.atomsWord State.spadWord; exact State.wordOf_next _ _ _ _ _
  case atomsSmin o => show ∃ t, execAtomsSmin o s = .next t; unfold execAtomsSmin State.atomsWord State.spadWord; exact State.wordOf_next _ _ _ _ _
  case atomsSmax o => show ∃ t, execAtomsSmax o s = .next t; unfold execAtomsSmax State.atomsWord State.spadWord; exact State.wordOf_next _ _ _ _ _
  case atomsUmin o => show ∃ t, execAtomsUmin o s = .next t; unfold execAtomsUmin State.atomsWord State.spadWord; exact State.wordOf_next _ _ _ _ _
  case atomsUmax o => show ∃ t, execAtomsUmax o s = .next t; unfold execAtomsUmax State.atomsWord State.spadWord; exact State.wordOf_next _ _ _ _ _
  case atomsAnd o => show ∃ t, execAtomsAnd o s = .next t; unfold execAtomsAnd State.atomsWord State.spadWord; exact State.wordOf_next _ _ _ _ _
  case atomsOr o => show ∃ t, execAtomsOr o s = .next t; unfold execAtomsOr State.atomsWord State.spadWord; exact State.wordOf_next _ _ _ _ _
  case atomsXor o => show ∃ t, execAtomsXor o s = .next t; unfold execAtomsXor State.atomsWord State.spadWord; exact State.wordOf_next _ _ _ _ _
  case prefL2 o => show ∃ t, execPrefL2 o s = .next t; unfold execPrefL2 State.prefetchWord; exact State.wordOf_next _ _ _ _ _
  case prefL1 o => show ∃ t, execPrefL1 o s = .next t; unfold execPrefL1 State.prefetchWord; exact State.wordOf_next _ _ _ _ _
  case badd o => show ∃ t, execBadd o s = .next t; unfold execBadd State.bankWord; exact State.wordOf_next _ _ _ _ _
  case bmax o => show ∃ t, execBmax o s = .next t; unfold execBmax State.bankWord; exact State.wordOf_next _ _ _ _ _
  case bmin o => show ∃ t, execBmin o s = .next t; unfold execBmin State.bankWord; exact State.wordOf_next _ _ _ _ _
  case bmul o => show ∃ t, execBmul o s = .next t; unfold execBmul State.bankWord; exact State.wordOf_next _ _ _ _ _
  case bsmx o => show ∃ t, execBsmx o s = .next t; unfold execBsmx State.bankWord; exact State.wordOf_next _ _ _ _ _
  case biadd o => show ∃ t, execBiadd o s = .next t; unfold execBiadd State.bankWord; exact State.wordOf_next _ _ _ _ _
  case bimax o => show ∃ t, execBimax o s = .next t; unfold execBimax State.bankWord; exact State.wordOf_next _ _ _ _ _
  case bset o => show ∃ t, execBset o s = .next t; unfold execBset State.bankWord; exact State.wordOf_next _ _ _ _ _
  case gang o => show ∃ t, execGang o s = .next t; unfold execGang; exact State.wordOf_next _ _ _ _ _
  case obres o => show ∃ t, execObres o s = .next t; unfold execObres; exact State.wordOf_next _ _ _ _ _
  case obrel o => show ∃ t, execObrel o s = .next t; unfold execObrel; exact State.wordOf_next _ _ _ _ _
  case tfetch o => show ∃ t, execTfetch o s = .next t; unfold execTfetch; exact State.wordOf_next _ _ _ _ _
  case mma o => show ∃ t, execMma o s = .next t; unfold execMma State.mmaWord; exact State.wordOf_next _ _ _ _ _
  case mmaq o => show ∃ t, execMmaq o s = .next t; unfold execMmaq State.mmaWord; exact State.wordOf_next _ _ _ _ _
  case accz o => show ∃ t, execAccz o s = .next t; unfold execAccz State.acczWord; exact State.wordOf_next _ _ _ _ _
  case acczD o => show ∃ t, execAcczD o s = .next t; unfold execAcczD State.acczWord; exact State.wordOf_next _ _ _ _ _
  case cpy o => show ∃ t, execCpy o s = .next t; unfold execCpy; exact State.wordOf_next _ _ _ _ _
  case cpyt o => show ∃ t, execCpyt o s = .next t; unfold execCpyt State.blockCopy; exact State.wordOf_next _ _ _ _ _
  case cpyn o => show ∃ t, execCpyn o s = .next t; unfold execCpyn State.blockCopy; exact State.wordOf_next _ _ _ _ _
  case nmc o => show ∃ t, execNmc o s = .next t; unfold execNmc; exact State.wordOf_next _ _ _ _ _
  case rfence o => show ∃ t, execRfence o s = .next t; unfold execRfence; exact State.wordOf_next _ _ _ _ _
  case rel o => show ∃ t, execRel o s = .next t; unfold execRel; exact State.wordOf_next _ _ _ _ _
  case acq o => show ∃ t, execAcq o s = .next t; unfold execAcq; exact State.wordOf_next _ _ _ _ _
  case acqr o => show ∃ t, execAcqr o s = .next t; unfold execAcqr; exact State.wordOf_next _ _ _ _ _
  case fence o => show ∃ t, execFence o s = .next t; unfold execFence; exact State.wordOf_next _ _ _ _ _
  case fencex o => show ∃ t, execFencex o s = .next t; unfold execFencex; exact State.wordOf_next _ _ _ _ _
  case waitc o => show ∃ t, execWaitc o s = .next t; unfold execWaitc; exact State.wordOf_next _ _ _ _ _
  case snap o => show ∃ t, execSnap o s = .next t; unfold execSnap; exact State.wordOf_next _ _ _ _ _
  case revert o => show ∃ t, execRevert o s = .next t; unfold execRevert; exact State.wordOf_next _ _ _ _ _
  case sndrop o => show ∃ t, execSndrop o s = .next t; unfold execSndrop; exact State.wordOf_next _ _ _ _ _
  case bari o => show ∃ t, execBari o s = .next t; unfold execBari; exact State.wordOf_next _ _ _ _ _
  case bara o => show ∃ t, execBara o s = .next t; unfold execBara State.arriveWord; exact State.wordOf_next _ _ _ _ _
  case barw o => show ∃ t, execBarw o s = .next t; unfold execBarw; exact State.wordOf_next _ _ _ _ _
  case bars o => show ∃ t, execBars o s = .next t; unfold execBars State.arriveWord; exact State.wordOf_next _ _ _ _ _
  case barb o => show ∃ t, execBarb o s = .next t; unfold execBarb; exact State.wordOf_next _ _ _ _ _
  case regrpTeam o => show ∃ t, execRegrpTeam o s = .next t; unfold execRegrpTeam State.regrpWord; exact State.wordOf_next _ _ _ _ _
  case regrpCore o => show ∃ t, execRegrpCore o s = .next t; unfold execRegrpCore State.regrpWord; exact State.wordOf_next _ _ _ _ _
  case rgive o => show ∃ t, execRgive o s = .next t; unfold execRgive; exact State.wordOf_next _ _ _ _ _
  case rclaim o => show ∃ t, execRclaim o s = .next t; unfold execRclaim; exact State.wordOf_next _ _ _ _ _
  case bra o => show ∃ t, execBra o s = .next t; unfold execBra; exact State.wordOf_next _ _ _ _ _
  case call o => show ∃ t, execCall o s = .next t; unfold execCall; exact State.wordOf_next _ _ _ _ _
  case brx o => show ∃ t, execBrx o s = .next t; unfold execBrx; exact State.wordOf_next _ _ _ _ _
  case callx o => show ∃ t, execCallx o s = .next t; unfold execCallx; exact State.wordOf_next _ _ _ _ _
  case ret o => show ∃ t, execRet o s = .next t; unfold execRet; exact State.wordOf_next _ _ _ _ _
  case exit o => show ∃ t, execExit o s = .next t; unfold execExit; exact State.wordOf_next _ _ _ _ _
  case yield o => show ∃ t, execYield o s = .next t; unfold execYield; exact State.wordOf_next _ _ _ _ _
  case trap o => show ∃ t, execTrap o s = .next t; unfold execTrap; exact State.wordOf_next _ _ _ _ _
  case brk o => show ∃ t, execBrk o s = .next t; unfold execBrk; exact State.wordOf_next _ _ _ _ _
  case nop o => show ∃ t, execNop o s = .next t; unfold execNop; exact State.wordOf_next _ _ _ _ _
  case barrierArrival gid =>
    show ∃ t, execBarrierArrival gid s = .next t
    unfold execBarrierArrival
    repeat' split
    all_goals exact ⟨_, rfl⟩
  case launch q =>
    show ∃ t, execLaunch q s = .next t
    unfold execLaunch State.readCommand
    split <;> exact ⟨_, rfl⟩
  case wait q =>
    show ∃ t, execWait q s = .next t
    unfold execWait State.readCommand
    split <;> exact ⟨_, rfl⟩

end Sys2Proof.Machine
end

