-- ==== Sys2Proof/Laws/PerInstr.lean ====
section
/-!
SUPPORT. A fact about every instruction: the fields of its encoding stand within their places in the word (R63).
-/
namespace Sys2Proof.Laws.Operands

/-- The fields that encode a word whose operands are in range are within their widths. -/
def Statement (i : Instr) : Prop := ∀ f : Fields, encodeFields i = some f → i.inRange = true → f.inRange = true

/-- From the fields themselves. -/
theorem ofFields {i : Instr} {f : Fields} (e : encodeFields i = some f) (h : i.inRange = true → f.inRange = true) : Statement i := by
  intro x hx
  rw [e] at hx
  cases hx
  exact h

/-- An event, or a word with literals, is encoded by no fields. -/
theorem ofNone {i : Instr} (e : encodeFields i = none) : Statement i := by
  intro x hx
  rw [e] at hx
  cases hx

/-- The bounds of fields that are in range. -/
theorem inRange_of {maj g d a b m s : Nat} (h : maj < 64 ∧ g < 8 ∧ d < 64 ∧ a < 64 ∧ b < 64 ∧ m < 8 ∧ s < 4) :
    (Fields.mk maj g d a b m s).inRange = true := by
  simp only [Fields.inRange, Bool.and_eq_true, decide_eq_true_eq]
  omega

theorem iadd (o : ArgsRS) : Statement (.iadd o) := by
  refine ofFields rfl fun h => inRange_of ?_
  have h : ArgsRS.inRange o = true := h
  simp only [ArgsRS.inRange, Bool.and_eq_true, decide_eq_true_eq] at h
  have hb := Bool.toNat_lt o.s
  omega

theorem iadds (o : ArgsRS) : Statement (.iadds o) := by
  refine ofFields rfl fun h => inRange_of ?_
  have h : ArgsRS.inRange o = true := h
  simp only [ArgsRS.inRange, Bool.and_eq_true, decide_eq_true_eq] at h
  have hb := Bool.toNat_lt o.s
  omega

theorem iaddus (o : ArgsRS) : Statement (.iaddus o) := by
  refine ofFields rfl fun h => inRange_of ?_
  have h : ArgsRS.inRange o = true := h
  simp only [ArgsRS.inRange, Bool.and_eq_true, decide_eq_true_eq] at h
  have hb := Bool.toNat_lt o.s
  omega

theorem isub (o : ArgsRS) : Statement (.isub o) := by
  refine ofFields rfl fun h => inRange_of ?_
  have h : ArgsRS.inRange o = true := h
  simp only [ArgsRS.inRange, Bool.and_eq_true, decide_eq_true_eq] at h
  have hb := Bool.toNat_lt o.s
  omega

theorem isubs (o : ArgsRS) : Statement (.isubs o) := by
  refine ofFields rfl fun h => inRange_of ?_
  have h : ArgsRS.inRange o = true := h
  simp only [ArgsRS.inRange, Bool.and_eq_true, decide_eq_true_eq] at h
  have hb := Bool.toNat_lt o.s
  omega

theorem isubus (o : ArgsRS) : Statement (.isubus o) := by
  refine ofFields rfl fun h => inRange_of ?_
  have h : ArgsRS.inRange o = true := h
  simp only [ArgsRS.inRange, Bool.and_eq_true, decide_eq_true_eq] at h
  have hb := Bool.toNat_lt o.s
  omega

theorem irsub (o : ArgsRS) : Statement (.irsub o) := by
  refine ofFields rfl fun h => inRange_of ?_
  have h : ArgsRS.inRange o = true := h
  simp only [ArgsRS.inRange, Bool.and_eq_true, decide_eq_true_eq] at h
  have hb := Bool.toNat_lt o.s
  omega

theorem imul (o : ArgsRS) : Statement (.imul o) := by
  refine ofFields rfl fun h => inRange_of ?_
  have h : ArgsRS.inRange o = true := h
  simp only [ArgsRS.inRange, Bool.and_eq_true, decide_eq_true_eq] at h
  have hb := Bool.toNat_lt o.s
  omega

theorem imulhi (o : ArgsRS) : Statement (.imulhi o) := by
  refine ofFields rfl fun h => inRange_of ?_
  have h : ArgsRS.inRange o = true := h
  simp only [ArgsRS.inRange, Bool.and_eq_true, decide_eq_true_eq] at h
  have hb := Bool.toNat_lt o.s
  omega

theorem imulhu (o : ArgsRS) : Statement (.imulhu o) := by
  refine ofFields rfl fun h => inRange_of ?_
  have h : ArgsRS.inRange o = true := h
  simp only [ArgsRS.inRange, Bool.and_eq_true, decide_eq_true_eq] at h
  have hb := Bool.toNat_lt o.s
  omega

theorem imad (o : ArgsRS) : Statement (.imad o) := by
  refine ofFields rfl fun h => inRange_of ?_
  have h : ArgsRS.inRange o = true := h
  simp only [ArgsRS.inRange, Bool.and_eq_true, decide_eq_true_eq] at h
  have hb := Bool.toNat_lt o.s
  omega

theorem and (o : ArgsRS) : Statement (.and o) := by
  refine ofFields rfl fun h => inRange_of ?_
  have h : ArgsRS.inRange o = true := h
  simp only [ArgsRS.inRange, Bool.and_eq_true, decide_eq_true_eq] at h
  have hb := Bool.toNat_lt o.s
  omega

theorem or (o : ArgsRS) : Statement (.or o) := by
  refine ofFields rfl fun h => inRange_of ?_
  have h : ArgsRS.inRange o = true := h
  simp only [ArgsRS.inRange, Bool.and_eq_true, decide_eq_true_eq] at h
  have hb := Bool.toNat_lt o.s
  omega

theorem xor (o : ArgsRS) : Statement (.xor o) := by
  refine ofFields rfl fun h => inRange_of ?_
  have h : ArgsRS.inRange o = true := h
  simp only [ArgsRS.inRange, Bool.and_eq_true, decide_eq_true_eq] at h
  have hb := Bool.toNat_lt o.s
  omega

theorem andn (o : ArgsRS) : Statement (.andn o) := by
  refine ofFields rfl fun h => inRange_of ?_
  have h : ArgsRS.inRange o = true := h
  simp only [ArgsRS.inRange, Bool.and_eq_true, decide_eq_true_eq] at h
  have hb := Bool.toNat_lt o.s
  omega

theorem shl (o : ArgsRS) : Statement (.shl o) := by
  refine ofFields rfl fun h => inRange_of ?_
  have h : ArgsRS.inRange o = true := h
  simp only [ArgsRS.inRange, Bool.and_eq_true, decide_eq_true_eq] at h
  have hb := Bool.toNat_lt o.s
  omega

theorem shr (o : ArgsRS) : Statement (.shr o) := by
  refine ofFields rfl fun h => inRange_of ?_
  have h : ArgsRS.inRange o = true := h
  simp only [ArgsRS.inRange, Bool.and_eq_true, decide_eq_true_eq] at h
  have hb := Bool.toNat_lt o.s
  omega

theorem sar (o : ArgsRS) : Statement (.sar o) := by
  refine ofFields rfl fun h => inRange_of ?_
  have h : ArgsRS.inRange o = true := h
  simp only [ArgsRS.inRange, Bool.and_eq_true, decide_eq_true_eq] at h
  have hb := Bool.toNat_lt o.s
  omega

theorem rol (o : ArgsRS) : Statement (.rol o) := by
  refine ofFields rfl fun h => inRange_of ?_
  have h : ArgsRS.inRange o = true := h
  simp only [ArgsRS.inRange, Bool.and_eq_true, decide_eq_true_eq] at h
  have hb := Bool.toNat_lt o.s
  omega

theorem imin (o : ArgsRS) : Statement (.imin o) := by
  refine ofFields rfl fun h => inRange_of ?_
  have h : ArgsRS.inRange o = true := h
  simp only [ArgsRS.inRange, Bool.and_eq_true, decide_eq_true_eq] at h
  have hb := Bool.toNat_lt o.s
  omega

theorem imax (o : ArgsRS) : Statement (.imax o) := by
  refine ofFields rfl fun h => inRange_of ?_
  have h : ArgsRS.inRange o = true := h
  simp only [ArgsRS.inRange, Bool.and_eq_true, decide_eq_true_eq] at h
  have hb := Bool.toNat_lt o.s
  omega

theorem iminu (o : ArgsRS) : Statement (.iminu o) := by
  refine ofFields rfl fun h => inRange_of ?_
  have h : ArgsRS.inRange o = true := h
  simp only [ArgsRS.inRange, Bool.and_eq_true, decide_eq_true_eq] at h
  have hb := Bool.toNat_lt o.s
  omega

theorem imaxu (o : ArgsRS) : Statement (.imaxu o) := by
  refine ofFields rfl fun h => inRange_of ?_
  have h : ArgsRS.inRange o = true := h
  simp only [ArgsRS.inRange, Bool.and_eq_true, decide_eq_true_eq] at h
  have hb := Bool.toNat_lt o.s
  omega

theorem popc (o : ArgsR2) : Statement (.popc o) := by
  refine ofFields rfl fun h => inRange_of ?_
  have h : ArgsR2.inRange o = true := h
  simp only [ArgsR2.inRange, Bool.and_eq_true, decide_eq_true_eq] at h
  omega

theorem clz (o : ArgsR2) : Statement (.clz o) := by
  refine ofFields rfl fun h => inRange_of ?_
  have h : ArgsR2.inRange o = true := h
  simp only [ArgsR2.inRange, Bool.and_eq_true, decide_eq_true_eq] at h
  omega

theorem brev (o : ArgsR2) : Statement (.brev o) := by
  refine ofFields rfl fun h => inRange_of ?_
  have h : ArgsR2.inRange o = true := h
  simp only [ArgsR2.inRange, Bool.and_eq_true, decide_eq_true_eq] at h
  omega

theorem ffs (o : ArgsR2) : Statement (.ffs o) := by
  refine ofFields rfl fun h => inRange_of ?_
  have h : ArgsR2.inRange o = true := h
  simp only [ArgsR2.inRange, Bool.and_eq_true, decide_eq_true_eq] at h
  omega

theorem bfe (o : ArgsRS) : Statement (.bfe o) := by
  refine ofFields rfl fun h => inRange_of ?_
  have h : ArgsRS.inRange o = true := h
  simp only [ArgsRS.inRange, Bool.and_eq_true, decide_eq_true_eq] at h
  have hb := Bool.toNat_lt o.s
  omega

theorem bfes (o : ArgsRS) : Statement (.bfes o) := by
  refine ofFields rfl fun h => inRange_of ?_
  have h : ArgsRS.inRange o = true := h
  simp only [ArgsRS.inRange, Bool.and_eq_true, decide_eq_true_eq] at h
  have hb := Bool.toNat_lt o.s
  omega

theorem bfi (o : ArgsRS) : Statement (.bfi o) := by
  refine ofFields rfl fun h => inRange_of ?_
  have h : ArgsRS.inRange o = true := h
  simp only [ArgsRS.inRange, Bool.and_eq_true, decide_eq_true_eq] at h
  have hb := Bool.toNat_lt o.s
  omega

theorem lea (o : ArgsLea) : Statement (.lea o) := by
  refine ofFields rfl fun h => inRange_of ?_
  have h : ArgsLea.inRange o = true := h
  simp only [ArgsLea.inRange, Bool.and_eq_true, decide_eq_true_eq] at h
  have hb := Bool.toNat_lt o.s
  omega

theorem sel (o : ArgsSel) : Statement (.sel o) := by
  refine ofFields rfl fun h => inRange_of ?_
  have h : ArgsSel.inRange o = true := h
  simp only [ArgsSel.inRange, Bool.and_eq_true, decide_eq_true_eq] at h
  omega

theorem add64 (o : ArgsRS) : Statement (.add64 o) := by
  refine ofFields rfl fun h => inRange_of ?_
  have h : ArgsRS.inRange o = true := h
  simp only [ArgsRS.inRange, Bool.and_eq_true, decide_eq_true_eq] at h
  have hb := Bool.toNat_lt o.s
  omega

theorem sub64 (o : ArgsRS) : Statement (.sub64 o) := by
  refine ofFields rfl fun h => inRange_of ?_
  have h : ArgsRS.inRange o = true := h
  simp only [ArgsRS.inRange, Bool.and_eq_true, decide_eq_true_eq] at h
  have hb := Bool.toNat_lt o.s
  omega

theorem mul64 (o : ArgsRS) : Statement (.mul64 o) := by
  refine ofFields rfl fun h => inRange_of ?_
  have h : ArgsRS.inRange o = true := h
  simp only [ArgsRS.inRange, Bool.and_eq_true, decide_eq_true_eq] at h
  have hb := Bool.toNat_lt o.s
  omega

theorem mulw (o : ArgsRS) : Statement (.mulw o) := by
  refine ofFields rfl fun h => inRange_of ?_
  have h : ArgsRS.inRange o = true := h
  simp only [ArgsRS.inRange, Bool.and_eq_true, decide_eq_true_eq] at h
  have hb := Bool.toNat_lt o.s
  omega

theorem iaddi (o : ArgsImm) : Statement (.iaddi o) := by
  refine ofFields rfl fun h => inRange_of ?_
  have h : ArgsImm.inRange o = true := h
  simp only [ArgsImm.inRange, Bool.and_eq_true, decide_eq_true_eq] at h
  have hi := o.imm.isLt
  omega

theorem mix (o : ArgsMix) : Statement (.mix o) := by
  refine ofFields rfl fun h => inRange_of ?_
  have h : ArgsMix.inRange o = true := h
  simp only [ArgsMix.inRange, Bool.and_eq_true, decide_eq_true_eq] at h
  omega

theorem idp4Ss (o : ArgsRS) : Statement (.idp4Ss o) := by
  refine ofFields rfl fun h => inRange_of ?_
  have h : ArgsRS.inRange o = true := h
  simp only [ArgsRS.inRange, Bool.and_eq_true, decide_eq_true_eq] at h
  have hb := Bool.toNat_lt o.s
  omega

theorem idp4Nn (o : ArgsRS) : Statement (.idp4Nn o) := by
  refine ofFields rfl fun h => inRange_of ?_
  have h : ArgsRS.inRange o = true := h
  simp only [ArgsRS.inRange, Bool.and_eq_true, decide_eq_true_eq] at h
  have hb := Bool.toNat_lt o.s
  omega

theorem idp4Sn (o : ArgsRS) : Statement (.idp4Sn o) := by
  refine ofFields rfl fun h => inRange_of ?_
  have h : ArgsRS.inRange o = true := h
  simp only [ArgsRS.inRange, Bool.and_eq_true, decide_eq_true_eq] at h
  have hb := Bool.toNat_lt o.s
  omega

theorem sadd (o : ArgsS3) : Statement (.sadd o) := by
  refine ofFields rfl fun h => inRange_of ?_
  have h : ArgsS3.inRange o = true := h
  simp only [ArgsS3.inRange, Bool.and_eq_true, decide_eq_true_eq] at h
  omega

theorem ssub (o : ArgsS3) : Statement (.ssub o) := by
  refine ofFields rfl fun h => inRange_of ?_
  have h : ArgsS3.inRange o = true := h
  simp only [ArgsS3.inRange, Bool.and_eq_true, decide_eq_true_eq] at h
  omega

theorem smul (o : ArgsS3) : Statement (.smul o) := by
  refine ofFields rfl fun h => inRange_of ?_
  have h : ArgsS3.inRange o = true := h
  simp only [ArgsS3.inRange, Bool.and_eq_true, decide_eq_true_eq] at h
  omega

theorem smulhn (o : ArgsS3) : Statement (.smulhn o) := by
  refine ofFields rfl fun h => inRange_of ?_
  have h : ArgsS3.inRange o = true := h
  simp only [ArgsS3.inRange, Bool.and_eq_true, decide_eq_true_eq] at h
  omega

theorem sand (o : ArgsS3) : Statement (.sand o) := by
  refine ofFields rfl fun h => inRange_of ?_
  have h : ArgsS3.inRange o = true := h
  simp only [ArgsS3.inRange, Bool.and_eq_true, decide_eq_true_eq] at h
  omega

theorem sor (o : ArgsS3) : Statement (.sor o) := by
  refine ofFields rfl fun h => inRange_of ?_
  have h : ArgsS3.inRange o = true := h
  simp only [ArgsS3.inRange, Bool.and_eq_true, decide_eq_true_eq] at h
  omega

theorem sxor (o : ArgsS3) : Statement (.sxor o) := by
  refine ofFields rfl fun h => inRange_of ?_
  have h : ArgsS3.inRange o = true := h
  simp only [ArgsS3.inRange, Bool.and_eq_true, decide_eq_true_eq] at h
  omega

theorem sandn (o : ArgsS3) : Statement (.sandn o) := by
  refine ofFields rfl fun h => inRange_of ?_
  have h : ArgsS3.inRange o = true := h
  simp only [ArgsS3.inRange, Bool.and_eq_true, decide_eq_true_eq] at h
  omega

theorem sshl (o : ArgsS3) : Statement (.sshl o) := by
  refine ofFields rfl fun h => inRange_of ?_
  have h : ArgsS3.inRange o = true := h
  simp only [ArgsS3.inRange, Bool.and_eq_true, decide_eq_true_eq] at h
  omega

theorem sshr (o : ArgsS3) : Statement (.sshr o) := by
  refine ofFields rfl fun h => inRange_of ?_
  have h : ArgsS3.inRange o = true := h
  simp only [ArgsS3.inRange, Bool.and_eq_true, decide_eq_true_eq] at h
  omega

theorem ssar (o : ArgsS3) : Statement (.ssar o) := by
  refine ofFields rfl fun h => inRange_of ?_
  have h : ArgsS3.inRange o = true := h
  simp only [ArgsS3.inRange, Bool.and_eq_true, decide_eq_true_eq] at h
  omega

theorem smin (o : ArgsS3) : Statement (.smin o) := by
  refine ofFields rfl fun h => inRange_of ?_
  have h : ArgsS3.inRange o = true := h
  simp only [ArgsS3.inRange, Bool.and_eq_true, decide_eq_true_eq] at h
  omega

theorem smax (o : ArgsS3) : Statement (.smax o) := by
  refine ofFields rfl fun h => inRange_of ?_
  have h : ArgsS3.inRange o = true := h
  simp only [ArgsS3.inRange, Bool.and_eq_true, decide_eq_true_eq] at h
  omega

theorem sminu (o : ArgsS3) : Statement (.sminu o) := by
  refine ofFields rfl fun h => inRange_of ?_
  have h : ArgsS3.inRange o = true := h
  simp only [ArgsS3.inRange, Bool.and_eq_true, decide_eq_true_eq] at h
  omega

theorem smaxu (o : ArgsS3) : Statement (.smaxu o) := by
  refine ofFields rfl fun h => inRange_of ?_
  have h : ArgsS3.inRange o = true := h
  simp only [ArgsS3.inRange, Bool.and_eq_true, decide_eq_true_eq] at h
  omega

theorem saddi (o : ArgsSImm) : Statement (.saddi o) := by
  refine ofFields rfl fun h => inRange_of ?_
  have h : ArgsSImm.inRange o = true := h
  simp only [ArgsSImm.inRange, Bool.and_eq_true, decide_eq_true_eq] at h
  have hi := o.imm.isLt
  omega

theorem slit (o : ArgsLit) (lit : BitVec 32) : Statement (.slit o lit) := ofNone rfl

theorem slitW64 (o : ArgsLit) (lit0 lit1 : BitVec 32) : Statement (.slitW64 o lit0 lit1) := ofNone rfl

theorem slea (o : ArgsSLea) : Statement (.slea o) := by
  refine ofFields rfl fun h => inRange_of ?_
  have h : ArgsSLea.inRange o = true := h
  simp only [ArgsSLea.inRange, Bool.and_eq_true, decide_eq_true_eq] at h
  omega

theorem fadd (o : ArgsRM) : Statement (.fadd o) := by
  refine ofFields rfl fun h => inRange_of ?_
  have h : ArgsRM.inRange o = true := h
  simp only [ArgsRM.inRange, Bool.and_eq_true, decide_eq_true_eq] at h
  omega

theorem fsub (o : ArgsRM) : Statement (.fsub o) := by
  refine ofFields rfl fun h => inRange_of ?_
  have h : ArgsRM.inRange o = true := h
  simp only [ArgsRM.inRange, Bool.and_eq_true, decide_eq_true_eq] at h
  omega

theorem fmul (o : ArgsRMS) : Statement (.fmul o) := by
  refine ofFields rfl fun h => inRange_of ?_
  have h : ArgsRMS.inRange o = true := h
  simp only [ArgsRMS.inRange, Bool.and_eq_true, decide_eq_true_eq] at h
  have hb := Bool.toNat_lt o.s
  omega

theorem ffma (o : ArgsRM) : Statement (.ffma o) := by
  refine ofFields rfl fun h => inRange_of ?_
  have h : ArgsRM.inRange o = true := h
  simp only [ArgsRM.inRange, Bool.and_eq_true, decide_eq_true_eq] at h
  omega

theorem ffms (o : ArgsRM) : Statement (.ffms o) := by
  refine ofFields rfl fun h => inRange_of ?_
  have h : ArgsRM.inRange o = true := h
  simp only [ArgsRM.inRange, Bool.and_eq_true, decide_eq_true_eq] at h
  omega

theorem fmin (o : ArgsRS) : Statement (.fmin o) := by
  refine ofFields rfl fun h => inRange_of ?_
  have h : ArgsRS.inRange o = true := h
  simp only [ArgsRS.inRange, Bool.and_eq_true, decide_eq_true_eq] at h
  have hb := Bool.toNat_lt o.s
  omega

theorem fmax (o : ArgsRS) : Statement (.fmax o) := by
  refine ofFields rfl fun h => inRange_of ?_
  have h : ArgsRS.inRange o = true := h
  simp only [ArgsRS.inRange, Bool.and_eq_true, decide_eq_true_eq] at h
  have hb := Bool.toNat_lt o.s
  omega

theorem fminp (o : ArgsRS) : Statement (.fminp o) := by
  refine ofFields rfl fun h => inRange_of ?_
  have h : ArgsRS.inRange o = true := h
  simp only [ArgsRS.inRange, Bool.and_eq_true, decide_eq_true_eq] at h
  have hb := Bool.toNat_lt o.s
  omega

theorem fmaxp (o : ArgsRS) : Statement (.fmaxp o) := by
  refine ofFields rfl fun h => inRange_of ?_
  have h : ArgsRS.inRange o = true := h
  simp only [ArgsRS.inRange, Bool.and_eq_true, decide_eq_true_eq] at h
  have hb := Bool.toNat_lt o.s
  omega

theorem frcp (o : ArgsR2) : Statement (.frcp o) := by
  refine ofFields rfl fun h => inRange_of ?_
  have h : ArgsR2.inRange o = true := h
  simp only [ArgsR2.inRange, Bool.and_eq_true, decide_eq_true_eq] at h
  omega

theorem frsq (o : ArgsR2) : Statement (.frsq o) := by
  refine ofFields rfl fun h => inRange_of ?_
  have h : ArgsR2.inRange o = true := h
  simp only [ArgsR2.inRange, Bool.and_eq_true, decide_eq_true_eq] at h
  omega

theorem fsqrt (o : ArgsR2) : Statement (.fsqrt o) := by
  refine ofFields rfl fun h => inRange_of ?_
  have h : ArgsR2.inRange o = true := h
  simp only [ArgsR2.inRange, Bool.and_eq_true, decide_eq_true_eq] at h
  omega

theorem fex2 (o : ArgsR2) : Statement (.fex2 o) := by
  refine ofFields rfl fun h => inRange_of ?_
  have h : ArgsR2.inRange o = true := h
  simp only [ArgsR2.inRange, Bool.and_eq_true, decide_eq_true_eq] at h
  omega

theorem flg2 (o : ArgsR2) : Statement (.flg2 o) := by
  refine ofFields rfl fun h => inRange_of ?_
  have h : ArgsR2.inRange o = true := h
  simp only [ArgsR2.inRange, Bool.and_eq_true, decide_eq_true_eq] at h
  omega

theorem fsnt (o : ArgsR2) : Statement (.fsnt o) := by
  refine ofFields rfl fun h => inRange_of ?_
  have h : ArgsR2.inRange o = true := h
  simp only [ArgsR2.inRange, Bool.and_eq_true, decide_eq_true_eq] at h
  omega

theorem fcst (o : ArgsR2) : Statement (.fcst o) := by
  refine ofFields rfl fun h => inRange_of ?_
  have h : ArgsR2.inRange o = true := h
  simp only [ArgsR2.inRange, Bool.and_eq_true, decide_eq_true_eq] at h
  omega

theorem dadd (o : ArgsR3) : Statement (.dadd o) := by
  refine ofFields rfl fun h => inRange_of ?_
  have h : ArgsR3.inRange o = true := h
  simp only [ArgsR3.inRange, Bool.and_eq_true, decide_eq_true_eq] at h
  omega

theorem dsub (o : ArgsR3) : Statement (.dsub o) := by
  refine ofFields rfl fun h => inRange_of ?_
  have h : ArgsR3.inRange o = true := h
  simp only [ArgsR3.inRange, Bool.and_eq_true, decide_eq_true_eq] at h
  omega

theorem dmul (o : ArgsR3) : Statement (.dmul o) := by
  refine ofFields rfl fun h => inRange_of ?_
  have h : ArgsR3.inRange o = true := h
  simp only [ArgsR3.inRange, Bool.and_eq_true, decide_eq_true_eq] at h
  omega

theorem dfma (o : ArgsR3) : Statement (.dfma o) := by
  refine ofFields rfl fun h => inRange_of ?_
  have h : ArgsR3.inRange o = true := h
  simp only [ArgsR3.inRange, Bool.and_eq_true, decide_eq_true_eq] at h
  omega

theorem dmin (o : ArgsR3) : Statement (.dmin o) := by
  refine ofFields rfl fun h => inRange_of ?_
  have h : ArgsR3.inRange o = true := h
  simp only [ArgsR3.inRange, Bool.and_eq_true, decide_eq_true_eq] at h
  omega

theorem dmax (o : ArgsR3) : Statement (.dmax o) := by
  refine ofFields rfl fun h => inRange_of ?_
  have h : ArgsR3.inRange o = true := h
  simp only [ArgsR3.inRange, Bool.and_eq_true, decide_eq_true_eq] at h
  omega

theorem ddiv (o : ArgsR3) : Statement (.ddiv o) := by
  refine ofFields rfl fun h => inRange_of ?_
  have h : ArgsR3.inRange o = true := h
  simp only [ArgsR3.inRange, Bool.and_eq_true, decide_eq_true_eq] at h
  omega

theorem dsqrt (o : ArgsR2) : Statement (.dsqrt o) := by
  refine ofFields rfl fun h => inRange_of ?_
  have h : ArgsR2.inRange o = true := h
  simp only [ArgsR2.inRange, Bool.and_eq_true, decide_eq_true_eq] at h
  omega

theorem hadd2 (o : ArgsH) : Statement (.hadd2 o) := by
  refine ofFields rfl fun h => inRange_of ?_
  have h : ArgsH.inRange o = true := h
  simp only [ArgsH.inRange, Bool.and_eq_true, decide_eq_true_eq] at h
  have hb := Bool.toNat_lt o.bf
  omega

theorem hmul2 (o : ArgsH) : Statement (.hmul2 o) := by
  refine ofFields rfl fun h => inRange_of ?_
  have h : ArgsH.inRange o = true := h
  simp only [ArgsH.inRange, Bool.and_eq_true, decide_eq_true_eq] at h
  have hb := Bool.toNat_lt o.bf
  omega

theorem hfma2 (o : ArgsH) : Statement (.hfma2 o) := by
  refine ofFields rfl fun h => inRange_of ?_
  have h : ArgsH.inRange o = true := h
  simp only [ArgsH.inRange, Bool.and_eq_true, decide_eq_true_eq] at h
  have hb := Bool.toNat_lt o.bf
  omega

theorem hmax2 (o : ArgsH) : Statement (.hmax2 o) := by
  refine ofFields rfl fun h => inRange_of ?_
  have h : ArgsH.inRange o = true := h
  simp only [ArgsH.inRange, Bool.and_eq_true, decide_eq_true_eq] at h
  have hb := Bool.toNat_lt o.bf
  omega

theorem cvt (o : ArgsCvt) : Statement (.cvt o) := by
  refine ofFields rfl fun h => inRange_of ?_
  have h : ArgsCvt.inRange o = true := h
  simp only [ArgsCvt.inRange, Bool.and_eq_true, decide_eq_true_eq] at h
  have hb := Bool.toNat_lt o.sat
  omega

theorem pk8e4 (o : ArgsR3) : Statement (.pk8e4 o) := by
  refine ofFields rfl fun h => inRange_of ?_
  have h : ArgsR3.inRange o = true := h
  simp only [ArgsR3.inRange, Bool.and_eq_true, decide_eq_true_eq] at h
  omega

theorem pk8e5 (o : ArgsR3) : Statement (.pk8e5 o) := by
  refine ofFields rfl fun h => inRange_of ?_
  have h : ArgsR3.inRange o = true := h
  simp only [ArgsR3.inRange, Bool.and_eq_true, decide_eq_true_eq] at h
  omega

theorem pk4 (o : ArgsR3) : Statement (.pk4 o) := by
  refine ofFields rfl fun h => inRange_of ?_
  have h : ArgsR3.inRange o = true := h
  simp only [ArgsR3.inRange, Bool.and_eq_true, decide_eq_true_eq] at h
  omega

theorem up8e4 (o : ArgsR3) : Statement (.up8e4 o) := by
  refine ofFields rfl fun h => inRange_of ?_
  have h : ArgsR3.inRange o = true := h
  simp only [ArgsR3.inRange, Bool.and_eq_true, decide_eq_true_eq] at h
  omega

theorem up8e5 (o : ArgsR3) : Statement (.up8e5 o) := by
  refine ofFields rfl fun h => inRange_of ?_
  have h : ArgsR3.inRange o = true := h
  simp only [ArgsR3.inRange, Bool.and_eq_true, decide_eq_true_eq] at h
  omega

theorem up4 (o : ArgsR3) : Statement (.up4 o) := by
  refine ofFields rfl fun h => inRange_of ?_
  have h : ArgsR3.inRange o = true := h
  simp only [ArgsR3.inRange, Bool.and_eq_true, decide_eq_true_eq] at h
  omega

theorem qi8 (o : ArgsR3) : Statement (.qi8 o) := by
  refine ofFields rfl fun h => inRange_of ?_
  have h : ArgsR3.inRange o = true := h
  simp only [ArgsR3.inRange, Bool.and_eq_true, decide_eq_true_eq] at h
  omega

theorem dq4 (o : ArgsR3) : Statement (.dq4 o) := by
  refine ofFields rfl fun h => inRange_of ?_
  have h : ArgsR3.inRange o = true := h
  simp only [ArgsR3.inRange, Bool.and_eq_true, decide_eq_true_eq] at h
  omega

theorem icmp (o : ArgsCmp) : Statement (.icmp o) := by
  refine ofFields rfl fun h => inRange_of ?_
  have h : ArgsCmp.inRange o = true := h
  simp only [ArgsCmp.inRange, Bool.and_eq_true, decide_eq_true_eq] at h
  omega

theorem ucmp (o : ArgsCmp) : Statement (.ucmp o) := by
  refine ofFields rfl fun h => inRange_of ?_
  have h : ArgsCmp.inRange o = true := h
  simp only [ArgsCmp.inRange, Bool.and_eq_true, decide_eq_true_eq] at h
  omega

theorem fcmp (o : ArgsCmp) : Statement (.fcmp o) := by
  refine ofFields rfl fun h => inRange_of ?_
  have h : ArgsCmp.inRange o = true := h
  simp only [ArgsCmp.inRange, Bool.and_eq_true, decide_eq_true_eq] at h
  omega

theorem dcmp (o : ArgsCmp) : Statement (.dcmp o) := by
  refine ofFields rfl fun h => inRange_of ?_
  have h : ArgsCmp.inRange o = true := h
  simp only [ArgsCmp.inRange, Bool.and_eq_true, decide_eq_true_eq] at h
  omega

theorem scmp (o : ArgsCmp) : Statement (.scmp o) := by
  refine ofFields rfl fun h => inRange_of ?_
  have h : ArgsCmp.inRange o = true := h
  simp only [ArgsCmp.inRange, Bool.and_eq_true, decide_eq_true_eq] at h
  omega

theorem mov (o : ArgsR2) : Statement (.mov o) := by
  refine ofFields rfl fun h => inRange_of ?_
  have h : ArgsR2.inRange o = true := h
  simp only [ArgsR2.inRange, Bool.and_eq_true, decide_eq_true_eq] at h
  omega

theorem movs (o : ArgsMovs) : Statement (.movs o) := by
  refine ofFields rfl fun h => inRange_of ?_
  have h : ArgsMovs.inRange o = true := h
  simp only [ArgsMovs.inRange, Bool.and_eq_true, decide_eq_true_eq] at h
  have hb := Bool.toNat_lt o.hi
  omega

theorem rdln (o : ArgsLn) : Statement (.rdln o) := by
  refine ofFields rfl fun h => inRange_of ?_
  have h : ArgsLn.inRange o = true := h
  simp only [ArgsLn.inRange, Bool.and_eq_true, decide_eq_true_eq] at h
  omega

theorem wrln (o : ArgsLn) : Statement (.wrln o) := by
  refine ofFields rfl fun h => inRange_of ?_
  have h : ArgsLn.inRange o = true := h
  simp only [ArgsLn.inRange, Bool.and_eq_true, decide_eq_true_eq] at h
  omega

theorem vlit (o : ArgsVLit) (lit : BitVec 32) : Statement (.vlit o lit) := ofNone rfl

theorem rdsr (o : ArgsSr) : Statement (.rdsr o) := by
  refine ofFields rfl fun h => inRange_of ?_
  have h : ArgsSr.inRange o = true := h
  simp only [ArgsSr.inRange, Bool.and_eq_true, decide_eq_true_eq] at h
  omega

theorem wrsr (o : ArgsSr) : Statement (.wrsr o) := by
  refine ofFields rfl fun h => inRange_of ?_
  have h : ArgsSr.inRange o = true := h
  simp only [ArgsSr.inRange, Bool.and_eq_true, decide_eq_true_eq] at h
  omega

theorem rdpc (o : ArgsR1) : Statement (.rdpc o) := by
  refine ofFields rfl fun h => inRange_of ?_
  have h : ArgsR1.inRange o = true := h
  simp only [ArgsR1.inRange, Bool.and_eq_true, decide_eq_true_eq] at h
  omega

theorem shflIdx (o : ArgsRS) : Statement (.shflIdx o) := by
  refine ofFields rfl fun h => inRange_of ?_
  have h : ArgsRS.inRange o = true := h
  simp only [ArgsRS.inRange, Bool.and_eq_true, decide_eq_true_eq] at h
  have hb := Bool.toNat_lt o.s
  omega

theorem shflUp (o : ArgsRS) : Statement (.shflUp o) := by
  refine ofFields rfl fun h => inRange_of ?_
  have h : ArgsRS.inRange o = true := h
  simp only [ArgsRS.inRange, Bool.and_eq_true, decide_eq_true_eq] at h
  have hb := Bool.toNat_lt o.s
  omega

theorem shflDown (o : ArgsRS) : Statement (.shflDown o) := by
  refine ofFields rfl fun h => inRange_of ?_
  have h : ArgsRS.inRange o = true := h
  simp only [ArgsRS.inRange, Bool.and_eq_true, decide_eq_true_eq] at h
  have hb := Bool.toNat_lt o.s
  omega

theorem shflXor (o : ArgsRS) : Statement (.shflXor o) := by
  refine ofFields rfl fun h => inRange_of ?_
  have h : ArgsRS.inRange o = true := h
  simp only [ArgsRS.inRange, Bool.and_eq_true, decide_eq_true_eq] at h
  have hb := Bool.toNat_lt o.s
  omega

theorem vall (o : ArgsR2) : Statement (.vall o) := by
  refine ofFields rfl fun h => inRange_of ?_
  have h : ArgsR2.inRange o = true := h
  simp only [ArgsR2.inRange, Bool.and_eq_true, decide_eq_true_eq] at h
  omega

theorem vany (o : ArgsR2) : Statement (.vany o) := by
  refine ofFields rfl fun h => inRange_of ?_
  have h : ArgsR2.inRange o = true := h
  simp only [ArgsR2.inRange, Bool.and_eq_true, decide_eq_true_eq] at h
  omega

theorem ballot (o : ArgsR2) : Statement (.ballot o) := by
  refine ofFields rfl fun h => inRange_of ?_
  have h : ArgsR2.inRange o = true := h
  simp only [ArgsR2.inRange, Bool.and_eq_true, decide_eq_true_eq] at h
  omega

theorem pand (o : ArgsR3) : Statement (.pand o) := by
  refine ofFields rfl fun h => inRange_of ?_
  have h : ArgsR3.inRange o = true := h
  simp only [ArgsR3.inRange, Bool.and_eq_true, decide_eq_true_eq] at h
  omega

theorem por (o : ArgsR3) : Statement (.por o) := by
  refine ofFields rfl fun h => inRange_of ?_
  have h : ArgsR3.inRange o = true := h
  simp only [ArgsR3.inRange, Bool.and_eq_true, decide_eq_true_eq] at h
  omega

theorem pxor (o : ArgsR3) : Statement (.pxor o) := by
  refine ofFields rfl fun h => inRange_of ?_
  have h : ArgsR3.inRange o = true := h
  simp only [ArgsR3.inRange, Bool.and_eq_true, decide_eq_true_eq] at h
  omega

theorem pset (o : ArgsPset) : Statement (.pset o) := by
  refine ofFields rfl fun h => inRange_of ?_
  have h : ArgsPset.inRange o = true := h
  simp only [ArgsPset.inRange, Bool.and_eq_true, decide_eq_true_eq] at h
  omega

theorem vmatch (o : ArgsR2) : Statement (.vmatch o) := by
  refine ofFields rfl fun h => inRange_of ?_
  have h : ArgsR2.inRange o = true := h
  simp only [ArgsR2.inRange, Bool.and_eq_true, decide_eq_true_eq] at h
  omega

theorem gredAdd (o : ArgsR3) : Statement (.gredAdd o) := by
  refine ofFields rfl fun h => inRange_of ?_
  have h : ArgsR3.inRange o = true := h
  simp only [ArgsR3.inRange, Bool.and_eq_true, decide_eq_true_eq] at h
  omega

theorem gredMin (o : ArgsR3) : Statement (.gredMin o) := by
  refine ofFields rfl fun h => inRange_of ?_
  have h : ArgsR3.inRange o = true := h
  simp only [ArgsR3.inRange, Bool.and_eq_true, decide_eq_true_eq] at h
  omega

theorem gredMax (o : ArgsR3) : Statement (.gredMax o) := by
  refine ofFields rfl fun h => inRange_of ?_
  have h : ArgsR3.inRange o = true := h
  simp only [ArgsR3.inRange, Bool.and_eq_true, decide_eq_true_eq] at h
  omega

theorem gredMinu (o : ArgsR3) : Statement (.gredMinu o) := by
  refine ofFields rfl fun h => inRange_of ?_
  have h : ArgsR3.inRange o = true := h
  simp only [ArgsR3.inRange, Bool.and_eq_true, decide_eq_true_eq] at h
  omega

theorem gredMaxu (o : ArgsR3) : Statement (.gredMaxu o) := by
  refine ofFields rfl fun h => inRange_of ?_
  have h : ArgsR3.inRange o = true := h
  simp only [ArgsR3.inRange, Bool.and_eq_true, decide_eq_true_eq] at h
  omega

theorem gredFadd (o : ArgsR3) : Statement (.gredFadd o) := by
  refine ofFields rfl fun h => inRange_of ?_
  have h : ArgsR3.inRange o = true := h
  simp only [ArgsR3.inRange, Bool.and_eq_true, decide_eq_true_eq] at h
  omega

theorem gredFmin (o : ArgsR3) : Statement (.gredFmin o) := by
  refine ofFields rfl fun h => inRange_of ?_
  have h : ArgsR3.inRange o = true := h
  simp only [ArgsR3.inRange, Bool.and_eq_true, decide_eq_true_eq] at h
  omega

theorem gredFmax (o : ArgsR3) : Statement (.gredFmax o) := by
  refine ofFields rfl fun h => inRange_of ?_
  have h : ArgsR3.inRange o = true := h
  simp only [ArgsR3.inRange, Bool.and_eq_true, decide_eq_true_eq] at h
  omega

theorem scani (o : ArgsR3) : Statement (.scani o) := by
  refine ofFields rfl fun h => inRange_of ?_
  have h : ArgsR3.inRange o = true := h
  simp only [ArgsR3.inRange, Bool.and_eq_true, decide_eq_true_eq] at h
  omega

theorem scanx (o : ArgsR3) : Statement (.scanx o) := by
  refine ofFields rfl fun h => inRange_of ?_
  have h : ArgsR3.inRange o = true := h
  simp only [ArgsR3.inRange, Bool.and_eq_true, decide_eq_true_eq] at h
  omega

theorem scanf (o : ArgsR3) : Statement (.scanf o) := by
  refine ofFields rfl fun h => inRange_of ?_
  have h : ArgsR3.inRange o = true := h
  simp only [ArgsR3.inRange, Bool.and_eq_true, decide_eq_true_eq] at h
  omega

theorem scanfx (o : ArgsR3) : Statement (.scanfx o) := by
  refine ofFields rfl fun h => inRange_of ?_
  have h : ArgsR3.inRange o = true := h
  simp only [ArgsR3.inRange, Bool.and_eq_true, decide_eq_true_eq] at h
  omega

theorem scanmax (o : ArgsR3) : Statement (.scanmax o) := by
  refine ofFields rfl fun h => inRange_of ?_
  have h : ArgsR3.inRange o = true := h
  simp only [ArgsR3.inRange, Bool.and_eq_true, decide_eq_true_eq] at h
  omega

theorem scanmin (o : ArgsR3) : Statement (.scanmin o) := by
  refine ofFields rfl fun h => inRange_of ?_
  have h : ArgsR3.inRange o = true := h
  simp only [ArgsR3.inRange, Bool.and_eq_true, decide_eq_true_eq] at h
  omega

theorem segscan (o : ArgsR3) : Statement (.segscan o) := by
  refine ofFields rfl fun h => inRange_of ?_
  have h : ArgsR3.inRange o = true := h
  simp only [ArgsR3.inRange, Bool.and_eq_true, decide_eq_true_eq] at h
  omega

theorem ldB (o : ArgsM) : Statement (.ldB o) := by
  refine ofFields rfl fun h => inRange_of ?_
  have h : ArgsM.inRange o = true := h
  simp only [ArgsM.inRange, Bool.and_eq_true, decide_eq_true_eq] at h
  omega

theorem ldH (o : ArgsM) : Statement (.ldH o) := by
  refine ofFields rfl fun h => inRange_of ?_
  have h : ArgsM.inRange o = true := h
  simp only [ArgsM.inRange, Bool.and_eq_true, decide_eq_true_eq] at h
  omega

theorem ldW (o : ArgsM) : Statement (.ldW o) := by
  refine ofFields rfl fun h => inRange_of ?_
  have h : ArgsM.inRange o = true := h
  simp only [ArgsM.inRange, Bool.and_eq_true, decide_eq_true_eq] at h
  omega

theorem ldD (o : ArgsM) : Statement (.ldD o) := by
  refine ofFields rfl fun h => inRange_of ?_
  have h : ArgsM.inRange o = true := h
  simp only [ArgsM.inRange, Bool.and_eq_true, decide_eq_true_eq] at h
  omega

theorem ldQ (o : ArgsM) : Statement (.ldQ o) := by
  refine ofFields rfl fun h => inRange_of ?_
  have h : ArgsM.inRange o = true := h
  simp only [ArgsM.inRange, Bool.and_eq_true, decide_eq_true_eq] at h
  omega

theorem ldSb (o : ArgsM) : Statement (.ldSb o) := by
  refine ofFields rfl fun h => inRange_of ?_
  have h : ArgsM.inRange o = true := h
  simp only [ArgsM.inRange, Bool.and_eq_true, decide_eq_true_eq] at h
  omega

theorem ldSh (o : ArgsM) : Statement (.ldSh o) := by
  refine ofFields rfl fun h => inRange_of ?_
  have h : ArgsM.inRange o = true := h
  simp only [ArgsM.inRange, Bool.and_eq_true, decide_eq_true_eq] at h
  omega

theorem ldSc (o : ArgsMTB) : Statement (.ldSc o) := by
  refine ofFields rfl fun h => inRange_of ?_
  have h : ArgsMTB.inRange o = true := h
  simp only [ArgsMTB.inRange, Bool.and_eq_true, decide_eq_true_eq] at h
  omega

theorem stB (o : ArgsM) : Statement (.stB o) := by
  refine ofFields rfl fun h => inRange_of ?_
  have h : ArgsM.inRange o = true := h
  simp only [ArgsM.inRange, Bool.and_eq_true, decide_eq_true_eq] at h
  omega

theorem stH (o : ArgsM) : Statement (.stH o) := by
  refine ofFields rfl fun h => inRange_of ?_
  have h : ArgsM.inRange o = true := h
  simp only [ArgsM.inRange, Bool.and_eq_true, decide_eq_true_eq] at h
  omega

theorem stW (o : ArgsM) : Statement (.stW o) := by
  refine ofFields rfl fun h => inRange_of ?_
  have h : ArgsM.inRange o = true := h
  simp only [ArgsM.inRange, Bool.and_eq_true, decide_eq_true_eq] at h
  omega

theorem stD (o : ArgsM) : Statement (.stD o) := by
  refine ofFields rfl fun h => inRange_of ?_
  have h : ArgsM.inRange o = true := h
  simp only [ArgsM.inRange, Bool.and_eq_true, decide_eq_true_eq] at h
  omega

theorem stQ (o : ArgsM) : Statement (.stQ o) := by
  refine ofFields rfl fun h => inRange_of ?_
  have h : ArgsM.inRange o = true := h
  simp only [ArgsM.inRange, Bool.and_eq_true, decide_eq_true_eq] at h
  omega

theorem stSc (o : ArgsMTB) : Statement (.stSc o) := by
  refine ofFields rfl fun h => inRange_of ?_
  have h : ArgsMTB.inRange o = true := h
  simp only [ArgsMTB.inRange, Bool.and_eq_true, decide_eq_true_eq] at h
  omega

theorem ldsB (o : ArgsM) : Statement (.ldsB o) := by
  refine ofFields rfl fun h => inRange_of ?_
  have h : ArgsM.inRange o = true := h
  simp only [ArgsM.inRange, Bool.and_eq_true, decide_eq_true_eq] at h
  omega

theorem ldsH (o : ArgsM) : Statement (.ldsH o) := by
  refine ofFields rfl fun h => inRange_of ?_
  have h : ArgsM.inRange o = true := h
  simp only [ArgsM.inRange, Bool.and_eq_true, decide_eq_true_eq] at h
  omega

theorem ldsW (o : ArgsM) : Statement (.ldsW o) := by
  refine ofFields rfl fun h => inRange_of ?_
  have h : ArgsM.inRange o = true := h
  simp only [ArgsM.inRange, Bool.and_eq_true, decide_eq_true_eq] at h
  omega

theorem ldsD (o : ArgsM) : Statement (.ldsD o) := by
  refine ofFields rfl fun h => inRange_of ?_
  have h : ArgsM.inRange o = true := h
  simp only [ArgsM.inRange, Bool.and_eq_true, decide_eq_true_eq] at h
  omega

theorem ldsQ (o : ArgsM) : Statement (.ldsQ o) := by
  refine ofFields rfl fun h => inRange_of ?_
  have h : ArgsM.inRange o = true := h
  simp only [ArgsM.inRange, Bool.and_eq_true, decide_eq_true_eq] at h
  omega

theorem ldsSb (o : ArgsM) : Statement (.ldsSb o) := by
  refine ofFields rfl fun h => inRange_of ?_
  have h : ArgsM.inRange o = true := h
  simp only [ArgsM.inRange, Bool.and_eq_true, decide_eq_true_eq] at h
  omega

theorem ldsSh (o : ArgsM) : Statement (.ldsSh o) := by
  refine ofFields rfl fun h => inRange_of ?_
  have h : ArgsM.inRange o = true := h
  simp only [ArgsM.inRange, Bool.and_eq_true, decide_eq_true_eq] at h
  omega

theorem stsB (o : ArgsM) : Statement (.stsB o) := by
  refine ofFields rfl fun h => inRange_of ?_
  have h : ArgsM.inRange o = true := h
  simp only [ArgsM.inRange, Bool.and_eq_true, decide_eq_true_eq] at h
  omega

theorem stsH (o : ArgsM) : Statement (.stsH o) := by
  refine ofFields rfl fun h => inRange_of ?_
  have h : ArgsM.inRange o = true := h
  simp only [ArgsM.inRange, Bool.and_eq_true, decide_eq_true_eq] at h
  omega

theorem stsW (o : ArgsM) : Statement (.stsW o) := by
  refine ofFields rfl fun h => inRange_of ?_
  have h : ArgsM.inRange o = true := h
  simp only [ArgsM.inRange, Bool.and_eq_true, decide_eq_true_eq] at h
  omega

theorem stsD (o : ArgsM) : Statement (.stsD o) := by
  refine ofFields rfl fun h => inRange_of ?_
  have h : ArgsM.inRange o = true := h
  simp only [ArgsM.inRange, Bool.and_eq_true, decide_eq_true_eq] at h
  omega

theorem stsQ (o : ArgsM) : Statement (.stsQ o) := by
  refine ofFields rfl fun h => inRange_of ?_
  have h : ArgsM.inRange o = true := h
  simp only [ArgsM.inRange, Bool.and_eq_true, decide_eq_true_eq] at h
  omega

theorem stsf (o : ArgsM) : Statement (.stsf o) := by
  refine ofFields rfl fun h => inRange_of ?_
  have h : ArgsM.inRange o = true := h
  simp only [ArgsM.inRange, Bool.and_eq_true, decide_eq_true_eq] at h
  omega

theorem sete (o : ArgsMBI) : Statement (.sete o) := by
  refine ofFields rfl fun h => inRange_of ?_
  have h : ArgsMBI.inRange o = true := h
  simp only [ArgsMBI.inRange, Bool.and_eq_true, decide_eq_true_eq] at h
  omega

theorem ldfW (o : ArgsLdf) : Statement (.ldfW o) := by
  refine ofFields rfl fun h => inRange_of ?_
  have h : ArgsLdf.inRange o = true := h
  simp only [ArgsLdf.inRange, Bool.and_eq_true, decide_eq_true_eq] at h
  have hb := Bool.toNat_lt o.clr
  omega

theorem ldfD (o : ArgsLdf) : Statement (.ldfD o) := by
  refine ofFields rfl fun h => inRange_of ?_
  have h : ArgsLdf.inRange o = true := h
  simp only [ArgsLdf.inRange, Bool.and_eq_true, decide_eq_true_eq] at h
  have hb := Bool.toNat_lt o.clr
  omega

theorem ldfQ (o : ArgsLdf) : Statement (.ldfQ o) := by
  refine ofFields rfl fun h => inRange_of ?_
  have h : ArgsLdf.inRange o = true := h
  simp only [ArgsLdf.inRange, Bool.and_eq_true, decide_eq_true_eq] at h
  have hb := Bool.toNat_lt o.clr
  omega

theorem ldaW (o : ArgsM) : Statement (.ldaW o) := by
  refine ofFields rfl fun h => inRange_of ?_
  have h : ArgsM.inRange o = true := h
  simp only [ArgsM.inRange, Bool.and_eq_true, decide_eq_true_eq] at h
  omega

theorem ldaD (o : ArgsM) : Statement (.ldaD o) := by
  refine ofFields rfl fun h => inRange_of ?_
  have h : ArgsM.inRange o = true := h
  simp only [ArgsM.inRange, Bool.and_eq_true, decide_eq_true_eq] at h
  omega

theorem ldaQ (o : ArgsM) : Statement (.ldaQ o) := by
  refine ofFields rfl fun h => inRange_of ?_
  have h : ArgsM.inRange o = true := h
  simp only [ArgsM.inRange, Bool.and_eq_true, decide_eq_true_eq] at h
  omega

theorem staW (o : ArgsM) : Statement (.staW o) := by
  refine ofFields rfl fun h => inRange_of ?_
  have h : ArgsM.inRange o = true := h
  simp only [ArgsM.inRange, Bool.and_eq_true, decide_eq_true_eq] at h
  omega

theorem staD (o : ArgsM) : Statement (.staD o) := by
  refine ofFields rfl fun h => inRange_of ?_
  have h : ArgsM.inRange o = true := h
  simp only [ArgsM.inRange, Bool.and_eq_true, decide_eq_true_eq] at h
  omega

theorem staQ (o : ArgsM) : Statement (.staQ o) := by
  refine ofFields rfl fun h => inRange_of ?_
  have h : ArgsM.inRange o = true := h
  simp only [ArgsM.inRange, Bool.and_eq_true, decide_eq_true_eq] at h
  omega

theorem atomAdd (o : ArgsM) : Statement (.atomAdd o) := by
  refine ofFields rfl fun h => inRange_of ?_
  have h : ArgsM.inRange o = true := h
  simp only [ArgsM.inRange, Bool.and_eq_true, decide_eq_true_eq] at h
  omega

theorem atomSmin (o : ArgsM) : Statement (.atomSmin o) := by
  refine ofFields rfl fun h => inRange_of ?_
  have h : ArgsM.inRange o = true := h
  simp only [ArgsM.inRange, Bool.and_eq_true, decide_eq_true_eq] at h
  omega

theorem atomSmax (o : ArgsM) : Statement (.atomSmax o) := by
  refine ofFields rfl fun h => inRange_of ?_
  have h : ArgsM.inRange o = true := h
  simp only [ArgsM.inRange, Bool.and_eq_true, decide_eq_true_eq] at h
  omega

theorem atomUmin (o : ArgsM) : Statement (.atomUmin o) := by
  refine ofFields rfl fun h => inRange_of ?_
  have h : ArgsM.inRange o = true := h
  simp only [ArgsM.inRange, Bool.and_eq_true, decide_eq_true_eq] at h
  omega

theorem atomUmax (o : ArgsM) : Statement (.atomUmax o) := by
  refine ofFields rfl fun h => inRange_of ?_
  have h : ArgsM.inRange o = true := h
  simp only [ArgsM.inRange, Bool.and_eq_true, decide_eq_true_eq] at h
  omega

theorem atomAnd (o : ArgsM) : Statement (.atomAnd o) := by
  refine ofFields rfl fun h => inRange_of ?_
  have h : ArgsM.inRange o = true := h
  simp only [ArgsM.inRange, Bool.and_eq_true, decide_eq_true_eq] at h
  omega

theorem atomOr (o : ArgsM) : Statement (.atomOr o) := by
  refine ofFields rfl fun h => inRange_of ?_
  have h : ArgsM.inRange o = true := h
  simp only [ArgsM.inRange, Bool.and_eq_true, decide_eq_true_eq] at h
  omega

theorem atomXor (o : ArgsM) : Statement (.atomXor o) := by
  refine ofFields rfl fun h => inRange_of ?_
  have h : ArgsM.inRange o = true := h
  simp only [ArgsM.inRange, Bool.and_eq_true, decide_eq_true_eq] at h
  omega

theorem atomxXchg32 (o : ArgsM) : Statement (.atomxXchg32 o) := by
  refine ofFields rfl fun h => inRange_of ?_
  have h : ArgsM.inRange o = true := h
  simp only [ArgsM.inRange, Bool.and_eq_true, decide_eq_true_eq] at h
  omega

theorem atomxXchg64 (o : ArgsM) : Statement (.atomxXchg64 o) := by
  refine ofFields rfl fun h => inRange_of ?_
  have h : ArgsM.inRange o = true := h
  simp only [ArgsM.inRange, Bool.and_eq_true, decide_eq_true_eq] at h
  omega

theorem atomxAdd64 (o : ArgsM) : Statement (.atomxAdd64 o) := by
  refine ofFields rfl fun h => inRange_of ?_
  have h : ArgsM.inRange o = true := h
  simp only [ArgsM.inRange, Bool.and_eq_true, decide_eq_true_eq] at h
  omega

theorem atomxFadd32 (o : ArgsM) : Statement (.atomxFadd32 o) := by
  refine ofFields rfl fun h => inRange_of ?_
  have h : ArgsM.inRange o = true := h
  simp only [ArgsM.inRange, Bool.and_eq_true, decide_eq_true_eq] at h
  omega

theorem atomxFmin32 (o : ArgsM) : Statement (.atomxFmin32 o) := by
  refine ofFields rfl fun h => inRange_of ?_
  have h : ArgsM.inRange o = true := h
  simp only [ArgsM.inRange, Bool.and_eq_true, decide_eq_true_eq] at h
  omega

theorem atomxFmax32 (o : ArgsM) : Statement (.atomxFmax32 o) := by
  refine ofFields rfl fun h => inRange_of ?_
  have h : ArgsM.inRange o = true := h
  simp only [ArgsM.inRange, Bool.and_eq_true, decide_eq_true_eq] at h
  omega

theorem atomxFadd64 (o : ArgsM) : Statement (.atomxFadd64 o) := by
  refine ofFields rfl fun h => inRange_of ?_
  have h : ArgsM.inRange o = true := h
  simp only [ArgsM.inRange, Bool.and_eq_true, decide_eq_true_eq] at h
  omega

theorem atomxIncw (o : ArgsM) : Statement (.atomxIncw o) := by
  refine ofFields rfl fun h => inRange_of ?_
  have h : ArgsM.inRange o = true := h
  simp only [ArgsM.inRange, Bool.and_eq_true, decide_eq_true_eq] at h
  omega

theorem cas32 (o : ArgsM) : Statement (.cas32 o) := by
  refine ofFields rfl fun h => inRange_of ?_
  have h : ArgsM.inRange o = true := h
  simp only [ArgsM.inRange, Bool.and_eq_true, decide_eq_true_eq] at h
  omega

theorem cas64 (o : ArgsM) : Statement (.cas64 o) := by
  refine ofFields rfl fun h => inRange_of ?_
  have h : ArgsM.inRange o = true := h
  simp only [ArgsM.inRange, Bool.and_eq_true, decide_eq_true_eq] at h
  omega

theorem atomsAdd (o : ArgsM) : Statement (.atomsAdd o) := by
  refine ofFields rfl fun h => inRange_of ?_
  have h : ArgsM.inRange o = true := h
  simp only [ArgsM.inRange, Bool.and_eq_true, decide_eq_true_eq] at h
  omega

theorem atomsSmin (o : ArgsM) : Statement (.atomsSmin o) := by
  refine ofFields rfl fun h => inRange_of ?_
  have h : ArgsM.inRange o = true := h
  simp only [ArgsM.inRange, Bool.and_eq_true, decide_eq_true_eq] at h
  omega

theorem atomsSmax (o : ArgsM) : Statement (.atomsSmax o) := by
  refine ofFields rfl fun h => inRange_of ?_
  have h : ArgsM.inRange o = true := h
  simp only [ArgsM.inRange, Bool.and_eq_true, decide_eq_true_eq] at h
  omega

theorem atomsUmin (o : ArgsM) : Statement (.atomsUmin o) := by
  refine ofFields rfl fun h => inRange_of ?_
  have h : ArgsM.inRange o = true := h
  simp only [ArgsM.inRange, Bool.and_eq_true, decide_eq_true_eq] at h
  omega

theorem atomsUmax (o : ArgsM) : Statement (.atomsUmax o) := by
  refine ofFields rfl fun h => inRange_of ?_
  have h : ArgsM.inRange o = true := h
  simp only [ArgsM.inRange, Bool.and_eq_true, decide_eq_true_eq] at h
  omega

theorem atomsAnd (o : ArgsM) : Statement (.atomsAnd o) := by
  refine ofFields rfl fun h => inRange_of ?_
  have h : ArgsM.inRange o = true := h
  simp only [ArgsM.inRange, Bool.and_eq_true, decide_eq_true_eq] at h
  omega

theorem atomsOr (o : ArgsM) : Statement (.atomsOr o) := by
  refine ofFields rfl fun h => inRange_of ?_
  have h : ArgsM.inRange o = true := h
  simp only [ArgsM.inRange, Bool.and_eq_true, decide_eq_true_eq] at h
  omega

theorem atomsXor (o : ArgsM) : Statement (.atomsXor o) := by
  refine ofFields rfl fun h => inRange_of ?_
  have h : ArgsM.inRange o = true := h
  simp only [ArgsM.inRange, Bool.and_eq_true, decide_eq_true_eq] at h
  omega

theorem prefL2 (o : ArgsMBI) : Statement (.prefL2 o) := by
  refine ofFields rfl fun h => inRange_of ?_
  have h : ArgsMBI.inRange o = true := h
  simp only [ArgsMBI.inRange, Bool.and_eq_true, decide_eq_true_eq] at h
  omega

theorem prefL1 (o : ArgsMBI) : Statement (.prefL1 o) := by
  refine ofFields rfl fun h => inRange_of ?_
  have h : ArgsMBI.inRange o = true := h
  simp only [ArgsMBI.inRange, Bool.and_eq_true, decide_eq_true_eq] at h
  omega

theorem badd (o : ArgsM) : Statement (.badd o) := by
  refine ofFields rfl fun h => inRange_of ?_
  have h : ArgsM.inRange o = true := h
  simp only [ArgsM.inRange, Bool.and_eq_true, decide_eq_true_eq] at h
  omega

theorem bmax (o : ArgsM) : Statement (.bmax o) := by
  refine ofFields rfl fun h => inRange_of ?_
  have h : ArgsM.inRange o = true := h
  simp only [ArgsM.inRange, Bool.and_eq_true, decide_eq_true_eq] at h
  omega

theorem bmin (o : ArgsM) : Statement (.bmin o) := by
  refine ofFields rfl fun h => inRange_of ?_
  have h : ArgsM.inRange o = true := h
  simp only [ArgsM.inRange, Bool.and_eq_true, decide_eq_true_eq] at h
  omega

theorem bmul (o : ArgsM) : Statement (.bmul o) := by
  refine ofFields rfl fun h => inRange_of ?_
  have h : ArgsM.inRange o = true := h
  simp only [ArgsM.inRange, Bool.and_eq_true, decide_eq_true_eq] at h
  omega

theorem bsmx (o : ArgsM) : Statement (.bsmx o) := by
  refine ofFields rfl fun h => inRange_of ?_
  have h : ArgsM.inRange o = true := h
  simp only [ArgsM.inRange, Bool.and_eq_true, decide_eq_true_eq] at h
  omega

theorem biadd (o : ArgsM) : Statement (.biadd o) := by
  refine ofFields rfl fun h => inRange_of ?_
  have h : ArgsM.inRange o = true := h
  simp only [ArgsM.inRange, Bool.and_eq_true, decide_eq_true_eq] at h
  omega

theorem bimax (o : ArgsM) : Statement (.bimax o) := by
  refine ofFields rfl fun h => inRange_of ?_
  have h : ArgsM.inRange o = true := h
  simp only [ArgsM.inRange, Bool.and_eq_true, decide_eq_true_eq] at h
  omega

theorem bset (o : ArgsM) : Statement (.bset o) := by
  refine ofFields rfl fun h => inRange_of ?_
  have h : ArgsM.inRange o = true := h
  simp only [ArgsM.inRange, Bool.and_eq_true, decide_eq_true_eq] at h
  omega

theorem gang (o : ArgsMB) : Statement (.gang o) := by
  refine ofFields rfl fun h => inRange_of ?_
  have h : ArgsMB.inRange o = true := h
  simp only [ArgsMB.inRange, Bool.and_eq_true, decide_eq_true_eq] at h
  omega

theorem obres (o : ArgsMTB) : Statement (.obres o) := by
  refine ofFields rfl fun h => inRange_of ?_
  have h : ArgsMTB.inRange o = true := h
  simp only [ArgsMTB.inRange, Bool.and_eq_true, decide_eq_true_eq] at h
  omega

theorem obrel (o : ArgsMB) : Statement (.obrel o) := by
  refine ofFields rfl fun h => inRange_of ?_
  have h : ArgsMB.inRange o = true := h
  simp only [ArgsMB.inRange, Bool.and_eq_true, decide_eq_true_eq] at h
  omega

theorem tfetch (o : ArgsM) : Statement (.tfetch o) := by
  refine ofFields rfl fun h => inRange_of ?_
  have h : ArgsM.inRange o = true := h
  simp only [ArgsM.inRange, Bool.and_eq_true, decide_eq_true_eq] at h
  omega

theorem mma (o : ArgsMTB) : Statement (.mma o) := by
  refine ofFields rfl fun h => inRange_of ?_
  have h : ArgsMTB.inRange o = true := h
  simp only [ArgsMTB.inRange, Bool.and_eq_true, decide_eq_true_eq] at h
  omega

theorem mmaq (o : ArgsMTB) : Statement (.mmaq o) := by
  refine ofFields rfl fun h => inRange_of ?_
  have h : ArgsMTB.inRange o = true := h
  simp only [ArgsMTB.inRange, Bool.and_eq_true, decide_eq_true_eq] at h
  omega

theorem accz (o : ArgsMT) : Statement (.accz o) := by
  refine ofFields rfl fun h => inRange_of ?_
  have h : ArgsMT.inRange o = true := h
  simp only [ArgsMT.inRange, Bool.and_eq_true, decide_eq_true_eq] at h
  omega

theorem acczD (o : ArgsMT) : Statement (.acczD o) := by
  refine ofFields rfl fun h => inRange_of ?_
  have h : ArgsMT.inRange o = true := h
  simp only [ArgsMT.inRange, Bool.and_eq_true, decide_eq_true_eq] at h
  omega

theorem cpy (o : ArgsM) : Statement (.cpy o) := by
  refine ofFields rfl fun h => inRange_of ?_
  have h : ArgsM.inRange o = true := h
  simp only [ArgsM.inRange, Bool.and_eq_true, decide_eq_true_eq] at h
  omega

theorem cpyt (o : ArgsMTB) : Statement (.cpyt o) := by
  refine ofFields rfl fun h => inRange_of ?_
  have h : ArgsMTB.inRange o = true := h
  simp only [ArgsMTB.inRange, Bool.and_eq_true, decide_eq_true_eq] at h
  omega

theorem cpyn (o : ArgsM) : Statement (.cpyn o) := by
  refine ofFields rfl fun h => inRange_of ?_
  have h : ArgsM.inRange o = true := h
  simp only [ArgsM.inRange, Bool.and_eq_true, decide_eq_true_eq] at h
  omega

theorem nmc (o : ArgsNmc) : Statement (.nmc o) := by
  refine ofFields rfl fun h => inRange_of ?_
  have h : ArgsNmc.inRange o = true := h
  simp only [ArgsNmc.inRange, Bool.and_eq_true, decide_eq_true_eq] at h
  omega

theorem rfence (o : ArgsMC) : Statement (.rfence o) := by
  refine ofFields rfl fun h => inRange_of ?_
  have h : ArgsMC.inRange o = true := h
  simp only [ArgsMC.inRange, Bool.and_eq_true, decide_eq_true_eq] at h
  omega

theorem rel (o : ArgsRel) : Statement (.rel o) := by
  refine ofFields rfl fun h => inRange_of ?_
  have h : ArgsRel.inRange o = true := h
  simp only [ArgsRel.inRange, Bool.and_eq_true, decide_eq_true_eq] at h
  have hb := Bool.toNat_lt o.sealed
  omega

theorem acq (o : ArgsScope) : Statement (.acq o) := by
  refine ofFields rfl fun h => inRange_of ?_
  have h : ArgsScope.inRange o = true := h
  simp only [ArgsScope.inRange, Bool.and_eq_true, decide_eq_true_eq] at h
  omega

theorem acqr (o : ArgsTB) : Statement (.acqr o) := by
  refine ofFields rfl fun h => inRange_of ?_
  have h : ArgsTB.inRange o = true := h
  simp only [ArgsTB.inRange, Bool.and_eq_true, decide_eq_true_eq] at h
  omega

theorem fence (o : ArgsScope) : Statement (.fence o) := by
  refine ofFields rfl fun h => inRange_of ?_
  have h : ArgsScope.inRange o = true := h
  simp only [ArgsScope.inRange, Bool.and_eq_true, decide_eq_true_eq] at h
  omega

theorem fencex (o : ArgsPaths) : Statement (.fencex o) := by
  refine ofFields rfl fun h => inRange_of ?_
  have h : ArgsPaths.inRange o = true := h
  simp only [ArgsPaths.inRange, Bool.and_eq_true, decide_eq_true_eq] at h
  omega

theorem waitc (o : ArgsWaitc) : Statement (.waitc o) := by
  refine ofFields rfl fun h => inRange_of ?_
  have h : ArgsWaitc.inRange o = true := h
  simp only [ArgsWaitc.inRange, Bool.and_eq_true, decide_eq_true_eq] at h
  have hb := Bool.toNat_lt o.dword
  omega

theorem snap (o : ArgsTB) : Statement (.snap o) := by
  refine ofFields rfl fun h => inRange_of ?_
  have h : ArgsTB.inRange o = true := h
  simp only [ArgsTB.inRange, Bool.and_eq_true, decide_eq_true_eq] at h
  omega

theorem revert (o : ArgsTB) : Statement (.revert o) := by
  refine ofFields rfl fun h => inRange_of ?_
  have h : ArgsTB.inRange o = true := h
  simp only [ArgsTB.inRange, Bool.and_eq_true, decide_eq_true_eq] at h
  omega

theorem sndrop (o : ArgsTB) : Statement (.sndrop o) := by
  refine ofFields rfl fun h => inRange_of ?_
  have h : ArgsTB.inRange o = true := h
  simp only [ArgsTB.inRange, Bool.and_eq_true, decide_eq_true_eq] at h
  omega

theorem bari (o : ArgsB) : Statement (.bari o) := by
  refine ofFields rfl fun h => inRange_of ?_
  have h : ArgsB.inRange o = true := h
  simp only [ArgsB.inRange, Bool.and_eq_true, decide_eq_true_eq] at h
  omega

theorem bara (o : ArgsTB) : Statement (.bara o) := by
  refine ofFields rfl fun h => inRange_of ?_
  have h : ArgsTB.inRange o = true := h
  simp only [ArgsTB.inRange, Bool.and_eq_true, decide_eq_true_eq] at h
  omega

theorem barw (o : ArgsTB) : Statement (.barw o) := by
  refine ofFields rfl fun h => inRange_of ?_
  have h : ArgsTB.inRange o = true := h
  simp only [ArgsTB.inRange, Bool.and_eq_true, decide_eq_true_eq] at h
  omega

theorem bars (o : ArgsTB) : Statement (.bars o) := by
  refine ofFields rfl fun h => inRange_of ?_
  have h : ArgsTB.inRange o = true := h
  simp only [ArgsTB.inRange, Bool.and_eq_true, decide_eq_true_eq] at h
  omega

theorem barb (o : ArgsTB) : Statement (.barb o) := by
  refine ofFields rfl fun h => inRange_of ?_
  have h : ArgsTB.inRange o = true := h
  simp only [ArgsTB.inRange, Bool.and_eq_true, decide_eq_true_eq] at h
  omega

theorem regrpTeam (o : ArgsRegrp) : Statement (.regrpTeam o) := by
  refine ofFields rfl fun h => inRange_of ?_
  have h : ArgsRegrp.inRange o = true := h
  simp only [ArgsRegrp.inRange, Bool.and_eq_true, decide_eq_true_eq] at h
  omega

theorem regrpCore (o : ArgsRegrp) : Statement (.regrpCore o) := by
  refine ofFields rfl fun h => inRange_of ?_
  have h : ArgsRegrp.inRange o = true := h
  simp only [ArgsRegrp.inRange, Bool.and_eq_true, decide_eq_true_eq] at h
  omega

theorem rgive (o : ArgsN) : Statement (.rgive o) := by
  refine ofFields rfl fun h => inRange_of ?_
  have h : ArgsN.inRange o = true := h
  simp only [ArgsN.inRange, Bool.and_eq_true, decide_eq_true_eq] at h
  omega

theorem rclaim (o : ArgsNB) : Statement (.rclaim o) := by
  refine ofFields rfl fun h => inRange_of ?_
  have h : ArgsNB.inRange o = true := h
  simp only [ArgsNB.inRange, Bool.and_eq_true, decide_eq_true_eq] at h
  omega

theorem bra (o : ArgsJ) : Statement (.bra o) := by
  refine ofFields rfl fun h => inRange_of ?_
  have h : ArgsJ.inRange o = true := h
  simp only [ArgsJ.inRange, decide_eq_true_eq] at h
  have hi := o.disp.isLt
  omega

theorem call (o : ArgsJ) : Statement (.call o) := by
  refine ofFields rfl fun h => inRange_of ?_
  have h : ArgsJ.inRange o = true := h
  simp only [ArgsJ.inRange, decide_eq_true_eq] at h
  have hi := o.disp.isLt
  omega

theorem brx (o : ArgsBx) : Statement (.brx o) := by
  refine ofFields rfl fun h => inRange_of ?_
  have h : ArgsBx.inRange o = true := h
  simp only [ArgsBx.inRange, Bool.and_eq_true, decide_eq_true_eq] at h
  omega

theorem callx (o : ArgsBx) : Statement (.callx o) := by
  refine ofFields rfl fun h => inRange_of ?_
  have h : ArgsBx.inRange o = true := h
  simp only [ArgsBx.inRange, Bool.and_eq_true, decide_eq_true_eq] at h
  omega

theorem ret (o : ArgsC) : Statement (.ret o) := by
  refine ofFields rfl fun h => inRange_of ?_
  have h : ArgsC.inRange o = true := h
  simp only [ArgsC.inRange, Bool.and_eq_true, decide_eq_true_eq] at h
  omega

theorem exit (o : ArgsC) : Statement (.exit o) := by
  refine ofFields rfl fun h => inRange_of ?_
  have h : ArgsC.inRange o = true := h
  simp only [ArgsC.inRange, Bool.and_eq_true, decide_eq_true_eq] at h
  omega

theorem yield (o : ArgsC) : Statement (.yield o) := by
  refine ofFields rfl fun h => inRange_of ?_
  have h : ArgsC.inRange o = true := h
  simp only [ArgsC.inRange, Bool.and_eq_true, decide_eq_true_eq] at h
  omega

theorem trap (o : ArgsTrap) : Statement (.trap o) := by
  refine ofFields rfl fun h => inRange_of ?_
  have h : ArgsTrap.inRange o = true := h
  simp only [ArgsTrap.inRange, Bool.and_eq_true, decide_eq_true_eq] at h
  omega

theorem brk (o : ArgsTrap) : Statement (.brk o) := by
  refine ofFields rfl fun h => inRange_of ?_
  have h : ArgsTrap.inRange o = true := h
  simp only [ArgsTrap.inRange, Bool.and_eq_true, decide_eq_true_eq] at h
  omega

theorem nop (o : ArgsC) : Statement (.nop o) := by
  refine ofFields rfl fun h => inRange_of ?_
  have h : ArgsC.inRange o = true := h
  simp only [ArgsC.inRange, Bool.and_eq_true, decide_eq_true_eq] at h
  omega

theorem clauseIssue (gid : Nat) : Statement (.clauseIssue gid) := ofNone rfl

theorem countedCompletion (op lane : Nat) : Statement (.countedCompletion op lane) := ofNone rfl

theorem collectiveDeadlock (gid : Nat) : Statement (.collectiveDeadlock gid) := ofNone rfl

theorem groupEnd (gid : Nat) : Statement (.groupEnd gid) := ofNone rfl

theorem activeSetExchange (core : Nat) : Statement (.activeSetExchange core) := ofNone rfl

theorem forcedSave (team : Nat) : Statement (.forcedSave team) := ofNone rfl

theorem drainTimeout (ctx : Nat) : Statement (.drainTimeout ctx) := ofNone rfl

theorem saveAreaMove (ctx : Nat) : Statement (.saveAreaMove ctx) := ofNone rfl

theorem claimDeadlock (team : Nat) : Statement (.claimDeadlock team) := ofNone rfl

theorem barrierArrival (gid : Nat) : Statement (.barrierArrival gid) := ofNone rfl

theorem regrpRelocation (gid : Nat) : Statement (.regrpRelocation gid) := ofNone rfl

theorem wcbIdleDrain (entry : Nat) : Statement (.wcbIdleDrain entry) := ofNone rfl

theorem wcbEntryLand (entry : Nat) : Statement (.wcbEntryLand entry) := ofNone rfl

theorem translation (op lane : Nat) : Statement (.translation op lane) := ofNone rfl

theorem atomicPerform (op addr : Nat) : Statement (.atomicPerform op addr) := ofNone rfl

theorem relMarkStep (gid : Nat) : Statement (.relMarkStep gid) := ofNone rfl

theorem acqrPromotion (gid : Nat) : Statement (.acqrPromotion gid) := ofNone rfl

theorem l1Invalidate (core line : Nat) : Statement (.l1Invalidate core line) := ofNone rfl

theorem longWait (monitor : Nat) : Statement (.longWait monitor) := ofNone rfl

theorem shootdownArrival (shoot : Nat) (at_ : Translator) : Statement (.shootdownArrival shoot at_) := ofNone rfl

theorem shootdownComplete (shoot : Nat) : Statement (.shootdownComplete shoot) := ofNone rfl

theorem logAppend (line slot : Nat) : Statement (.logAppend line slot) := ofNone rfl

theorem chiselMove (seg : Nat) : Statement (.chiselMove seg) := ofNone rfl

theorem l2Fill (sector gid : Nat) (bad : Bool) : Statement (.l2Fill sector gid bad) := ofNone rfl

theorem segmentShip (seg peer : Nat) : Statement (.segmentShip seg peer) := ofNone rfl

theorem replicaApply (what : Shipment) : Statement (.replicaApply what) := ofNone rfl

theorem replicaCatchUp (ext peer : Nat) : Statement (.replicaCatchUp ext peer) := ofNone rfl

theorem matchedSetBreak (gid : Nat) : Statement (.matchedSetBreak gid) := ofNone rfl

theorem copyWriteLand (op part : Nat) : Statement (.copyWriteLand op part) := ofNone rfl

theorem copyComplete (op : Nat) : Statement (.copyComplete op) := ofNone rfl

theorem cpynAbandon (op : Nat) : Statement (.cpynAbandon op) := ofNone rfl

theorem leaseBound (team : Nat) : Statement (.leaseBound team) := ofNone rfl

theorem sequencerWatchdog (stack : Nat) : Statement (.sequencerWatchdog stack) := ofNone rfl

theorem leaseReestablish (team : Nat) : Statement (.leaseReestablish team) := ofNone rfl

theorem rowcopy (stack : Nat) : Statement (.rowcopy stack) := ofNone rfl

theorem rowzero (stack : Nat) : Statement (.rowzero stack) := ofNone rfl

theorem bufcopy (stack : Nat) : Statement (.bufcopy stack) := ofNone rfl

theorem abenter (stack : Nat) : Statement (.abenter stack) := ofNone rfl

theorem bcast (stack : Nat) : Statement (.bcast stack) := ofNone rfl

theorem gemv (stack : Nat) : Statement (.gemv stack) := ofNone rfl

theorem readacc (stack : Nat) : Statement (.readacc stack) := ofNone rfl

theorem abexit (stack : Nat) : Statement (.abexit stack) := ofNone rfl

theorem accclr (stack : Nat) : Statement (.accclr stack) := ofNone rfl

theorem leaseq (stack : Nat) : Statement (.leaseq stack) := ofNone rfl

theorem rowfill (stack : Nat) : Statement (.rowfill stack) := ofNone rfl

theorem uncorrectableError (w : ErrWhere) : Statement (.uncorrectableError w) := ofNone rfl

theorem unreachable (dev : Nat) : Statement (.unreachable dev) := ofNone rfl

theorem receiveMessage (m : NetMessage) : Statement (.receiveMessage m) := ofNone rfl

theorem packetDrop (p : Packet) : Statement (.packetDrop p) := ofNone rfl

theorem ldreq (p : Packet) : Statement (.ldreq p) := ofNone rfl

theorem ldrsp (p : Packet) : Statement (.ldrsp p) := ofNone rfl

theorem store (p : Packet) : Statement (.store p) := ofNone rfl

theorem stack (p : Packet) : Statement (.stack p) := ofNone rfl

theorem atomic (p : Packet) : Statement (.atomic p) := ofNone rfl

theorem atrsp (p : Packet) : Statement (.atrsp p) := ofNone rfl

theorem publish (p : Packet) : Statement (.publish p) := ofNone rfl

theorem puback (p : Packet) : Statement (.puback p) := ofNone rfl

theorem demand (p : Packet) : Statement (.demand p) := ofNone rfl

theorem grant (p : Packet) : Statement (.grant p) := ofNone rfl

theorem discard (p : Packet) : Statement (.discard p) := ofNone rfl

theorem start (o : StartInput) : Statement (.start o) := ofNone rfl

theorem startTimeout (stage : Nat) : Statement (.startTimeout stage) := ofNone rfl

theorem pldmClearFailcnt : Statement (.pldmClearFailcnt) := ofNone rfl

theorem powerCap (watts : Nat) : Statement (.powerCap watts) := ofNone rfl

theorem throttleStepChange (core newStep : Nat) : Statement (.throttleStepChange core newStep) := ofNone rfl

theorem rampEnd (core : Nat) : Statement (.rampEnd core) := ofNone rfl

theorem getVersion (q : SpdmRequest) : Statement (.getVersion q) := ofNone rfl

theorem getCapabilities (q : SpdmRequest) : Statement (.getCapabilities q) := ofNone rfl

theorem negotiateAlgorithms (q : SpdmRequest) : Statement (.negotiateAlgorithms q) := ofNone rfl

theorem getDigests (q : SpdmRequest) : Statement (.getDigests q) := ofNone rfl

theorem getCertificate (q : SpdmRequest) : Statement (.getCertificate q) := ofNone rfl

theorem challenge (q : SpdmRequest) : Statement (.challenge q) := ofNone rfl

theorem getMeasurements (q : SpdmRequest) : Statement (.getMeasurements q) := ofNone rfl

theorem qdb (q : Nat) (v : HostWrite) : Statement (.qdb q v) := ofNone rfl

theorem evdb (ctx v : Nat) : Statement (.evdb ctx v) := ofNone rfl

theorem q0ring (v : HostWrite) : Statement (.q0ring v) := ofNone rfl

theorem sqbind (n : Nat) (v : HalfWrite) : Statement (.sqbind n v) := ofNone rfl

theorem rqbindBind (n : Nat) (v : HalfWrite) : Statement (.rqbindBind n v) := ofNone rfl

theorem rqbindUnbind (n : Unbinding) : Statement (.rqbindUnbind n) := ofNone rfl

theorem registerWrite (off : Nat) (v : BitVec 64) : Statement (.registerWrite off v) := ofNone rfl

theorem launch (queue : Nat) : Statement (.launch queue) := ofNone rfl

theorem copy (queue : Nat) : Statement (.copy queue) := ofNone rfl

theorem signal (queue : Nat) : Statement (.signal queue) := ofNone rfl

theorem wait (queue : Nat) : Statement (.wait queue) := ofNone rfl

theorem extentCreate (queue : Nat) : Statement (.extentCreate queue) := ofNone rfl

theorem extentDestroy (queue : Nat) : Statement (.extentDestroy queue) := ofNone rfl

theorem extentSetrepl (queue : Nat) : Statement (.extentSetrepl queue) := ofNone rfl

theorem extentQuery (queue : Nat) : Statement (.extentQuery queue) := ofNone rfl

theorem extentSnap (queue : Nat) : Statement (.extentSnap queue) := ofNone rfl

theorem extentRevert (queue : Nat) : Statement (.extentRevert queue) := ofNone rfl

theorem extentSndrop (queue : Nat) : Statement (.extentSndrop queue) := ofNone rfl

theorem extentPromote (queue : Nat) : Statement (.extentPromote queue) := ofNone rfl

theorem extentLoad (queue : Nat) : Statement (.extentLoad queue) := ofNone rfl

theorem saveDrain (queue : Nat) : Statement (.saveDrain queue) := ofNone rfl

theorem saveForce (queue : Nat) : Statement (.saveForce queue) := ofNone rfl

theorem resume (queue : Nat) : Statement (.resume queue) := ofNone rfl

theorem replay (queue : Nat) : Statement (.replay queue) := ofNone rfl

theorem cancelw (queue : Nat) : Statement (.cancelw queue) := ofNone rfl

theorem shoot (queue : Nat) : Statement (.shoot queue) := ofNone rfl

theorem debugArm (queue : Nat) : Statement (.debugArm queue) := ofNone rfl

theorem debugDisarm (queue : Nat) : Statement (.debugDisarm queue) := ofNone rfl

theorem debugHaltCmd (queue : Nat) : Statement (.debugHaltCmd queue) := ofNone rfl

theorem debugRead (queue : Nat) : Statement (.debugRead queue) := ofNone rfl

theorem debugWrite (queue : Nat) : Statement (.debugWrite queue) := ofNone rfl

theorem debugCont (queue : Nat) : Statement (.debugCont queue) := ofNone rfl

theorem debugClrerr (queue : Nat) : Statement (.debugClrerr queue) := ofNone rfl

theorem part (queue : Nat) : Statement (.part queue) := ofNone rfl

theorem ctx (queue : Nat) : Statement (.ctx queue) := ofNone rfl

theorem queueBind (queue : Nat) : Statement (.queueBind queue) := ofNone rfl

theorem queueUnbind (queue : Nat) : Statement (.queueUnbind queue) := ofNone rfl

theorem ctxend (queue : Nat) : Statement (.ctxend queue) := ofNone rfl

theorem unknownCommand (queue : Nat) : Statement (.unknownCommand queue) := ofNone rfl

theorem linkLevelAcknowledgement (dev : Nat) : Statement (.linkLevelAcknowledgement dev) := ofNone rfl

end Sys2Proof.Laws.Operands
end

