-- ==== Sys2Proof/Tests/Slice0.lean ====
section
/-!
SUPPORT. Tests: ill-formed terms that the checks refuse, words of the manual's commentary and what they read as, values that the manual works out, and for
each statement a state that meets its hypotheses.
-/
namespace Sys2Proof.Tests
open Sys2Proof Sys2Proof.Machine

/-! ## A small state -/

/-- A team in writer slot 0 with a window of 64 KiB. -/
def aTeam : Team := { rowTeam 2 with wslot := some 0 }

/-- A group of that team that executes a clause of the words. -/
def aGroup (ws : List Word) : Group := rowGroup 1 2 ws

/-- The context, whose event ring of 16 records stands at 0x1000 of host memory. -/
def aCtx : Context where
  num := 1
  pnum := 0
  ptroot := 0
  savex := 0
  saven := 0
  evring := 0x1000
  evn := 4
  evhead := 0
  evtail := 0
  seq := 5
  evwait := []
  errst := 0
  launches := 1
  armed := false
  allstop := false
  saved := false
  inArea := false
  saving := []
  drainSince := none
  resuming := []

/-- The launch of the team. -/
def aLaunch : Launch where
  lid := 0
  ctx := 1
  num := 0
  queue := 1
  slot := 0
  params := 0
  kdesc := 0
  entry := 0
  trap := 0
  gx := 1
  gy := 1
  gz := 1
  share := 0
  checked := false
  latency := false
  feat := 0
  g := 1
  c := 1
  alloc := 64
  reserve := 0
  window := 65536
  barriers := 4
  taskrec := false
  placed := 0
  bad := false
  elapsed := 0
  energy := 0
  started := true

/-- The partition. -/
def aPart : Partition := { num := 0, spk := 0, strict := false, lwn := 4, spn := 4, drn := 4, rsvmask := 0, clmask := 1 }

/-- A flexible extent of the context. -/
def anExtent : Extent where
  num := 3
  ctx := 1
  kind := 0
  home := 0
  seg := 0
  pc := 0
  cold := 0
  thr := 0
  nrep := 0
  pdev0 := 0
  pext0 := 0
  pdev1 := 0
  pext1 := 0
  casts := []
  gens := []
  row0 := 0
  priv := false

/-- A state with a group at the first of some words. -/
def aState (g : Group) (tm : Team := aTeam) : State :=
  { State.reset with
    fresh := 10
    focus := 1
    groups := [g]
    teams := [tm]
    launches := [aLaunch]
    ctxs := [aCtx]
    parts := [aPart]
    extents := [anExtent]
    holders := [(0, .team 2)] }

/-- The group with values in s registers and in v registers of every lane. -/
def withRegs (g : Group) (ss : List (Nat × DWord)) (vs : List (Nat × Word)) : Group :=
  { g with
    s := setAll g.s ss
    lanes := g.lanes.map fun x => { x with v := setAll x.v vs } }

/-- Lane 0 of the group after an outcome. -/
def after (o : Host.Outcome State Fault Refusal) (f : Group → Nat) : Nat :=
  match o with
  | .next t => ((t.group? 1).map f).getD 0
  | _ => 0

/-- v register n of lane l after the outcome. -/
def vAfter (o : Host.Outcome State Fault Refusal) (l n : Nat) : Nat := after o fun g => (g.vr l n).toNat
/-- The flags after the outcome. -/
def flagsAfter (o : Host.Outcome State Fault Refusal) : Nat := after o fun g => g.fpflags.toNat

/-! ## Ill-formed terms that the checks refuse -/

/-- R63: a destination of six bits. -/
theorem test_wf_register : (Instr.iadd { g := 0, d := 64, a := 0, b := 0, s := false, stall := 0 }).wf = false := by decide
/-- R63: a guard of three bits. -/
theorem test_wf_guard : (Instr.mov { g := 8, d := 0, a := 0, stall := 0 }).wf = false := by decide
/-- R66: an odd pair. -/
theorem test_wf_pair : (Instr.dadd { g := 0, d := 3, a := 0, b := 0, stall := 0 }).wf = false := by decide
/-- R66: a quad at 2. -/
theorem test_wf_quad : (Instr.ldQ { g := 0, t := 2, base := 0, idx := 0, ctr := 0 }).wf = false := by decide
/-- R75: pd1 = pd2 other than p0 with combine type 6. -/
theorem test_wf_compare : (Instr.icmp { g := 0, p := 1, q := 1, a := 0, b := 0, k := 6, c := 0 }).wf = false := by decide
/-- R75: p0 and p0 is legal. -/
theorem test_wf_compare_p0 : (Instr.icmp { g := 0, p := 0, q := 0, a := 0, b := 0, k := 6, c := 0 }).wf = true := by decide
/-- R69: a number that the table of special registers does not list. -/
theorem test_wf_special : (Instr.rdsr { g := 0, d := 0, n := 0x00D, stall := 0 }).wf = false := by decide
/-- R149: a rounding mode on an exact conversion. -/
theorem test_wf_cvt : (Instr.cvt { g := 0, d := 0, a := 0, src := 4, dst := 6, rm := 1, sat := false, stall := 0 }).wf = false := by decide
/-- R162: a predicate number of 8. -/
theorem test_wf_predicate : (Instr.gredAdd { g := 0, d := 0, a := 0, b := 8, stall := 0 }).wf = false := by decide
/-- R229: an allotment of 4 registers. -/
theorem test_wf_allotment : (Instr.rgive { g := 0, n4 := 1 }).wf = false := by decide
/-- R241: SEAL at scope 0, and paths in the wrong order. -/
theorem test_wf_ordering : (Instr.rel { g := 0, scope := 0, sealed := true }).wf = false ∧ (Instr.fencex { g := 0, pa := 3, pb := 3 }).wf = false := by
  decide

/-! ## Words of the manual's commentary -/

/-- 05, 09, 11, 13, 14, 17 to 21: the words with their fields. -/
theorem test_decode_alu :
    decode [0x641020A1#32] = .ok (.fmul { g := 0, d := 8, a := 4, b := 5, rm := 0, s := false, stall := 1 }, []) ∧
    decode [0x05145865#32] = .ok (.iadd { g := 2, d := 10, a := 11, b := 3, s := true, stall := 1 }, []) ∧
    decode [0x601240C3#32] = .ok (.fadd { g := 0, d := 9, a := 8, b := 6, rm := 0, stall := 3 }, []) ∧
    decode [0x74288243#32] = .ok (.dadd { g := 0, d := 20, a := 16, b := 18, stall := 3 }, []) ∧
    decode [0x742CA248#32] = .ok (.dmul { g := 0, d := 22, a := 20, b := 18, stall := 0 }, []) ∧
    decode [0x380A20C0#32] = .ok (.mix { g := 0, d := 5, a := 4, b := 6, w := 0, stall := 0 }, []) := ⟨rfl, rfl, rfl, rfl, rfl, rfl⟩
/-- 09 and 17: compares. -/
theorem test_decode_compare :
    decode [0x84B81005#32] = .ok (.icmp { g := 1, p := 3, q := 4, a := 2, b := 0, k := 1, c := 1 }, []) ∧
    decode [0x943801E1#32] = .ok (.scmp { g := 0, p := 3, q := 4, a := 0, b := 15, k := 0, c := 1 }, []) := ⟨rfl, rfl⟩
/-- 05, 17, 19, 21: memory words. -/
theorem test_decode_memory :
    decode [0xAC1820C9#32] = .ok (.ldW { g := 0, t := 12, base := 4, idx := 6, ctr := 1 }, []) ∧
    decode [0xB006A889#32] = .ok (.stW { g := 0, t := 3, base := 21, idx := 4, ctr := 1 }, []) ∧
    decode [0xBC98012E#32] = .ok (.ldfD { g := 1, t := 12, base := 0, idx := 9, clr := true, ctr := 2 }, []) ∧
    decode [0xC410A121#32] = .ok (.atomAdd { g := 0, t := 8, base := 20, idx := 9, ctr := 1 }, []) := ⟨rfl, rfl, rfl, rfl⟩
/-- 20 and 21: bank commands. -/
theorem test_decode_bank :
    decode [0xD81020C1#32] = .ok (.badd { g := 0, t := 8, base := 4, idx := 6, ctr := 1 }, []) ∧
    decode [0xD8142850#32] = .ok (.bsmx { g := 0, t := 10, base := 5, idx := 2, ctr := 0 }, []) ∧
    decode [0xD8863936#32] = .ok (.biadd { g := 1, t := 3, base := 7, idx := 9, ctr := 2 }, []) ∧
    decode [0xD81820DF#32] = .ok (.bset { g := 0, t := 12, base := 4, idx := 6, ctr := 3 }, []) := ⟨rfl, rfl, rfl, rfl⟩
/-- 22 and 24: matrix words, copies, near-memory calls. -/
theorem test_decode_engines :
    decode [0xDC003000#32] = .ok (.gang { g := 0, base := 6, ctr := 0 }, []) ∧
    decode [0xDC28B30E#32] = .ok (.tfetch { g := 0, t := 20, base := 22, idx := 24, ctr := 2 }, []) ∧
    decode [0xDC204011#32] = .ok (.mma { g := 0, t := 16, base := 8, ctr := 1 }, []) ∧
    decode [0xDC200038#32] = .ok (.acczD { g := 0, t := 16, ctr := 0 }, []) ∧
    decode [0xE00C4081#32] = .ok (.cpy { g := 0, t := 6, base := 8, idx := 4, ctr := 1 }, []) ∧
    decode [0xE01461CA#32] = .ok (.cpyn { g := 0, t := 10, base := 12, idx := 14, ctr := 2 }, []) := ⟨rfl, rfl, rfl, rfl, rfl, rfl⟩
/-- 14, 18: ordering words and casts. -/
theorem test_decode_ordering :
    decode [0xE4000400#32] = .ok (.rel { g := 0, scope := 4, sealed := false }, []) ∧
    decode [0xE4000180#32] = .ok (.rel { g := 0, scope := 1, sealed := true }, []) ∧
    decode [0xE400070C#32] = .ok (.fence { g := 0, scope := 7 }, []) ∧
    decode [0xE4126008#32] = .ok (.acqr { g := 0, t := 9, base := 12 }, []) ∧
    decode [0xE4142018#32] = .ok (.snap { g := 0, t := 10, base := 4 }, []) ∧
    decode [0xE418303C#32] = .ok (.sndrop { g := 0, t := 12, base := 6 }, []) := ⟨rfl, rfl, rfl, rfl, rfl, rfl⟩
/-- 13, 17: barriers, the pool, branches, NOP. -/
theorem test_decode_control :
    decode [0xE821E01C#32] = .ok (.rclaim { g := 0, n4 := 16, base := 60 }, []) ∧
    decode [0xE80E0004#32] = .ok (.bara { g := 0, t := 7, base := 0 }, []) ∧
    decode [0xED800000#32] = .ok (.bra { g := 3, disp := 0 }, []) ∧
    decode [0xF000001D#32] = .ok (.nop { g := 0, stall := 1 }, []) := ⟨rfl, rfl, rfl, rfl⟩
/-- R70, R71: SLIT.W64 takes two literals, lower half first; one that is missing is refused. -/
theorem test_decode_literals :
    decode [0x540C0004#32, 0x20001#32, 0x40003#32, 9#32] = .ok (.slitW64 { d := 6, stall := 0 } 0x20001 0x40003, [9#32]) ∧
    decode [0x540C0004#32, 0x20001#32] = .error .literalMissing := ⟨rfl, rfl⟩
/-- 05: minors that the map lists as a dash, a guard on a scalar word, and a field that is not used. -/
theorem test_decode_refused :
    decode [0x040828D8#32] = .error .reservedMinor ∧ decode [0x40800000#32] = .error .guardNotZero ∧ decode [0xF0000020#32 ||| 0x1C#32] = .error .unusedField :=
  ⟨rfl, rfl, rfl⟩
/-- The word 0x0408_28D8 with minor 0 is an IADD of the words that the encoder gives. -/
theorem test_encode : encode (.iadd { g := 2, d := 10, a := 11, b := 3, s := true, stall := 1 }) = [0x05145865#32] ∧
    encode (.fence { g := 0, scope := 7 }) = [0xE400070C#32] := ⟨rfl, rfl⟩
/-- The step runs the word that is placed. -/
theorem test_step : (match step (State.reset.withFetchWord 64 0x1234567854140000) with
    | .next t => ((t.group? 1).map fun g => (g.getS 10).toNat).getD 0
    | _ => 0) = 0x12345678 := by decide

/-! ## Values that the manual works out -/

/-- 09: MIX.W8 of 0x5A with the key 4, 3, 2, 1 is 0x3F. -/
theorem test_mix :
    vAfter (exec (.mix { g := 0, d := 5, a := 4, b := 6, w := 0, stall := 0 }) (aState (withRegs (aGroup [0]) [(6, 0x0004000300020001)] [(4, 0x5A)]))) 0 5
      = 0x3F := by decide
/-- 09: IADD wraps. -/
theorem test_iadd :
    vAfter (exec (.iadd { g := 0, d := 5, a := 4, b := 3, s := false, stall := 0 }) (aState (withRegs (aGroup [0]) [] [(4, 0x7FFFFFFF), (3, 1)]))) 31 5
      = 0x80000000 := by decide
/-- 09: IADDS ends at the least value. -/
theorem test_iadds :
    vAfter (exec (.iadds { g := 0, d := 5, a := 4, b := 3, s := false, stall := 0 })
      (aState (withRegs (aGroup [0]) [] [(4, 0x80000000), (3, 0xFFFFFFFF)]))) 0 5 = 0x80000000 := by decide
/-- 09: ISUBUS of 5 and 7 is 0. -/
theorem test_isubus :
    vAfter (exec (.isubus { g := 0, d := 4, a := 4, b := 3, s := false, stall := 0 }) (aState (withRegs (aGroup [0]) [] [(4, 5), (3, 7)]))) 0 4 = 0 := by
  decide
/-- 09: CVT.F32.S32 of 3e9 saturates with SV. -/
theorem test_cvt_saturates : cvtResult 6 0 0 false 0x4F32D05E = (0x7FFFFFFF, fSV) := by decide
/-- 09: CVT.F32.F16 of 70000 overflows, and with SAT saturates. -/
theorem test_cvt_overflow : cvtResult 6 4 0 false 0x4788B800 = (0x7C00, fOF ||| fNX) ∧ cvtResult 6 4 0 true 0x4788B800 = (0x7BFF, fSV ||| fNX) := by decide
/-- 07: 0.3 in F16, BF16, E5M2, E4M3 and E2M1. -/
theorem test_round :
    let x := F32.value 0x3E99999A
    (F16.round x 0 = (0x34CD, fNX)) ∧ (BF16.round x 0 = (0x3E9A, fNX)) ∧ (E5M2.round x 0 = (0x35, fNX)) ∧ (E4M3.round x 0 = (0x2A, fNX)) ∧
    (E2M1.round x 0 = (1, fNX ||| fUF)) := by decide

/-! ## Hypotheses that can be met: words

Each theorem from here on gives a state and operands that meet the hypotheses of a statement of Certificates/Slice0, clause by clause, the ends of a
clause's range included. -/

/-- No recent result and nothing pending anywhere. -/
def quiet (g : Group) : Bool :=
  g.lanes.all (fun x => x.fresh.isEmpty && x.pend.isEmpty) && g.sfresh.isEmpty && g.spend.isEmpty

theorem quiet_lane {g : Group} (h : quiet g = true) (l : Nat) : (g.lane l).fresh = [] ∧ (g.lane l).pend = [] := by
  simp only [quiet, Bool.and_eq_true, List.all_eq_true, List.isEmpty_iff] at h
  unfold Group.lane
  by_cases e : l < g.lanes.length
  · rw [List.getD_eq_getElem?_getD, List.getElem?_eq_getElem e]
    exact h.1.1 _ (List.getElem_mem e)
  · rw [List.getD_eq_getElem?_getD, List.getElem?_eq_none (by omega)]
    exact ⟨rfl, rfl⟩

theorem quiet_settled {g : Group} (h : quiet g = true) (u : Uses) : Settled g u := by
  have hl := quiet_lane h
  simp only [quiet, Bool.and_eq_true, List.isEmpty_iff] at h
  refine ⟨fun l n _ f hf => ?_, fun l n _ p hp => ?_, fun n _ f hf => ?_, fun n _ _ p hp => ?_⟩
  · rw [(hl l).1] at hf; cases hf
  · rw [(hl l).2] at hp; cases hp
  · rw [h.1.2] at hf; cases hf
  · rw [h.2] at hp; cases hp

/-- A group at a word: s4 at the last quad below 2^56, s5 past it, s6 of 2, s8 at the last 16 bytes of the window with FB = 2, s9 at its end, s13 at its start with FB = 3; counter 3 full,
p1 false, nothing recent, nothing pending. -/
def wGroup : Group :=
  let g := withRegs (aGroup [0]) [(4, 0xFFFFFFFFFFFFF0), (5, 0x100000000000000), (6, 2), (8, 0x20000FFF0), (9, 0x10000), (13, 0x300000000)] []
  { g with lanes := g.lanes.map fun x => { x with sb := [0, 0, 0, 63] } }

/-- Its run. -/
def wRun : Run := rowRun [0]

/-- The group stands at the word, whichever way its lanes share it. -/
abbrev AtAll (s : State) (g : Group) (r : Run) : Prop := ∀ share, AtWord s g r share

theorem atWord {s : State} {g : Group} {r : Run}
    (h : s.group? s.focus = some g ∧ s.current? g = some r ∧ g.report = none ∧ r.ran.contains r.pos = false ∧ g.parted r = false) : AtAll s g r :=
  fun _ => ⟨h.1, h.2.1, h.2.2.1, h.2.2.2.1, fun _ => h.2.2.2.2⟩

/-- What the statements about words ask: the group stands at the word, its operands are settled whatever the word uses, and there is a lane in Issue. -/
def WordMet (s : State) (g : Group) (r : Run) : Prop := AtAll s g r ∧ (∀ u, Settled g u) ∧ g.issueOf r 0 = List.range 32

theorem wordMet : WordMet (aState wGroup) wGroup wRun :=
  ⟨atWord (by decide), quiet_settled (by decide), by decide⟩

theorem test_meets_IntegerWords : ∃ s g r, WordMet s g r := ⟨_, _, _, wordMet⟩
theorem test_meets_IntegerFieldsAndPairs : ∃ s g r, WordMet s g r := ⟨_, _, _, wordMet⟩
theorem test_meets_ScalarWords : ∃ s g r, WordMet s g r := ⟨_, _, _, wordMet⟩
theorem test_meets_SinglePrecision : ∃ s g r, WordMet s g r := ⟨_, _, _, wordMet⟩
theorem test_meets_SpecialFunctions : ∃ s g r, WordMet s g r := ⟨_, _, _, wordMet⟩
theorem test_meets_DoubleAndHalf : ∃ s g r, WordMet s g r := ⟨_, _, _, wordMet⟩
theorem test_meets_Conversions : ∃ s g r, WordMet s g r := ⟨_, _, _, wordMet⟩
theorem test_meets_Compares : ∃ s g r, WordMet s g r := ⟨_, _, _, wordMet⟩
theorem test_meets_MovesCopyBits : ∃ s g r, WordMet s g r := ⟨_, _, _, wordMet⟩
theorem test_meets_LaneAndLiteralMoves : ∃ s g r, WordMet s g r := ⟨_, _, _, wordMet⟩
theorem test_meets_ShufflesAndVotes : ∃ s g r, WordMet s g r := ⟨_, _, _, wordMet⟩
theorem test_meets_ReductionsAndScans : ∃ s g r, WordMet s g r := ⟨_, _, _, wordMet⟩
/-- WRSR of %fpflags and of its neighbours. -/
theorem test_meets_SpecialRegisters : (∃ s g r, WordMet s g r) ∧ (0x030 ≠ 0x031 ∧ 0x032 ≠ 0x031) ∧
    (aState wGroup).team? (wGroup.lane 31).team = some aTeam := ⟨⟨_, _, _, wordMet⟩, by decide, by decide⟩
/-- The widths at both ends, and a value that is reached. -/
theorem test_meets_MixIsBijection : (0 ≤ 6 ∧ 8 + 4 * 6 = 32) ∧ (mixValue 8 0x0004000300020001 0x5A).toNat = 0x3F := by decide
/-- Each mode; a unit above the last place; a code of every format, the greatest finite one included. -/
theorem test_meets_RoundingIsDirectedAndExact :
    (∀ rm ∈ [0, 1, 2, 3], rm ≤ 3) ∧ (-1 : Int) < 0 ∧ roundUnit 0 false 5 (-1) 0 = (2, true) ∧ roundUnit 2 false 5 (-1) 0 = (3, true) ∧
    ∀ t ∈ [F64, F32, F16, BF16, E5M2, E4M3], t.maxCode < 2 * t.signBit ∧ t.maxCode % t.signBit ≤ t.maxCode := by decide

/-! ## Counted words -/

/-- The three cases of a counted word that takes the lanes of Issue: it issues under p0 with counter 0, has no lane under p1, and is held at counter 3. -/
def AskMet (s : State) (g : Group) (r : Run) : Prop :=
  WordMet s g r ∧ (∀ l ∈ g.issueOf r 0, (g.lane l).counter 0 ≠ 63) ∧ g.issueOf r 1 = [] ∧ ∃ l ∈ g.issueOf r 0, (g.lane l).counter 3 = 63

theorem askMet : AskMet (aState wGroup) wGroup wRun := ⟨wordMet, by decide, by decide, ⟨0, by decide, by decide⟩⟩

/-- The last bytes of the address space: widths 1 to 16, an index of one register and of two. -/
theorem test_meets_LoadsAndStoresIssue : AskMet (aState wGroup) wGroup wRun ∧
    (∀ size ∈ [1, 2, 4, 8, 16], ∀ wide ∈ [true, false], ∀ l ∈ wGroup.issueOf wRun 0, Canonical (wGroup.address wide l 4 20) size) ∧
    Canonical (wGroup.getS 4).toNat 8 ∧ ¬ Canonical (wGroup.getS 5).toNat 8 := ⟨askMet, by decide, by decide, by decide⟩
/-- The last bytes of the window. -/
theorem test_meets_ScratchpadAndBanksIssue : AskMet (aState wGroup) wGroup wRun ∧
    (∀ l ∈ wGroup.issueOf wRun 0, InWindow ((aState wGroup).windowOf wGroup l) (wGroup.offset l 8 20) 16) ∧ field (wGroup.getS 8).toNat 32 2 = 2 :=
  ⟨askMet, by decide, by decide⟩
theorem test_meets_AtomicsIssue : AskMet (aState wGroup) wGroup wRun ∧
    (∀ l ∈ wGroup.issueOf wRun 0, Canonical (wGroup.address false l 4 20) 8 ∧ InWindow ((aState wGroup).windowOf wGroup l) (wGroup.offset l 8 20) 4) :=
  ⟨askMet, by decide⟩

/-- A record of a reservation of 64 bytes. -/
def aReservation : Reservation := { num := 5, record := 0, base := 0, len := 64, data := [] }
/-- A team with that reservation, with a copy block in its window, and with a near-memory argument block behind it. -/
def mTeam : Team := { aTeam with reservations := [aReservation] }

/-- s10 names the reservation, offset 32 and one row of 32 bytes, up to its end; s11 another one; s12 names it for an MMA; s14 is 0. -/
def mGroup : Group := withRegs wGroup [(10, 0x1001000805), (11, 4), (12, 0x50), (14, 0)] []

/-- GANG, OBRES, ACCZ need nothing; OBREL a reservation, TFETCH one that its rows fill to the end; a group all of whose lanes have exited has no lane;
an MMA with its accumulators below the allotment. -/
theorem test_meets_MatrixIssue :
    (AtAll (aState mGroup mTeam) mGroup wRun ∧ (∀ u, Settled mGroup u) ∧ mGroup.alive = List.range 32 ∧ ∀ l ∈ mGroup.alive, (mGroup.lane l).counter 0 ≠ 63) ∧
    (((aState mGroup mTeam).team? mGroup.owner).bind fun t => t.reservation? (field (mGroup.getS 10).toNat 0 4)).isSome = true ∧
    (let k := (mGroup.getS 10).toNat
     (mGroup.getS 14).toNat % 32 = 0 ∧ field k 36 8 = 1 ∧ field k 6 18 = 32 ∧ field k 6 18 + field k 24 12 * (32 * field k 36 8) = aReservation.len ∧
     (aState mGroup mTeam).team? mGroup.owner = some mTeam ∧ mTeam.reservation? (field k 0 4) = some aReservation) ∧
    (let e : Group := { aGroup [0] with lanes := (aGroup [0]).lanes.map fun x => { x with exited := true } }
     AtAll (aState e) e wRun ∧ (∀ u, Settled e u) ∧ e.alive = []) ∧
    (let a := (List.range 16).map fun n => 48 + n
     accumulators (aState mGroup mTeam) mGroup true 48 (mGroup.getS 12) = (a, a) ∧ accumulators (aState mGroup mTeam) mGroup false 48 (mGroup.getS 12) = (a, a)) ∧
    (accumulators (aState mGroup) mGroup false 16 (mGroup.getS 12)).2 = (List.range 32).map fun n => 16 + n :=
  ⟨⟨atWord (by decide), quiet_settled (by decide), by decide, by decide⟩, by decide, by decide,
   ⟨atWord (by decide), quiet_settled (by decide), by decide⟩, by decide, by decide⟩

/-! ## Copies, faults, translation, completion -/

/-- A team whose window ends with a block of one row of 8 bytes for its own last bytes, an argument block before it. -/
def cTeam : Team := { aTeam with spad := Memory.putNat (Memory.putNat [] 65504 32 (0x1000 + 65528 * 2 ^ 64 + 8 * 2 ^ 128 + 2 ^ 160)) 65408 8 0xFFFFFFFFFFFFFF }

/-- s16 to s19: destination, source at the last 16 bytes, control of MODE 1, 16 bytes, DSP, barrier 3; s20 and s22: control and block address of CPYT; s26:
the control word of a stamp at 8; s24: send queue 7; s28: the argument block. -/
def cGroup : Group :=
  withRegs wGroup [(16, 65520), (17, 0xFFFFFFFFFFFFF0), (18, 0x319), (20, 0x311), (22, 65504), (24, 7), (26, 0x80A), (28, 65408)] []

/-- The state, with send queue 7 bound to the context. -/
def cState : State := { aState cGroup cTeam with sendq := [(7, 1 + 2 ^ 52)] }

/-- CPY at the ends of address space and window, its barrier the last one; a stamp in memory; CPYT and CPYN with a block at the end of the window; NMC with a
block and an address below 2^56. -/
theorem test_meets_CopiesIssue :
    (AtAll cState cGroup wRun ∧ (∀ u, Settled cGroup u) ∧ cGroup.issueOf wRun 0 = List.range 32 ∧ cGroup.issueOf wRun 1 = [] ∧ cGroup.alive = List.range 32) ∧
    (∀ l ∈ cGroup.issueOf wRun 0, CopyLaneOk cState cGroup 0x319 l (2 ^ 56 - 16) 65520) ∧
    CopyLaneOk cState cGroup 0x80A 0 (2 ^ 56 - 16) (2 ^ 56 - 16) ∧ BlockOk cState cGroup 20 22 none cTeam ∧
    BlockOk cState cGroup 26 22 (some 24) cTeam ∧
    (cState.team? cGroup.owner = some cTeam ∧ 65408 % 64 = 0 ∧ 65408 + 64 ≤ cTeam.window ∧ cTeam.read 65408 8 < 2 ^ 56) := by
  refine ⟨⟨atWord (by decide), quiet_settled (by decide), by decide, by decide, by decide⟩, ?_, ?_, ?_, ?_, by decide⟩
  · unfold CopyLaneOk; decide
  · unfold CopyLaneOk; decide
  · refine ⟨by decide, by decide, by decide, by decide, by decide, by decide, by decide, by decide, fun n h => by cases h⟩
  · refine ⟨by decide, by decide, by decide, by decide, by decide, by decide, by decide, by decide, fun n h => ?_⟩
    cases h
    exact ⟨1 + 2 ^ 52, by decide, by decide, by decide⟩

/-- The group with an index that only lane 1 has. -/
def fGroup : Group := wGroup.modLane 1 fun x => x.putV 20 0x100

/-- 0x08 at 2^56 and 0x06 at 2 where lane 0 fails first, and where lane 1 is the lowest that fails; 0x07 at the end of the window and 0x06 in it; BSMX with
FB = 0. -/
theorem test_meets_AccessFaults :
    (AtAll (aState fGroup) fGroup wRun ∧ (∀ u, Settled fGroup u) ∧ fGroup.ended = false ∧ (∀ l ∈ fGroup.issueOf wRun 0, (fGroup.lane l).counter 0 ≠ 63)) ∧
    addressCode (fGroup.address false 0 5 20) 4 = some 0x08 ∧ addressCode (fGroup.address false 0 6 20) 4 = some 0x06 ∧
    (addressCode (fGroup.address false 1 4 20) 4 = some 0x08 ∧ 1 ∈ fGroup.issueOf wRun 0 ∧ addressCode (fGroup.address false 0 4 20) 4 = none) ∧
    offsetCode ((aState fGroup).windowOf fGroup 0) (fGroup.offset 0 9 20) 1 = some 0x07 ∧
    offsetCode ((aState fGroup).windowOf fGroup 0) (fGroup.offset 0 6 20) 4 = some 0x06 ∧
    (offsetCode ((aState fGroup).windowOf fGroup 1) (fGroup.offset 1 8 20) 8 = some 0x07 ∧
      offsetCode ((aState fGroup).windowOf fGroup 0) (fGroup.offset 0 8 20) 8 = none) ∧ field (fGroup.getS 9).toNat 32 2 ≠ 3 ∧
    field (fGroup.getS 13).toNat 32 2 = 3 :=
  ⟨⟨atWord (by decide), quiet_settled (by decide), by decide, by decide⟩, by decide, by decide, by decide, by decide, by decide, by decide, by decide, by decide⟩

/-! ### Translation -/

/-- Extent 8, which is fixed and holds the page tables. -/
def tableExtent : Extent := { anExtent with num := 8, kind := 1, priv := true }
/-- The context with its root at the start of extent 8. -/
def walkCtx : Context := { aCtx with ptroot := 0x20000000 }
/-- Tables through the last entry of each level to a leaf. -/
def walkImage (leaf : Nat) : Memory :=
  Memory.putNat (Memory.putNat (Memory.putNat (Memory.putNat [] 0x20007FF8 8 (2 ^ 63 + 0x20010000)) 0x20010FF8 8 (2 ^ 63 + 0x20020000)) 0x20020FF8 8
    (2 ^ 63 + 0x20030000)) 0x20031FF8 8 leaf
/-- An operation of lane 0. -/
def anOp (kind : OpKind) (parts : List Part) : Op :=
  { id := 4, gid := 1, team := 2, ctx := 1, ctr := 0, kind := kind, parts := parts, counted := 1, point := 0, aux := 0 }
/-- A state in which an operation is outstanding. -/
def opState (o : Op) (tm : Team := aTeam) : State := { aState wGroup tm with ops := [o] }
/-- A load of the last word of the address space. -/
def tPart : Part := Part.new 0 (2 ^ 56 - 4) 4
/-- It, with tables to a leaf. -/
def walkState (leaf : Nat) : State :=
  { opState (anOp (.load 4 false 5) [tPart]) with
    ctxs := [walkCtx]
    extents := [anExtent, tableExtent, { anExtent with num := 5, ctx := 9 }]
    image := walkImage leaf }

theorem walks (leaf : Nat) (h : (walkState leaf).image.nat 0x20007FF8 8 = 2 ^ 63 + 0x20010000 ∧ (walkState leaf).image.nat 0x20010FF8 8 = 2 ^ 63 + 0x20020000 ∧
      (walkState leaf).image.nat 0x20020FF8 8 = 2 ^ 63 + 0x20030000 ∧ (walkState leaf).image.nat 0x20031FF8 8 = leaf ∧
      ∀ k < 32, (fun x => !(pteV x && pteLeaf x && ptePs x == 1)) ((walkState leaf).image.nat (0x20030000 + 8 * (992 + k)) 8) = true)
    (hl : pteV leaf = true ∧ pteLeaf leaf = true ∧ ptePs leaf = 0 ∧ leafEntryOk leaf (2 ^ 16) = true) : WalksTo (walkState leaf) 1 tPart.addr leaf := by
  obtain ⟨h3, h2, h1, h0, hb⟩ := h
  refine ⟨⟨walkCtx, by rfl, by rfl, by rfl, 2 ^ 63 + 0x20010000, 2 ^ 63 + 0x20020000, 2 ^ 63 + 0x20030000, h3.symm, by decide, by decide, by rfl, h2.symm, by decide,
    by decide, by rfl, h1.symm, by decide, by decide, by rfl, hb, h0.symm⟩, hl⟩

/-- A leaf that lets the page be read: extent 3. -/
def readLeaf : Nat := 2 ^ 63 + 0xC000240
/-- One in an extent that is not defined. -/
def strayLeaf : Nat := 2 ^ 63 + 0x10000240
/-- One in extent 5, which is another context's, and one in extent 3 that may not be read. -/
def otherLeaf : Nat := 2 ^ 63 + 0x14000240
def closedLeaf : Nat := 2 ^ 63 + 0xC000200
/-- One of host memory that may not be read. -/
def hostLeaf : Nat := 2 ^ 63 + 2 ^ 61 + 0x200

theorem test_meets_TranslationOfLoads :
    (∀ leaf ∈ [readLeaf, strayLeaf, otherLeaf, closedLeaf, hostLeaf], let s := walkState leaf
      s.op? 4 = some (anOp (.load 4 false 5) [tPart]) ∧ (anOp (.load 4 false 5) [tPart]).part? 0 = some tPart ∧ s.group? 1 = some wGroup ∧
      wGroup.place ≠ .saved ∧ wGroup.ended = false ∧ tPart.st = .issued ∧ tPart.addr < 2 ^ 56 ∧ s.tlb = [] ∧ s.ctxOfGroup wGroup = 1 ∧ tPart.len ≠ 0 ∧ tPart.lane < 32) ∧
    (WalksTo (walkState readLeaf) 1 tPart.addr readLeaf ∧ pteTgt readLeaf = 0 ∧ readLeaf.testBit 6 = true ∧
      (walkState readLeaf).extent? (extentOf (pteOa readLeaf + tPart.addr % 2 ^ 16)) = some anExtent ∧ anExtent.ctx = 1) ∧
    (WalksTo (walkState strayLeaf) 1 tPart.addr strayLeaf ∧ pteTgt strayLeaf = 0 ∧
      (walkState strayLeaf).extent? (extentOf (pteOa strayLeaf + tPart.addr % 2 ^ 16)) = none) ∧
    (WalksTo (walkState otherLeaf) 1 tPart.addr otherLeaf ∧ pteTgt otherLeaf = 0 ∧
      ((walkState otherLeaf).extent? (extentOf (pteOa otherLeaf + tPart.addr % 2 ^ 16))).map (·.ctx) = some 9) ∧
    (WalksTo (walkState closedLeaf) 1 tPart.addr closedLeaf ∧ pteTgt closedLeaf = 0 ∧ closedLeaf.testBit 6 = false ∧
      (walkState closedLeaf).extent? (extentOf (pteOa closedLeaf + tPart.addr % 2 ^ 16)) = some anExtent) ∧
    (WalksTo (walkState hostLeaf) 1 tPart.addr hostLeaf ∧ pteTgt hostLeaf = 1 ∧ hostLeaf.testBit 6 = false) ∧
    (let s := { walkState 0 with image := [] }
     s.ctx? 1 = some walkCtx ∧ s.tableOk 1 walkCtx.ptroot = true ∧ extentOf walkCtx.ptroot = extentOf (walkCtx.ptroot + 32767) ∧ pteV (s.image.nat (walkCtx.ptroot + 8 * (tPart.addr / 2 ^ 44 % 4096)) 8) = false) :=
  ⟨by decide, ⟨walks _ (by decide) (by decide), by decide, by decide, by decide, by decide⟩, ⟨walks _ (by decide) (by decide), by decide, by decide⟩,
   ⟨walks _ (by decide) (by decide), by decide, by decide⟩, ⟨walks _ (by decide) (by decide), by decide, by decide, by decide⟩,
   ⟨walks _ (by decide) (by decide), by decide, by decide⟩, by decide⟩

/-! ### Completion -/

/-- A translated place. -/
def atPhys (tgt addr : Nat) : Phys := { tgt := tgt, dev := 0, addr := addr, nl1 := true }
/-- A part that is translated. -/
def readyPart (addr len : Nat) (f : Phys) : Part := { Part.new 0 addr len with st := .ready f }

/-! What stands in the log and in L2. -/

/-- Extent 3 with a replica, of which no segment is full enough to keep. -/
def shipExtent : Extent := { anExtent with nrep := 1, thr := 100, pdev0 := 9 }
/-- A dirty line at the end of the extent. -/
def aDirty (pending : Bool) : Dirty := { line := 4 * 2 ^ 19 - 1, slot := 0, mark := 0xFFFFFFFF, pending := pending, tag := none }
/-- A summary record of that line. -/
def aRec (live : Bool) : SumRec := { crc := crc32c ([7, 7]), idx := 2 ^ 19 - 1, ext := 3, mark := 5, wslot := 0, tag := none, data := [7, 7], pending := false, live := live, point := 4 }
/-- A segment of it. -/
def aSegment (st : SegState) (shipped : List Nat) : Segment :=
  { num := 9, stack := 0, ext := 3, slot := 0, base := 0, size := 0, writer := 0, recs := [aRec true, aRec false], state := st, seq := 6, chisel := false, shipped := shipped }
/-- The leaf whose last entry points to data sector 0 of that segment. -/
def aLeaf : Leaf := { stack := 0, addr := 1, entries := [{ idx := 2 ^ 19 - 1, v := true, z := false, stack := 0, sector := 0, wslot := 0, mark := 5 }] }
/-- The root that points to that leaf. -/
def aRoot : Root := { ext := 3, cast := none, entries := [{ place := 511, stack := 0, leaf := 1 }] }
/-- A line of a slice. -/
def aLine (held : Version) : L2Line := { die := 0, slice := 0, line := 4 * 2 ^ 19 - 1, held := held }
/-- A segment with a copy of that line that fails its check: published, or pending under slot 0. -/
def badSegment (pending : Bool) : Segment := { aSegment .settled [] with recs := [{ aRec true with crc := 0, pending := pending }] }
/-- Its leaf, for a publication or the mark to come. -/
def markedLeaf (mark : Nat) : Leaf := { aLeaf with entries := aLeaf.entries.map fun x => { x with mark := BitVec.ofNat 18 mark } }
/-- Bytes that stand pending there. -/
def somePending : Pending := { slot := 0, tag := none, bytes := [(2 ^ 28 - 16, 1)] }

/-- The states of the line of a load: ready; to be filled, from a copy that passes its check and from one that does not; a pending version, likewise. -/
theorem test_meets_LoadsAndStoresComplete_fill :
    (let o := anOp (.load 16 false 4) [readyPart 0 16 (atPhys 0 (2 ^ 28 - 16))]
     let n := 4 * 2 ^ 19 - 1
     let s := opState o
     let bad : State := { s with segments := [badSegment false], leaves := [aLeaf], roots := [aRoot] }
     let p : State := { s with l2 := [aLine none], pending := [somePending] }
     let q : State := { p with segments := [badSegment true], leaves := [markedLeaf 1], roots := [aRoot] }
     lineOf (2 ^ 28 - 16) = n ∧ s.slotOf wGroup 0 = 0 ∧ ({ s with l2 := [aLine none] } : State).lineReady n 0 = true ∧
     (s.publishedReady n = false ∧ s.fails n none = false) ∧ (bad.publishedReady n = false ∧ bad.fails n none = true ∧ bad.peers = []) ∧
     (p.publishedReady n = true ∧ p.pendingReady n 0 = false ∧ p.fails n (some (0, none)) = false) ∧
     (q.publishedReady n = true ∧ q.pendingReady n 0 = false ∧ q.fails n (some (0, none)) = true ∧ q.teamOfSlot 0 = some aTeam ∧ q.team? 2 = some aTeam ∧
      GroupsOk q ∧ aTeam.state = .resident)) := by decide +kernel

/-- A load of 16 bytes and a load of a byte that is extended, a store of 16 bytes: at the end of extent 3, and of host memory. -/
theorem test_meets_LoadsAndStoresComplete :
    ∀ f ∈ [atPhys 0 (2 ^ 28 - 16), atPhys 1 (2 ^ 56 - 16)],
      (∀ x ∈ [(OpKind.load 16 false 4, 16), (.load 1 true 4, 1), (.store 16, 16)],
        let p := readyPart 0 x.2 f
        let o := anOp x.1 [p]
        CanPerform (opState o) o p wGroup ∧ MemoriesOk (opState o) ∧ lineOf f.addr ∉ (opState o).lost) := by
  simp only [List.forall_mem_cons]
  refine ⟨⟨?_, ?_, ?_, by simp⟩, ⟨?_, ?_, ?_, by simp⟩, by simp⟩
  all_goals exact ⟨⟨by decide, by decide, by decide, by decide, by decide, by decide, by decide, by decide, by decide⟩, ⟨by decide, by decide⟩, by decide⟩

/-- A team with the last granule of its window full. -/
def fullTeam : Team := { aTeam with full := [4095] }

/-- A bank command of three lanes, two of them on the last granule. -/
def bankParts : List Part := [Part.new 0 65520 8, { Part.new 0 65528 8 with lane := 1 }, { Part.new 0 16 8 with lane := 2 }]
def bankOp (fb : Nat) : Op := { anOp (.bank .smx fb) bankParts with counted := 7 }

theorem noFullWaits_bank {o : Op} {tm : Team} {op : BankOp} {fb : Nat} (h : o.kind = .bank op fb) : NoFullWaits (opState o tm) := by
  intro e he
  obtain rfl : e = o := List.mem_singleton.mp he
  simp [h]

/-- Accesses to the last bytes of the window, an LDF of a granule that is full, a STSF of one that is not. -/
theorem test_meets_ScratchpadCompletes :
    (∀ k ∈ [OpKind.lds 16 false 4, .lds 2 true 4, .sts 16, .sete, .ldf 16 true 4, .bank .smx 0],
      let p := Part.new 0 65520 16
      let o := anOp k [p]
      CanPerform (opState o fullTeam) o p wGroup ∧ p.isDone = false ∧ (opState o fullTeam).team? (wGroup.lane 0).team = some fullTeam ∧
      Memory.wf fullTeam.spad = true ∧ (opState o fullTeam).ops = [o] ∧ o.counted = laneMask [0] ∧ p.addr / 16 ∈ fullTeam.full) ∧
    (∀ fb ∈ [0, 1, 2], NoFullWaits (opState (bankOp fb) fullTeam) ∧ ((bankOp fb).parts.map (·.lane)).Nodup) ∧
    (∀ fb ∈ [0, 1, 2], CanPerform (opState (bankOp fb) fullTeam) (bankOp fb) (Part.new 0 65520 8) wGroup) ∧
    (∀ k ∈ [OpKind.lds 16 false 4, .sts 16, .sete, .bank .smx 0], NoFullWaits (opState (anOp k [Part.new 0 65520 16]) fullTeam)) ∧
    (let p := Part.new 0 0 16
     CanPerform (opState (anOp .stsf [p]) fullTeam) (anOp .stsf [p]) p wGroup ∧ p.addr / 16 ∉ fullTeam.full) := by
  refine ⟨?_, ?_, ?_, ?_, ⟨⟨by decide, by decide, by decide, by decide, by decide, by decide, by decide, by decide, by decide⟩, by decide⟩⟩
  · simp only [List.forall_mem_cons]
    refine ⟨?_, ?_, ?_, ?_, ?_, ?_, by simp⟩
    all_goals exact ⟨⟨by decide, by decide, by decide, by decide, by decide, by decide, by decide, by decide, by decide⟩, by decide⟩
  · intro fb _
    exact ⟨noFullWaits_bank rfl, by simp [bankOp, anOp, bankParts, Part.new]⟩
  · simp only [List.forall_mem_cons]
    refine ⟨?_, ?_, ?_, by simp⟩
    all_goals exact ⟨by decide, by decide, by decide, by decide, by decide, by decide, by decide, by decide, by decide⟩
  · intro k hk e he
    simp only [opState, anOp, List.mem_singleton] at he
    subst he
    refine ⟨?_, fun n c t => ?_⟩
    · revert k; simp
    · revert k; simp

/-- Two lanes of one team on one element of local memory, and of host memory; a fold of them too. -/
theorem test_meets_AtomicsPerform :
    ∀ f ∈ [atPhys 0 (2 ^ 28 - 8), atPhys 1 (2 ^ 56 - 8)],
      let ps : List Part := [{ readyPart 64 8 f with data := 3 }, { readyPart 64 8 f with lane := 1, data := 4 }]
      ∀ op ∈ [AtomOp.add, .fadd], let o := anOp (.atomic op 8 4) ps
      let s : State := { opState o with l2 := [aLine none] }
      s.op? 4 = some o ∧ s.group? 1 = some wGroup ∧ wGroup.place ≠ .saved ∧ ps ≠ [] ∧ (ps.map (·.lane)).Nodup ∧
      (∀ p ∈ ps, p.addr = 64 ∧ p.st = .ready f ∧ (wGroup.lane p.lane).team = 2 ∧ s.blocked o p = false ∧ p.data.toNat < 2 ^ 64 ∧ p.data2.toNat < 2 ^ 64) ∧
      Memory.wf s.image = true ∧ Memory.wf s.hostMem = true ∧ f.addr % 8 = 0 ∧ lineOf f.addr ∉ s.lost ∧
      (f.tgt = 0 → (s.extent? (extentOf f.addr)).isSome = true ∧ s.lineReady (lineOf f.addr) 0 = true) := by decide

/-! ## Ordering words, monitors, casts -/

/-- A stale line in the L1 of core 0. -/
def staleLine : L1Line := { core := 0, line := 5, bytes := [], stale := some (1, 0), writers := [] }
/-- A state with that line after one publication. -/
def staleState : State := { aState wGroup with l1 := [staleLine], pubs := 1 }

/-- With nothing outstanding, and with a load outstanding; with the L1 clean for the acquire, and with a line that one publication made stale. -/
theorem test_meets_OrderingWords :
    (AtAll (aState wGroup) wGroup wRun ∧ wRun.wait = .none ∧ (∀ u, Settled wGroup u)) ∧
    ((aState wGroup).lsDone 1 10 = true ∧ Ctx.acquired (ctxOf (aState wGroup) wGroup wRun none) 0 10 = true ∧
      ∀ p ∈ [0, 1, 5], (aState wGroup).pathDone 1 10 p = true) ∧
    (let s := opState (anOp (.load 4 false 5) [tPart])
     AtAll s wGroup wRun ∧ s.lsDone 1 10 = false ∧ Ctx.acquired (ctxOf s wGroup wRun none) 0 10 = false ∧ s.pathDone 1 10 0 = false) ∧
    (AtAll staleState wGroup wRun ∧ Ctx.acquired (ctxOf staleState wGroup wRun none) 1 10 = false ∧
      Ctx.acquired (ctxOf staleState wGroup wRun none) 0 10 = true) :=
  ⟨⟨atWord (by decide), rfl, quiet_settled (by decide)⟩, by decide, ⟨atWord (by decide), by decide, by decide, by decide⟩,
   ⟨atWord (by decide), by decide, by decide⟩⟩

/-- The run at a wait. -/
def waitRun (w : Wait) : Run := { wRun with wait := w }
/-- The group whose run waits. -/
def waitGroup (w : Wait) : Group := { wGroup with runs := [waitRun w] }

/-- Releases at TEAM and DEV, with and without an acquire, and one whose group has a load outstanding; an ACQR that names a resident team, and one that names
none. -/
theorem test_meets_ReleasesPublish :
    (∀ w ∈ [Wait.rel 1 true false 10 [2], .rel 4 false true 10 [2]], let g := waitGroup w
      (aState g).group? 1 = some g ∧ g.place ≠ .saved ∧ g.runs = [waitRun w] ∧ (waitRun w).lanes ≠ 0 ∧ g.report = none ∧
      (aState g).team? 2 = some aTeam ∧ (aState g).lsDone 1 10 = true) ∧
    (∀ scope ∈ [1, 4], (aState (waitGroup (.rel scope false false 10 [2]))).storesLanded aTeam.tid 10 scope = true) ∧
    (opState (anOp (.load 4 false 5) [tPart])).lsDone 1 10 = false ∧
    (let g := waitGroup (.acqr 0 0 0 9 10)
     (aState g).victim ((aState g).ctxOfGroup g) 0 0 0 = some aTeam ∧ (aState g).storesLanded aTeam.tid 10 0 = true ∧
     (aState g).victim ((aState g).ctxOfGroup g) 0 0 1 = none) := by decide

/-- The group with addresses of the last page: s30 its last word, s32 its last doubleword; s34 holds 0 and s36 1; s38 names cast 0 of extent 3, s40 none. -/
def pGroup : Group :=
  withRegs (aGroup [0]) [(30, 0xFFFFFFFFFFFFFC), (32, 0xFFFFFFFFFFFFF8), (36, 1), (38, 0x180001), (40, 0x180002)] []
/-- A leaf that lets the page be read and written. -/
def writeLeaf (ext : Nat) : Nat := 2 ^ 63 + ext * 2 ^ 26 + 0x2C0
/-- It, with an extent. -/
def pState (e : Extent) : State :=
  { aState pGroup with ctxs := [walkCtx], extents := [e, tableExtent], image := walkImage (writeLeaf e.num) }
/-- A cast. -/
def aCast : Cast := { idx := 0, gen := 1, image := [(0xC000000, 1)], lost := [] }

/-- The extents that SNAP can meet: with room, with 64 casts, and one that is not flexible; for the last, the table extent itself. -/
theorem test_meets_MonitorsAndCasts :
    (AtAll (pState anExtent) pGroup wRun ∧ wRun.wait = .none ∧ (∀ u, Settled pGroup u) ∧ pGroup.issueOf wRun 0 ≠ [] ∧ pGroup.issueOf wRun 1 = []) ∧
    (∀ x ∈ [(30, 4), (32, 8)], Canonical (pGroup.getS x.1).toNat x.2 ∧
      (∃ f s', (pState anExtent).translate (.core pGroup.core) ((pState anExtent).ctxOfGroup pGroup) (pGroup.getS x.1).toNat { rd := true } 10 = (.ok f, s') ∧
        f.tgt = 0 ∧ lineOf f.addr ∉ s'.lost ∧ s'.image.nat f.addr x.2 = 0 ∧ s'.publishedReady (lineOf f.addr) = false ∧
        ({ s' with l2 := [{ aLine none with line := lineOf f.addr }] } : State).publishedReady (lineOf f.addr) = true)) ∧
    ((pState anExtent).readFollows 1 (laneMask (pGroup.issueOf wRun 0)) (pGroup.getS 30).toNat 4 10 false = false ∧
      ({ pState anExtent with ops := [anOp (.load 4 false 5) [Part.new 0 0xFFFFFFFFFFFFFC 4]] } : State).readFollows 1 (laneMask (pGroup.issueOf wRun 0))
        (pGroup.getS 30).toNat 4 10 false = true) ∧
    (monitorCond 0 4 0 ((pGroup.getS 34).toNat % 2 ^ 32) = true ∧ monitorCond 0 4 0 ((pGroup.getS 36).toNat % 2 ^ 32) = false) ∧
    (∀ e ∈ [anExtent, { anExtent with casts := List.replicate 64 aCast }, { anExtent with kind := 1 }],
      (pState e).lsDone 1 10 = true ∧
      ∃ f s', (pState e).translate (.core pGroup.core) ((pState e).ctxOfGroup pGroup) (pGroup.getS 30).toNat { w := true, names := true } 10 = (.ok f, s') ∧
        f.tgt = 0 ∧ s'.extent? (extentOf f.addr) = some e) ∧
    (let s := pState { anExtent with casts := [aCast] }
     s.validCast (s.ctxOfGroup pGroup) (field (pGroup.getS 38).toNat 0 32) = some ({ anExtent with casts := [aCast] }, aCast) ∧
     s.validCast (s.ctxOfGroup pGroup) (field (pGroup.getS 40).toNat 0 32) = none ∧ Memory.wf aCast.image = true ∧
     ∀ x ∈ aCast.image, extentOf x.1 = 3) := by
  refine ⟨⟨atWord (by decide), rfl, quiet_settled (by decide), by decide, by decide⟩, ?_, by decide, by decide, ?_, by decide⟩
  · simp only [List.forall_mem_cons]
    refine ⟨⟨by decide, ?_⟩, ⟨by decide, ?_⟩, by simp⟩
    all_goals exact ⟨_, _, rfl, by decide, by decide, by decide, by decide, by decide⟩
  · simp only [List.forall_mem_cons]
    refine ⟨⟨by decide, ?_⟩, ⟨by decide, ?_⟩, ⟨by decide, ?_⟩, by simp⟩
    all_goals exact ⟨_, _, rfl, by decide, by decide⟩

/-! ## Barriers, regroup, the pool -/

/-- A team with a barrier that waits for 33 lanes, one for 32, one that is broken, and one whose phase has gone on. -/
def bTeam : Team :=
  { aTeam with barriers :=
      [{ broken := false, mode := .fixed, exp := 33, ph := 0, cnt := 33, members := [], arrived := [], groups := [] },
       { broken := false, mode := .all, exp := 0, ph := 0, cnt := 32, members := [], arrived := [], groups := [] },
       { broken := true, mode := .fixed, exp := 32, ph := 0, cnt := 32, members := [], arrived := [], groups := [] },
       { broken := false, mode := .byte, exp := 0, ph := 7, cnt := 32, members := [], arrived := [], groups := [1] }] }

/-- A count of 512 and of 513; a token that is the phase, one that is not, a broken barrier; arrivals of fewer lanes than a barrier waits for, and of as
many. -/
theorem test_meets_BarrierWordsAndArrivals :
    (AtAll (aState wGroup bTeam) wGroup wRun ∧ wGroup.runs = [wRun] ∧ (∀ u, Settled wGroup u) ∧ wGroup.tags = [2] ∧ wGroup.ended = false) ∧
    (∀ n < 4, ((aState wGroup bTeam).barrier? 2 n).isSome = true) ∧
    (∃ tid ∈ wGroup.tags, (aState wGroup bTeam).barrier? tid (field (wGroup.getS 4).toNat 0 16) = none) ∧ (512 ≤ 512 ∧ 512 < 513) ∧
    (wGroup.issueOf wRun 0 ≠ [] ∧ wGroup.issueOf wRun 1 = []) ∧
    (((aState wGroup bTeam).barrier? 2 0).map (·.ph) = some 0 ∧ field (wGroup.vr 0 20).toNat 0 16 = 0 ∧
      ((aState wGroup bTeam).barrier? 2 3).map (·.ph) = some 7 ∧ ((aState wGroup bTeam).barrier? 2 2).map (·.broken) = some true) ∧
    (∀ x ∈ [(0, 33), (1, 32)], ∀ thenWait ∈ [false, true], let g := waitGroup (.arrive x.1 20 0 thenWait 10)
      let r := waitRun (.arrive x.1 20 0 thenWait 10)
      (aState g bTeam).group? 1 = some g ∧ (aState g bTeam).arrivalDue g = some r ∧ g.runs = [r] ∧ g.report = none ∧ g.splitOf r ≠ [] ∧
      r.lanes = laneMask (g.splitOf r) ∧ (∀ l ∈ g.splitOf r, (g.lane l).team = 2) ∧
      ((aState g bTeam).barrier? 2 x.1).map (fun b => (b.broken, b.cnt, decide (b.mode ≠ .byte))) = some (false, x.2, true) ∧
      (g.splitOf r).length = 32) :=
  ⟨⟨atWord (by decide), rfl, quiet_settled (by decide), by decide, rfl⟩, by decide, by decide, by decide, by decide, by decide, by decide⟩

/-- An allotment of 60 registers. -/
def sixty : Group := { aGroup [0] with alloc := 60 }

/-- RGIVE and RCLAIM of the allotment itself; RGIVE of less with a counter that is not zero, and with all zero; RCLAIM that the reserve just covers, and just
does not. -/
theorem test_meets_RegroupAndPoolWords :
    (∀ g ∈ [wGroup, aGroup [0]], AtAll (aState g) g wRun ∧ (∀ u, Settled g u) ∧ g.splitOf wRun ≠ [] ∧ ((aState g).groups.map (·.gid)).Nodup ∧
      g.alloc ≤ 4 * 16 ∧ 4 * 15 < g.alloc ∧ (aState g).claims g.owner = []) ∧
    (∃ x ∈ wGroup.lanes, ∃ k < 4, x.counter k ≠ 0) ∧ (∀ x ∈ (aGroup [0]).lanes, ∀ k < 4, x.counter k = 0) ∧
    (∀ h ∈ (aState wGroup).groups, h.regrp? = none) ∧
    (AtAll (aState sixty) sixty wRun ∧ sixty.alloc < 4 * 16 ∧ (aState sixty).team? sixty.owner = some aTeam ∧
      (4 * 16 - sixty.alloc) / 4 = (aState sixty).reserve aTeam) ∧
    (let tm := { aTeam with budget := 15 }
     AtAll (aState sixty tm) sixty wRun ∧ (aState sixty tm).reserve tm < (4 * 16 - sixty.alloc) / 4) := by
  refine ⟨?_, ⟨wGroup.lane 0, by decide, 3, by decide, by decide⟩, by decide, by decide, ⟨atWord (by decide), by decide, by decide, by decide⟩,
    atWord (by decide), by decide⟩
  simp only [List.forall_mem_cons]
  refine ⟨?_, ?_, by simp⟩
  all_goals exact ⟨atWord (by decide), quiet_settled (by decide), by decide, by decide, by decide, by decide, by decide⟩

/-- A group that has arrived at REGRP.TEAM alone. -/
def rGroup : Group := { aGroup [0] with runs := [waitRun (.regrp false 1 [(0, 3)] [1])] }
/-- A group that waits for four registers that the reserve does not have. -/
def claimGroup : Group := { sixty with runs := [waitRun (.claim 64 33 5)] }

theorem test_meets_RelocationKeepsLanes :
    ((aState rGroup).group? 1 = some rGroup ∧ rGroup.regrp? = some (false, 1, [(0, 3)], [1]) ∧ ((aState rGroup).groups.map (·.gid)).Nodup ∧
      (∀ h ∈ (aState rGroup).remaining [1], h.report = none ∧ h.isResident = true ∧ h.regrp?.map (·.2.2.2) = some [1] ∧ h.regrp?.map (·.1) = some false ∧
        h.alloc = rGroup.alloc ∧ h.lanes.length = 32 ∧ ∀ x ∈ h.lanes, ∀ k < 4, x.counter k = 0) ∧ (aState rGroup).remaining [1] ≠ []) ∧
    (let tm := { aTeam with budget := 15 }
     let s := aState claimGroup tm
     s.team? 2 = some tm ∧ s.claimStuck tm = true ∧ s.claims 2 = [(1, 64, 33, 5)] ∧ s.group? 1 = some claimGroup ∧ claimGroup.s.length = 64 ∧
     claimGroup.report = none ∧ (s.groups.map (·.gid)).Nodup ∧ s.ctxOfTeam tm = 1) := ⟨⟨by decide, by decide, by decide, by decide, by decide⟩, by decide⟩

/-! ## Control flow, traps, clauses -/

/-- The group with a call stack of some depth, and a target in v20. -/
def stackGroup (n : Nat) (target : Word) : Group :=
  { aGroup [0] with lanes := (aGroup [0]).lanes.map fun x => { x.putV 20 target with stack := List.replicate n 0x40 } }

/-- Call stacks of 15 and of 16 entries, and none; targets that are aligned and that are not. -/
theorem test_meets_ControlFlow :
    (∀ n ∈ [0, 15, 16], ∀ a ∈ [(0x1000 : Word), 0x1002], let g := stackGroup n a
      AtAll (aState g) g wRun ∧ (∀ u, Settled g u) ∧ Apart g wRun ∧ Last wRun ∧ g.runs = [wRun] ∧ g.issueOf wRun 0 ≠ [] ∧ g.ended = false ∧ wRun.lanes ≠ 0) ∧
    ((∀ l ∈ (stackGroup 15 0x1000).issueOf wRun 0, ((stackGroup 15 0x1000).lane l).stack.length < 16 ∧ ((stackGroup 15 0x1000).lane l).stack ≠ [] ∧
        ((stackGroup 15 0x1000).vr64 l 20).toNat % 4 = 0) ∧
      16 ≤ ((stackGroup 16 0x1000).lane 0).stack.length ∧ (∀ l ∈ (stackGroup 16 0x1000).issueOf wRun 0, ((stackGroup 16 0x1000).vr64 l 20).toNat % 4 = 0) ∧
      ((stackGroup 0 0x1002).lane 0).stack = [] ∧ ((stackGroup 0 0x1002).vr64 0 20).toNat % 4 ≠ 0) ∧
    (let g := (stackGroup 15 0x1000).modLane 3 fun x => { x with stack := [] }
     AtAll (aState g) g wRun ∧ g.runs = [wRun] ∧ Last wRun ∧ (g.lane 3).stack = [] ∧ (g.lane 4).stack ≠ []) := by
  refine ⟨?_, by decide, ⟨atWord (by decide), by decide, ⟨by decide, rfl⟩, by decide, by decide⟩⟩
  simp only [List.forall_mem_cons]
  refine ⟨⟨?_, ?_, by simp⟩, ⟨?_, ?_, by simp⟩, ⟨?_, ?_, by simp⟩, by simp⟩
  all_goals exact ⟨atWord (by decide), quiet_settled (by decide), by decide, by decide, rfl, by decide, rfl, by decide⟩

/-- A state whose launch has a trap handler, and whose context is armed or not. -/
def trapState (n : Nat) (handler : DWord) (armed : Bool) : State :=
  { aState (stackGroup n 0) with
    launches := [{ aLaunch with trap := handler }]
    ctxs := [{ aCtx with armed := armed }] }

theorem test_meets_Traps :
    (∀ x ∈ [(15, (0 : DWord), false), (15, 0x8000, false), (16, 0x8000, false), (15, 0x8000, true)], let s := trapState x.1 x.2.1 x.2.2
      let g := stackGroup x.1 0
      AtAll s g wRun ∧ g.ended = false ∧ g.issueOf wRun 0 = List.range 32 ∧ g.issueOf wRun 1 = [] ∧ s.handlerOf g = x.2.1 ∧
      ((s.ctx? (s.ctxOfGroup g)).map (·.armed)).getD false = x.2.2 ∧ ∀ l ∈ g.issueOf wRun 0, (g.lane l).stack.length = x.1) := by
  simp only [List.forall_mem_cons]
  refine ⟨?_, ?_, ?_, ?_, by simp⟩
  all_goals exact ⟨atWord (by decide), by decide⟩

/-! ### Clauses -/

/-- A leaf from which code is fetched, in extent 3. -/
def codeLeaf (page : Nat) : Nat := 2 ^ 63 + 0xC000300 + page * 0x10000
/-- Tables to the last three pages of the address space, and two clauses of one word each, which stand across the boundaries of these pages: each walk of
a fetch is then the first for its page. -/
def codeImage (h w h' w' : Nat) : Memory :=
  Memory.putNat (Memory.putNat (Memory.putNat (Memory.putNat (Memory.putNat (Memory.putNat (walkImage (codeLeaf 0)) 0x20031FF0 8 (codeLeaf 1)) 0x20031FE8 8
    (codeLeaf 2)) 0xC01FFFC 4 h) 0xC000000 4 w) 0xC02FFFC 4 h') 0xC010000 4 w'
/-- The virtual addresses of the two clauses. -/
def codeVa : Nat := 0xFFFFFFFFFEFFFC
def codeVa' : Nat := 0xFFFFFFFFFDFFFC
/-- A group in no clause of whose lanes only 0 and 1 have not exited, at two places of the code. -/
def codeGroup (a b : Nat) : Group :=
  { aGroup [] with
    runs := []
    lanes := (aGroup []).lanes.zipIdx.map fun (x, i) => { x with exited := decide (2 ≤ i), vpc := BitVec.ofNat 64 (if i = 0 then a else b), sb := [0, 0, 0, 1] } }
/-- A state over the code: the first clause as given, the second one of GRED.ADD, which is collective. -/
def codeState (h w : Nat) (gs : List Group) : State :=
  { aState wGroup with groups := gs, ctxs := [walkCtx], extents := [anExtent, tableExtent], image := codeImage h w 0x10000000 0xA4000000 }

/-- A group the lanes of whose issue have parted, at a word that joins and at a scalar word that the other part has executed. -/
theorem test_meets_Clauses_parted :
    (let r := { wRun with lanes := 1 }
     let g := { wGroup with runs := [r, { wRun with lanes := 0xFFFFFFFE, wait := .ldf 4 }] }
     (aState g).group? 1 = some g ∧ (aState g).current? g = some r ∧ shareOf (.vany { g := 0, d := 1, a := 1, stall := 0 }) = .joined ∧ r.wait = .none ∧
     g.parted r = true) ∧
    (let r := { wRun with lanes := 1, ran := [0] }
     let g := { wGroup with runs := [r, { wRun with lanes := 0xFFFFFFFE, pos := 1 }] }
     (aState g).group? 1 = some g ∧ (aState g).current? g = some r ∧ shareOf (.sadd { d := 4, a := 5, b := 6, stall := 0 }) = .first ∧
     r.ran.contains r.pos = true ∧ g.report = none ∧ quiet g = true) := by decide

/-- A clause of the FADD of 05, which issues; one of an LD.W in class ALU, which fails the check of its class; one with N = 0. -/
theorem test_meets_Clauses_issue :
    (∀ x ∈ [(0x10000000, 0x601240C3, none), (0x10000000, 0xAC1820C9, some 0x03)], let g := codeGroup codeVa codeVa
      let s := codeState x.1 x.2.1 [g]
      s.group? 1 = some g ∧ s.mayIssue g = true ∧ s.issueLanes g = some (codeVa, [0, 1]) ∧ g.ended = false ∧
      ∃ hdr ws s', s.fetchClause g 32 codeVa = (.ok hdr ws, s') ∧ clauseFault (s'.checkFor g hdr) hdr ws = x.2.2) ∧
    (let g := codeGroup codeVa codeVa
     let s := codeState 1 0x601240C3 [g]
     s.issueLanes g = some (codeVa, [0, 1]) ∧
      ∃ hdr ws s', s.fetchClause g 32 codeVa = (.ok hdr ws, s') ∧ field hdr 28 4 = 0) := by
  simp only [List.forall_mem_cons]
  refine ⟨⟨?_, ?_, by simp⟩, ⟨by decide +kernel, ⟨_, _, _, rfl, by decide +kernel⟩⟩⟩
  all_goals exact ⟨by decide +kernel, by decide +kernel, by decide +kernel, by decide +kernel, ⟨_, _, _, rfl, by decide +kernel⟩⟩

/-- A group all of whose lanes are parked at collective clauses, and one that is not; a member of a gang that can never issue its word, and none. -/
theorem test_meets_Clauses_stuck :
    (let g := codeGroup codeVa codeVa'
     let s := codeState 0x10000000 0xA4000000 [g]
     s.group? 1 = some g ∧ g.isResident = true ∧ g.ended = false ∧ s.collectivelyStuck g = true) ∧
    (let g := codeGroup codeVa codeVa
     let s := codeState 0x10000000 0x601240C3 [g]
     s.collectivelyStuck g = false ∧ s.setBroken 1 = false) ∧
    (let g := { wGroup with gang := BitVec.ofNat 64 (1 * 2 ^ 6 + 2 * 2 ^ 36) }
     let s := { opState (anOp (.mma false 16 0 1) [Part.new 0 16 4]) with groups := [g] }
     s.setBroken 1 = true) := by decide +kernel

/-- A group that could issue and eight that wait: the first clause waits for sb3, or it does not. -/
def pendingGroup : Group := { codeGroup codeVa' codeVa' with active := false }
def waiting8 : List Group := (List.range 8).map fun i => { codeGroup codeVa codeVa with gid := 11 + i, place := .resident 0 (i + 1) }

theorem test_meets_Clauses_active :
    (let s := codeState 0x11000000 0x601240C3 [pendingGroup]
     s.nextPending 0 = some pendingGroup ∧ s.group? 1 = some pendingGroup ∧ ((s.groupsOn 0).filter (·.active)).length < 8) ∧
    (let s := codeState 0x11000000 0x601240C3 (pendingGroup :: waiting8)
     s.nextPending 0 = some pendingGroup ∧ 8 ≤ ((s.groupsOn 0).filter (·.active)).length ∧ s.idleActive 0 = waiting8.head? ∧
     (waiting8.head?.map (·.gid)) = some 11 ∧ s.group? 11 = waiting8.head?) := by decide +kernel

/-! ### Ends of groups, saving -/

/-- A group whose lanes have all exited. -/
def goneGroup (ended : Bool) : Group :=
  { aGroup [0] with lanes := (aGroup [0]).lanes.map fun x => { x with exited := true }, ended := ended, runs := [] }
/-- Another group of its team. -/
def otherGroup : Group := { aGroup [0] with gid := 7, place := .resident 0 1 }

/-- A group that ends beside another of its team; a team of which nothing is left, before and after its release. -/
theorem test_meets_GroupsEndAndSave :
    (let g := goneGroup false
     let s := { aState g with groups := [g, otherGroup] }
     s.group? 1 = some g ∧ (s.groups.map (·.gid)).Nodup ∧ (s.teams.map (·.tid)).Nodup ∧ g.over = true ∧
      ∀ tm ∈ s.teams, ∃ h ∈ s.groups, h.gid ≠ g.gid ∧ h.owner = tm.tid ∧ h.ended = false) ∧
    (∀ released ∈ [false, true], let g := goneGroup true
      let tm := { aTeam with released := released }
      let s := aState g tm
      s.team? 2 = some tm ∧ g.owner = 2 ∧ (∀ x ∈ g.lanes, x.team = 2) ∧ g.ended = true ∧ s.canRetire tm = true ∧ (∀ x ∈ s.awaiting, x.team ≠ 2)) ∧
    ((aState (goneGroup true)).launch? 0 = some { aLaunch with placed := 0 } ∧ aLaunch.placed < aLaunch.g) ∧
    (∀ leaving ∈ [true, false], let tm := { aTeam with leaving := leaving }
      let g := { aGroup [0] with runs := [] }
      (aState g tm).team? 2 = some tm ∧ ((aState g tm).groups.map (·.gid)).Nodup ∧ (aState g tm).saveReady tm = leaving) ∧
    (let tm := { aTeam with leaving := true }
     let s := aState (goneGroup true) tm
     s.saveReady tm = true ∧ s.shadowFits tm.core (s.teamBytes tm) = true ∧ (s.makeShadow tm.core (s.teamBytes tm)).shadowFits tm.core (s.teamBytes tm) = true) ∧
    (let c := { aCtx with saved := true, savex := 3, saven := 1 }
     ({ aState (goneGroup true) { aTeam with state := .saved } with ctxs := [c] } : State).areaFits c = true ∧ (aState wGroup).areaFits aCtx = false) ∧
    (aState wGroup).shadowFits 0 (96 * 2 ^ 20 + 1) = false ∧
    (∀ st ∈ [TeamState.resident, .saved], ∀ c ∈ [aCtx, { aCtx with saved := true }], let s := { aState wGroup { aTeam with state := st } with ctxs := [c] }
      s.ctx? 1 = some c ∧ s.ctxOfTeam { aTeam with state := st } = 1 ∧ Memory.wf s.image = true ∧ Memory.wf s.hostMem = true) ∧
    ((aState wGroup).ctx? 1 = some aCtx ∧ (aState wGroup).part? aCtx.pnum = some aPart ∧ (aState wGroup).vacations = []) := by
  refine ⟨?_, by decide, by decide, by decide +kernel, by decide +kernel, by decide +kernel, by decide, by decide, by decide⟩
  refine ⟨by decide, by decide, by decide, by decide, ?_⟩
  intro tm h
  refine ⟨otherGroup, by decide, by decide, ?_, by decide⟩
  simp only [aState, List.mem_singleton] at h
  subst h
  rfl

/-! ### Caches, shootdowns, monitors, segments -/

/-- A whole image that it lacks. -/
def aBehind : Behind := { ext := 3, ship := 8, image := [(0xC000000, 7)], tags := [], first := false }
/-- The replica. -/
def aPeer : Peer := { ctx := 1, which := 0, dev := 9, caught := false, valid := [], image := [(0xFFFFFF, 1), (0xC000000, 2)], tags := [],
                      behind := [aBehind] }
/-- A publication that is on its way to it. -/
def aShip (left : List Nat) : Ship :=
  { id := 7, ctx := 1, which := 0, slot := 0, mark := 5, step := true, bytes := [(0xC000000, 3)], point := 4, left := left }
/-- What stood before it: no copy. -/
def aPred : Predecessor := { ext := 3, entry := LeafEntry.blank (2 ^ 19 - 1) }
/-- A core that ramps, with so many cycles done. -/
def aCore (ramp cycles : Nat) : CoreState := { rank := 0, banks := 30, kslots := [], table := [], pointer := 0, step := 0, ramp := ramp, rampCycles := cycles }
/-- An entry of the write-combining buffer with bytes at the end of a line of extent 3. -/
def anEntry (drained : Bool) : WcbEntry where
  id := 6
  core := 0
  line := 0xC00007F / 128
  slot := 0
  bytes := [(0xC00006F, 7), (0xC00007F, 9)]
  merged := 0
  drained := drained
  ctx := 1
  vaddrs := []
/-- A shootdown of a page. -/
def aShoot (reached : List Translator) : Shoot :=
  { id := 8, queue := 4, slot := 0, ctx := 1, base := 0x10000, len := 0x10000, reached := reached, ops := [] }
/-- A queue. -/
def aQueue (running : List Command) : Queue := { num := 4, ctx := 1, latency := false, ring := 0x8000, n := 4, head := 15, tail := 1, running := running }
/-- A command. -/
def aCommand : Command := { slot := 0, op := 0x30, tag := 0xFFFFFFFF, irq := true }
/-- A monitor of the group. -/
def aMonitor (reported : Bool) : Monitor :=
  { id := 9, gid := some 1, queue := 0, slot := 0, ctx := 1, addr := 0xC000000, vaddr := 0x1FFFC, size := 4, op := 0, value := 1, since := 0, reported := reported }

theorem test_meets_CacheEventsAndShootdowns :
    (∀ d ∈ [false, true], let e := anEntry d
      let s := { aState wGroup with wcb := [e] }
      s.wcb.find? (fun x => x.id == 6) = some e ∧ e.drained = d ∧ e.bytes ≠ [] ∧ Overlay.wf e.bytes = true ∧
      ∀ x ∈ s.wcb, x.line = e.line → x.slot = e.slot → 6 ≤ x.id) ∧
    (let n := 0xC000000 / 128
     (aState wGroup).failsCheck n = false ∧ (aState wGroup).failingTeam n = none ∧ (aState wGroup).pendingTeam n = none ∧
     (aState wGroup).repairs n = false ∧ (aState wGroup).hasCopy n = false ∧ wGroup.ended = false ∧
     ({ aState wGroup with image := [(0xC000000, 1)] } : State).hasCopy n = true ∧
     (let s := { aState wGroup with pending := [{ slot := 0, tag := none, bytes := [(0xC000000, 1)] }] }
      s.pendingTeam n = some aTeam ∧ s.hasCopy n = false ∧ s.team? 2 = some aTeam ∧ GroupsOk s ∧ aTeam.state = .resident)) ∧
    (let s := { aState wGroup with extents := [shipExtent], segments := [aSegment .settled []], leaves := [aLeaf], roots := [aRoot], image := [(0xFFFFFFF, 1)] }
     let bad : State := { s with segments := [badSegment false] }
     let n := 4 * 2 ^ 19 - 1
     s.failsCheck n = false ∧ bad.failsCheck n = true ∧ (bad.indexed n).isSome = true ∧ bad.repairs n = false ∧ bad.hasCopy n = true ∧
     (let q : State := { s with segments := [badSegment true], leaves := [markedLeaf 1], preds := [aPred] }
      q.failsCheck n = false ∧ q.failingTeam n = some aTeam ∧ q.team? 2 = some aTeam ∧ GroupsOk q) ∧
     (let tag := (0, 5#32)
      let p : State := { bad with peers := [{ aPeer with tags := [(n, tag)], image := [(0xFFFFFFF, 1)] }] }
      p.tagOf n = some tag ∧ p.repairs n = !Config.freeBit p.serial n 45)) ∧
    (∀ w ∈ [Translator.core 0, .sequencer 7], let h := aShoot [.core 0]
      let s := { aState wGroup with shoots := [h], monitors := [aMonitor false] }
      s.shoots.find? (fun x => x.id == 8) = some h ∧ (w ∈ h.reached ∨ w ∉ h.reached)) ∧
    (let s := { aState wGroup with shoots := [aShoot []], queues := [aQueue [aCommand]], cores := [aCore 0 0] }
     s.shoots.find? (fun x => x.id == 8) = some (aShoot []) ∧ s.queue? 4 = some (aQueue [aCommand]) ∧ aCommand.slot = (aShoot []).slot ∧ s.monitors = [] ∧
     s.shootDone (aShoot []) = false ∧ s.shootDone (aShoot s.translators) = true) ∧
    (∀ x ∈ [(false, 15), (false, 16), (true, 16)], let g := waitGroup (.monitor 9 34)
      let s := { aState g with monitors := [aMonitor x.1], tick := x.2 }
      s.monitor? 9 = some (aMonitor x.1) ∧ s.group? 1 = some g ∧ s.ctx? (s.ctxOfGroup g) = some aCtx ∧ s.part? aCtx.pnum = some aPart ∧
      g.runs = [waitRun (.monitor 9 34)] ∧ 0 + 2 ^ aPart.lwn = 16) :=
  ⟨by decide, by decide, ⟨by decide +kernel, by decide +kernel, by decide +kernel, by decide +kernel, by decide +kernel, by decide +kernel,
    ⟨by decide +kernel, by rfl⟩⟩,
   by decide, by decide, by decide⟩

/-! ### The log, replication -/

/-- A state with segments, a peer and publications on their way. -/
def logState (d : List Dirty) (gs : List Segment) (h : List Ship) : State :=
  { aState wGroup with extents := [shipExtent], dirty := d, segments := gs, peers := [aPeer], ships := h, seals := [(0, 6)], leaves := [aLeaf] }

theorem test_meets_LogAndReplication :
    (∀ b ∈ [false, true], let d := aDirty b
      let s := logState [d] [aSegment .opened []] []
      s.dirty.find? (fun x => x.line == d.line && x.slot == d.slot) = some d ∧ s.indexed d.line = some shipExtent ∧ s.appendBlocked d = false ∧ s.pinned d.line = false ∧
      ({ s with pins := [{ team := 2, res := 0, line := d.line, off := 0, len := 32 }] } : State).pinned d.line = true) ∧
    (∀ x ∈ [(SegState.settled, true), (.sealed, false)], let g := aSegment x.1 []
      let s := logState [] [g] []
      s.segments.find? (fun x => x.num == 9) = some g ∧ (∀ x ∈ s.segments, x.num < s.fresh) ∧ (s.segments.map (·.num)).Nodup ∧ s.eligible g = x.2 ∧
      (∀ r ∈ g.recs, r.crc = (aRec true).crc ∧ r.data = (aRec true).data) ∧ g.recs[0]? = some (aRec true) ∧ s.recLive g 0 (aRec true) = true) ∧
    (aRec true).intact = true ∧
    (∀ x ∈ [(SegState.sealed, []), (.settled, [0]), (.settled, [])], let g := aSegment x.1 x.2
      let s := logState [] [g] [aShip [4 * 2 ^ 19 - 1]]
      s.segments.find? (fun x => x.num == 9) = some g ∧ s.extent? 3 = some shipExtent ∧ s.peer? 1 0 = some aPeer ∧ shipExtent.shipsTo aPeer = true ∧
      (s.flow 9).unreachable = false ∧ s.ships[0]? = some (aShip [4 * 2 ^ 19 - 1]) ∧
      ∀ y ∈ s.segments, y.slot = g.slot → y.stack = g.stack → y.state ≠ .opened → y.seq < g.seq → y.chisel = true ∨ 0 ∈ y.shipped) ∧
    (∀ left ∈ [[], [4 * 2 ^ 19 - 1]], let s := logState [] [] [aShip left]
      s.ships.find? (fun x => x.id == 7) = some (aShip left) ∧ s.peer? 1 0 = some aPeer ∧ aPeer.dev ≠ s.conf.devid ∧
      (∀ x ∈ s.ships, x.ctx = 1 → x.which = 0 → x.slot = 0 → x = aShip left) ∧ (∀ b ∈ aPeer.behind, 7 ≤ b.ship) ∧ (s.flow 9).unreachable = false) ∧
    (let s := logState [] [] []
     s.extent? 3 = some shipExtent ∧ s.peer? 1 0 = some aPeer ∧ shipExtent.shipsTo aPeer = true ∧ aPeer.dev ≠ s.conf.devid ∧
     aPeer.behind.find? (fun b => b.ext == 3) = some aBehind ∧ Memory.wf aPeer.image = true ∧
     Memory.wf aBehind.image = true ∧ ∀ c ∈ aBehind.image, extentOf c.1 = 3) ∧
    (let s : State := { aState wGroup with extents := [anExtent, { anExtent with num := 4, kind := 3 }] }
     Memory.wf s.image = true ∧ (s.extent? (extentOf (2 ^ 28))).map (·.kind) = some 3 ∧ (s.extent? (extentOf (2 ^ 28 - 1))).map (·.kind) = some 0) :=
  ⟨by decide +kernel, by decide +kernel, by decide +kernel, by decide +kernel, by decide +kernel, by decide +kernel, by decide⟩

/-! ### Copies -/

/-- Bytes that have been read, for an end of host memory, of extent 3, or of the window. -/
def landPart (d : Option Phys) (a2 : Nat) : Part := { Part.new 0 0x4000 16 with addr2 := a2, dst := d, st := .done 0x112233445566778899AABBCCDDEEFF01 }
/-- A part that has landed. -/
def landed (lane : Nat) (d : Option Phys) : Part := { Part.new lane 0x4000 16 0xFF with dst := d, st := .completed }
/-- A team with a byte barrier, and one with a barrier of another mode. -/
def byteTeam (m : BarMode) (cnt : Nat) : Team :=
  { aTeam with barriers := [{ broken := false, mode := m, exp := 16, ph := 65535, cnt := cnt, members := [], arrived := [], groups := [] }] }
/-- A copy of the crew with some part. -/
def copyOp (done : CopyDone) (parts : List Part) (aux : Nat) : Op := { anOp (.copy true false done) parts with aux := aux }

theorem test_meets_CopiesComplete_land :
    (∀ d ∈ [some (atPhys 1 0xFFF8), some (atPhys 0 0xFFFFFF8), none], let p := landPart d 65520
      let o := copyOp .none [p] 0
      let s := opState o
      s.op? 4 = some o ∧ s.group? 1 = some wGroup ∧ wGroup.place ≠ .saved ∧ (Memory.wf s.image = true ∧ Memory.wf s.hostMem = true) ∧
      o.part? 0 = some p ∧ p.data2 = 0 ∧ s.landDue o p = true ∧ p.dst = d ∧ s.team? (wGroup.lane 0).team = some aTeam ∧ Memory.wf aTeam.spad = true ∧
      (s.extent? (extentOf 0xFFFFFF8)).isSome = true) ∧
    (∀ x ∈ [(BarMode.byte, 15), (.byte, 16), (.byte, 17), (.all, 16)], let p := landPart none 0
      let o := copyOp (.barrier 0) [p] 0
      let s := opState o (byteTeam x.1 x.2)
      s.landDue o p = true ∧ (s.barrier? (wGroup.lane 0).team 0).map (fun b => (b.broken, b.mode, b.cnt)) = some (false, x.1, x.2)) :=
  ⟨by decide, by decide⟩

theorem test_meets_CopiesComplete_end :
    (let o := copyOp .none [landPart none 0] 0
     (opState o).op? 4 = some o ∧ o.kind.isCopy = true ∧ o.landedAll = false) ∧
    (let o := copyOp .none [landed 0 (some (atPhys 0 0xFFFFFF0)), landed 1 (some (atPhys 0 0xFFFFFE0))] 0
     let s : State := { opState o with pending := [{ slot := 0, tag := none, bytes := [(0xFFFFFF0, 8)] }] }
     s.op? 4 = some o ∧ o.landedAll = true ∧ (∀ p ∈ o.parts, p.dst.isSome = true → s.copySlot o p.lane = 0) ∧ Overlay.wf (s.pendingOf 0) = true) ∧
    (∀ done ∈ [CopyDone.none, .barrier 0], let o := anOp (.send 3 4 5 6 done) [landed 0 none, landed 1 none]
      let s := opState o (byteTeam .byte 16)
      s.op? 4 = some o ∧ s.ops = [o] ∧ o.landedAll = true ∧ o.sentBytes ≠ [] ∧ (∀ p ∈ o.parts, p.isHeld = false) ∧
      (s.barrier? 2 0).isSome = true) ∧
    (∀ aux ∈ [1, 2], ∀ done ∈ [CopyDone.none, .stamp 0x5000 0xFFFFFFFFFFFFFFFF],
      let o := copyOp done [landed 0 none, { Part.new stampPiece 0x5000 0 with st := .ready (atPhys 1 0x9000) }] aux
      (opState o).op? 4 = some o ∧ o.landedAll = true ∧ (∀ l ∈ maskLanes o.counted, o.ctr < (wGroup.lane l).sb.length) ∧
      (o.part? stampPiece).map (·.st) = some (.ready (atPhys 1 0x9000))) :=
  ⟨by decide, by decide, by decide, by decide⟩

/-! ### Near-memory calls, leases -/

/-- An extent in the banks of pseudo-channel 5 of stack 2. -/
def bankExtent : Extent := { anExtent with kind := 2, home := 2, pc := 5 }
/-- An argument block: P0 to P5. -/
def callArgs (p : List Nat) : List Word := [0, 0] ++ p.map (BitVec.ofNat 32) ++ List.replicate (14 - p.length) 0
/-- A call on that extent. -/
def callOp (e : Nat) (p : List Nat) : Op := { anOp (.nmc e (callArgs p) 5) [] with aux := 3 }
/-- A team with a lease. -/
def leaseTeam (x : Lease) : Team := { aTeam with lease := x }
/-- A state in which the sequencer of stack 2 performs the call. -/
def callState (x : Lease) (e : Nat) (p : List Nat) : State :=
  { opState (callOp e p) (leaseTeam x) with extents := [bankExtent], calls := [(2, 4)], dmus := [{ Dmu.zero 2 5 with acc := List.replicate 16 (List.replicate 64 7) }] }
/-- What the statements about calls ask of it. -/
abbrev CallMet (x : Lease) (e : Nat) (p : List Nat) : Prop := AtCall (callState x e p) 2 (callOp e p) e (callArgs p) 5

theorem callMet (x : Lease) (e : Nat) (p : List Nat) (h : (callState x e p).callAt 2 = some (callOp e p)) : CallMet x e p :=
  ⟨h, rfl, by decide, ⟨wGroup, rfl, by decide, by decide, fun _ hp => nomatch (show _ ∈ ([] : List SPend) from hp)⟩,
    fun _ hr => nomatch (show _ ∈ ([] : List CallRun) from hr)⟩

/-- The calls with their arguments at the ends of what they may name. -/
def goodCalls : List (Nat × List Nat) :=
  [(0, [0, 511, 1, 0xFFFF]), (1, [0, 4095, 1, 0x8000]), (2, [4094, 0, 2, 1]), (3, []), (4, [4095, 15, 16]), (5, [4095, 32, 32, 0xFFFF, 0, 16]),
    (6, [4095, 24, 0, 0xFFFF]), (7, []), (8, [0, 0, 0, 0xFFFF]), (9, []), (10, [0, 0, 1, 0, 0xFFFFFFFF])]

theorem test_meets_RowCalls : ∀ x ∈ goodCalls.filter (fun x => x.1 ∈ [0, 1, 2, 6, 10]), let s := callState (.held 2 5 0) x.1 x.2
    CallMet (.held 2 5 0) x.1 x.2 ∧ (Memory.wf s.image = true ∧ Memory.wf s.hostMem = true) ∧ s.callRefused (callOp x.1 x.2) = none ∧
    s.extent? (callOp x.1 x.2).aux = some bankExtent := by
  intro x h
  exact ⟨callMet _ _ _ ((by decide +kernel : ∀ x ∈ goodCalls, (callState (.held 2 5 0) x.1 x.2).callAt 2 = some (callOp x.1 x.2)) x (List.mem_filter.1 h).1),
    ⟨by rfl, by rfl⟩, (by decide +kernel : ∀ x ∈ goodCalls.filter (fun x => x.1 ∈ [0, 1, 2, 6, 10]),
      (callState (.held 2 5 0) x.1 x.2).callRefused (callOp x.1 x.2) = none) x h, by rfl⟩

/-- Calls that go through, under the leases that they need or may meet. -/
def leaseCalls : List (Lease × Nat × List Nat) :=
  [(.none, 3, []), (.held 2 5 7, 4, [4095, 15, 16]), (.held 2 5 7, 5, [4095, 32, 32, 0xFFFF, 0, 16]), (.held 2 5 7, 8, [0, 0, 0, 0xFFFF]),
    (.held 2 5 7, 7, []), (.lost, 7, []), (.held 2 5 1349999, 9, []), (.none, 9, [])]
/-- Calls that are refused, with their statuses. -/
def refusedCalls : List (Lease × Nat × List Nat × Nat) :=
  [(.none, 4, [0, 0, 16], 0x24), (.lost, 3, [], 0x13), (.held 2 5 0, 3, [], 0x25), (.held 2 5 0, 6, [0, 4], 0x22), (.none, 0, [511, 512, 1], 0x23)]

theorem callsAt :
    (∀ x ∈ leaseCalls, (callState x.1 x.2.1 x.2.2).callAt 2 = some (callOp x.2.1 x.2.2)) ∧
    ∀ x ∈ refusedCalls, (callState x.1 x.2.1 x.2.2.1).callAt 2 = some (callOp x.2.1 x.2.2.1) := by decide +kernel

/-- Calls that go through and calls that are refused; no call; calls of other entries, which the list has. -/
theorem test_meets_DmuCalls :
    ((∀ x ∈ leaseCalls, CallMet x.1 x.2.1 x.2.2) ∧ ∀ x ∈ refusedCalls, CallMet x.1 x.2.1 x.2.2.1) ∧
    (∀ x ∈ leaseCalls, let s := callState x.1 x.2.1 x.2.2
      s.callRefused (callOp x.2.1 x.2.2) = none ∧ s.team? 2 = some (leaseTeam x.1) ∧ (s.dmu (2, 5)).acc.length = 16 ∧ ∀ a ∈ (s.dmu (2, 5)).acc, a.length = 64) ∧
    (∀ x ∈ refusedCalls, (callState x.1 x.2.1 x.2.2.1).callRefused (callOp x.2.1 x.2.2.1) = some x.2.2.2) ∧
    (aState wGroup).callAt 2 = none :=
  ⟨⟨fun x h => callMet _ _ _ (callsAt.1 x h), fun x h => callMet _ _ _ (callsAt.2 x h)⟩, by decide +kernel, by decide +kernel, by decide⟩

/-- A call that the sequencer of stack 2 has begun, so long ago and so long without a micro-word. -/
def callRun (ran idle : Nat) : CallRun := { stack := 2, op := 4, got := [], left := none, was := [], ran := ran, quiet := idle }
/-- A state with it. -/
def begunState (x : Lease) (r : CallRun) : State := { callState x 4 [4095, 15, 16] with seqs := [r] }

/-- A lease before and at its bound; a saved lease whose pseudo-channel is taken, or free, of a team that stands on a core or does not; a call that hangs. -/
theorem test_meets_Leases :
    (∀ used ∈ [0, 50000 * 27 - 1, 50000 * 27], (aState wGroup (leaseTeam (.held 2 5 used))).team? 2 = some (leaseTeam (.held 2 5 used)) ∧
      (aState wGroup (leaseTeam (.held 2 5 used))).callAt 2 = none) ∧
    (let tm := leaseTeam (.saved 2 5 9 [] [])
     let other := { leaseTeam (.held 2 5 0) with tid := 3 }
     (aState wGroup tm).team? 2 = some tm ∧ tm.state = .resident ∧ (aState wGroup tm).channelTaken 2 (2, 5) = false ∧
     ({ aState wGroup tm with teams := [tm, other] } : State).channelTaken 2 (2, 5) = true ∧
     (aState wGroup { tm with state := .saved }).team? 2 = some { tm with state := .saved }) ∧
    (∀ y ∈ [(0, 0), (200000 * 27 - 1, 8192 * 27 - 1), (200000 * 27, 0), (0, 8192 * 27)], let r := callRun y.1 y.2
      InCall (begunState (.held 2 5 (50000 * 27)) r) 2 r (callOp 4 [4095, 15, 16]) 5) ∧
    ((callOp 4 [4095, 15, 16]).team = (leaseTeam .none).tid ∧ (begunState .none (callRun 0 0)).extent? 3 = some bankExtent ∧
      MemoriesOk (begunState .none (callRun 0 0))) :=
  ⟨by decide, by decide, fun y _ => ⟨by rfl, by rfl, ⟨_, _, rfl⟩, by decide, wGroup, by rfl, by decide, by decide, fun _ hp => nomatch (show _ ∈ ([] : List SPend) from hp)⟩,
    by rfl, by rfl, by rfl, by rfl⟩

/-! ### Errors, packets, messages -/

/-- A team with a reservation. -/
def resTeam : Team := { aTeam with reservations := [{ num := 0, record := 0, base := 0, len := 64, data := [] }] }

/-- A WAITC. -/
def monitorWord : Instr := .waitc { g := 0, t := 10, base := 4, op := 0, dword := false }

/-- The front end's walks are those of the LAUNCH, SIGNAL and WAIT that test_meets_WorkCommands starts. -/
theorem test_meets_UncorrectableErrors :
    (∀ tm ∈ [aTeam, resTeam], let s := aState wGroup tm
      s.team? 2 = some tm ∧ ((s.groups.map (·.gid)).Nodup ∧ ∀ g ∈ s.groups, g.lanes.length = 32) ∧ tm.state = .resident ∧
      (tm.reservations = [] ∨ tm.reservations ≠ [])) ∧
    (let s : State := { aState wGroup with wcb := [anEntry false] }
     s.wcb.find? (fun x => x.id == 6) = some (anEntry false) ∧ s.teamOfSlot 0 = some aTeam) ∧
    (let g := waitGroup (.regrp true 1 [] [])
     (aState g).group? 1 = some g ∧ (g.lane 31).team = 2 ∧ waitRun (.regrp true 1 [] []) ∈ g.runs) ∧
    (relocationDue ((aState rGroup).collected 1) = true ∧ (rGroup.lane 31).team = 2 ∧ waitRun (.regrp false 1 [(0, 3)] [1]) ∈ rGroup.runs ∧
      (let s := (aState rGroup).relocate ((aState rGroup).collected 1)
       s.team? 2 = some aTeam ∧ (s.groups.map (·.gid)).Nodup ∧ ∀ g ∈ s.groups, g.lanes.length = 32)) ∧
    (let g := waitGroup (.regrp true 1 [] [])
     relocationDue ((aState g).collected 1) = false) ∧
    (let g := aGroup (encode monitorWord)
     (aState g).group? 1 = some g ∧ g.runs = [rowRun (encode monitorWord)] ∧ g.isResident = true ∧ g.ended = false ∧ g.issueOf (rowRun (encode monitorWord)) 0 ≠ [] ∧
      decode (encode monitorWord) = .ok (monitorWord, [])) ∧
    (let r := { rowRun (encode monitorWord) with wait := .look 0x10 7 9 true }
     let g := { aGroup (encode monitorWord) with runs := [r] }
     (aState g).group? 1 = some g ∧ g.runs = [r] ∧ g.isResident = true ∧ g.ended = false ∧ g.issueOf r 0 ≠ [] ∧
      decode (r.words.drop r.pos) = .ok (monitorWord, [])) ∧
    (∀ kind ∈ [OpKind.load 4 false 5, .store 4, .atomic .add 4 5], let o := anOp kind [tPart]
      (opState o).op? 4 = some o ∧ o.part? tPart.lane = some tPart ∧ (opState o).group? 1 = some wGroup ∧ wGroup.ended = false ∧
      (opState o).translationDue o tPart = true ∧ tPart.len ≠ 0 ∧ tPart.lane < 32) :=
  ⟨by decide, by decide, by decide, by decide +kernel, by decide +kernel, ⟨by decide, by rfl, by rfl, rfl, by decide +kernel, by rfl⟩,
    ⟨by rfl, rfl, by rfl, rfl, by decide +kernel, by rfl⟩, by decide⟩

/-- A packet to this device from device 9, the next of its flow, of that kind for the last 16 bytes of extent 3. -/
def aPacket (kind op : Nat) (beats : List (BitVec 128)) : Packet :=
  { ddev := 0, sdev := 9, port := 4, kind := kind, sws := 0, seq := 0xFFFFF, op := op, laddr := 0xFFFFFF0, beats := beats }
/-- The flow from that device. -/
def aFlow : Flow := { dev := 9, sendSeq := 0, recvSeq := 0xFFFFF, early := [], asked := [], atoms := [], granted := 16, demanded := 0, unreachable := false, queue := [] }
/-- A state over it, with bytes pending under the packets' tag. -/
def linkState (g : Group := wGroup) : State :=
  { aState g with flows := [aFlow], pending := [{ slot := 1024, tag := some (9, 0), bytes := [(0xFFFFFF0, 1), (0xFFFFFFF, 2)] }] }

theorem test_meets_PacketsInOrder :
    (∀ k ∈ List.range' 1 11, let p := aPacket k 0 []
      p.ddev = linkState.conf.devid ∧ unknownPacket p = false ∧ p.seq = (linkState.flow 9).recvSeq ∧ (linkState.flow 9).early = [] ∧
      { p with seq := 0 }.seq ≠ (linkState.flow 9).recvSeq ∧ p.kind ≠ k % 11 + 1) ∧
    (0x12 ≤ (aPacket 5 0x12 []).op ∧ (aPacket 5 0x12 []).kind = 0x05) ∧ (aPacket 0 0 []).kind = 0 ∧ 0x0B < (aPacket 0x0C 0 []).kind := by decide

theorem test_meets_PacketsAsk :
    (∀ k ∈ [1, 3, 5, 7, 9, 11], let p := aPacket k 0x11 [BitVec.ofNat 128 (7 + 2 ^ 127)]
      p.ddev = linkState.conf.devid ∧ unknownPacket p = false ∧ p.seq = (linkState.flow p.sdev).recvSeq ∧ (linkState.flow p.sdev).early = [] ∧
      (Memory.wf linkState.image = true ∧ Memory.wf linkState.hostMem = true) ∧ p.laddr < 2 ^ 39 ∧ (linkState.flow p.sdev).queue = [] ∧
      16 ≤ (linkState.flow p.sdev).granted ∧ lineOf p.laddr ∉ linkState.lost ∧ Overlay.wf (linkState.tagged p) = true ∧
      atomOfCode p.op = (.cas, 8) ∧ p.laddr % 8 = 0 ∧ (linkState.extent? (extentOf p.laddr)).isSome = true ∧
      p.beats = [BitVec.ofNat 128 (7 + 2 ^ 63 * 2 ^ 64)] ∧ 2 ^ 63 < 2 ^ (8 * 8) ∧
      (linkState.flow p.sdev).atoms = [] ∧ (∀ x ∈ linkState.pending, x.tag = some (p.sdev, p.sws) → Overlay.wf x.bytes = true) ∧
      ∀ x ∈ linkState.pending, ∀ y ∈ linkState.pending, y = x) ∧
    (linkState.fails (lineOf 0xFFFFFF0) none = false ∧ (linkState.extent? 3).map (·.kind) = some 0 ∧
      ({ linkState with l2 := [aLine none] } : State).publishedReady (lineOf 0xFFFFFF0) = true) ∧
    (∀ n ∈ [0, 4096, 4097], ((aPacket 9 0 [BitVec.ofNat 128 n]).beats.headD 0).toNat = n ∧ linkState.demands ++ [(9, n)] = (9, n) :: []) := by decide

/-- A part that a peer is to answer. -/
def remotePart (len : Nat) : Part := { Part.new 31 0x4000 len with st := .remote { tgt := 2, dev := 9, addr := 2 ^ 39 + 0xFFFFFF0, nl1 := false } [0] 0 }
/-- An operation of lane 31. -/
def remoteOp (kind : OpKind) (len : Nat) : Op := { anOp kind [remotePart len] with counted := 2 ^ 31 }
/-- What a team waits for. -/
def anAwait (k : AwaitKind) : Await := { gid := 1, op := 4, team := 2, dev := 9, addr := 2 ^ 39 + 0xFFFFFF0, kind := k }

/-- A request of that kind that the operation's lane has sent. -/
def sentRequest (kind : Nat) : SentRequest := { kind := kind, sws := 0, laddr := 0xFFFFFF0, op := 4, lane := 31, piece := 0 }

theorem test_meets_PacketsAnswer :
    (∀ k ∈ [2, 6], let s : State := { linkState with flows := [{ aFlow with asked := [sentRequest k, sentRequest k] }] }
      (s.flow 9).asked.find? (fun r => r.isFor (aPacket k 0 [])) =
        some { kind := k, sws := (aPacket k 0 []).sws, laddr := (aPacket k 0 []).laddr, op := (remoteOp (.store 4) 4).id, lane := (remotePart 4).lane, piece := 0 }) ∧
    (∀ x ∈ [(1, true), (2, true), (4, false), (8, false)], let o := remoteOp (.load x.1 x.2 4) x.1
      let s := { linkState with ops := [o] }
      s.ops = [o] ∧ o.counted = laneMask [31] ∧ x.1 ∈ [1, 2, 4, 8] ∧ (x.2 = true → x.1 ≤ 2) ∧ (2 ^ 39 + 0xFFFFFF0) % x.1 = 0 ∧
      (2 ^ 39 + 0xFFFFFF0) % 2 ^ 39 = (aPacket 2 0 []).laddr ∧ s.group? 1 = some wGroup ∧ (wGroup.lane 31).exited = false ∧
      o.ctr < (wGroup.lane 31).sb.length ∧ ∀ e ∈ (wGroup.lane 31).pend, e.op = o.id → e.keep = false) ∧
    (let o := remoteOp (.atomic .add 8 4) 8
     ({ linkState with ops := [o] } : State).ops = [o] ∧ linkState.group? o.gid = some wGroup) ∧
    (∀ k ∈ [AwaitKind.sent, .publish, .stray, .discard], ∀ h ∈ [Holder.team 2, .discarding 2],
      let s := { linkState with awaiting := [anAwait k], holders := [(0, h)] }
      s.answersFor 0 = some 2 ∧ s.awaiting = [anAwait k]) ∧
    (unknownPacket (aPacket 10 0 [16]) = false ∧ (linkState.flow 9).queue = []) := by decide

/-- A queue bound at port 5: extent 3, 64 entries that end with the extent. -/
def aRecv : RecvQueue := { num := 4, reg := BitVec.ofNat 128 (3 * 2 ^ 115 + 5 * 2 ^ 100 + (2 ^ 26 - 512) * 2 ^ 74 + 6 * 2 ^ 69 + 1), slot := 1, count := 63 }
/-- A message of two bytes that ends before the entry of this count. -/
def aMessage (port : Nat) (off : BitVec 64) : NetMessage := { peer := 9, rq := 4, port := port, tag := 0xFFFFFFFF, off := off, data := [1, 2] }

theorem test_meets_DevicesAndMessages :
    ((∀ p ∈ (linkState.flow 9).queue, p.ddev = 9) ∧ (∀ o ∈ linkState.ops, ∀ p ∈ o.parts, p.waitsOn 9 = false) ∧ ∀ x ∈ linkState.awaiting, x.dev ≠ 9) ∧
    (let o := remoteOp (.load 4 false 4) 4
     let s := { linkState with ops := [o] }
     s.ops = [o] ∧ o.parts = [remotePart 4] ∧ (remotePart 4).waitsOn 9 = true ∧ s.group? 1 = some wGroup ∧ wGroup.ended = false ∧ s.awaiting = []) ∧
    (∀ q ∈ linkState.recvq, q.num = 4 → q.reg.getLsbD 0 = false) ∧
    (let s := { aState wGroup with recvq := [aRecv] }
     s.recvq.find? (fun x => x.num == 4 && x.reg.getLsbD 0) = some aRecv ∧ rqPort aRecv.reg = 5 ∧ rqPort aRecv.reg ≠ (aMessage 4 0).port ∧
     2 ^ 26 < (0x3FFFFFF#64).toNat + 2 ∧ (0x3FFFFFE#64).toNat + 2 ≤ 2 ^ 26 ∧ s.pendingOf aRecv.slot = [] ∧ s.extent? (rqExt aRecv.reg) = some anExtent ∧ anExtent.kind ≠ 3 ∧
     (Memory.wf s.image = true ∧ Memory.wf s.hostMem = true) ∧ rqOff aRecv.reg + 8 * 2 ^ rqN aRecv.reg ≤ 2 ^ 26) := by decide +kernel

/-! ### Starting, the register window -/

/-- A start of a part of which dies are disabled, with what fails in it. -/
def startInput (off : List Nat) (fault : Option StartFault) : StartInput where
  disabled := { offDies := off, offStacks := [], offClusters := [], offCores := [], offChannels := [], offSlices := [], offUnits := 0, coreUnits := [] }
  devid := 5
  hop1 := []
  hop3 := []
  fault := fault

/-- A part whose fuses ask a later image; one whose image was signed with another key. -/
def rolledState : State := { State.reset with fuses := { State.reset.fuses with rollback := State.reset.firmware.version + 1 } }
def foreignState : State := { State.reset with fuses := { State.reset.fuses with keyHash := 0 :: State.reset.firmware.signature.key } }

theorem test_meets_StartOfThePart :
    (∀ maq ∈ [false, true], coreOn maq (startInput [] none) 0 = true) ∧ (∀ n < 64, coreOn false (startInput [0, 1, 2, 3] none) n = false) ∧
    (∀ maq ∈ [false, true], let s := { State.reset with boot := { State.reset.boot with flashCount := if maq then 3 else 2, flashReason := 8 } }
      (s.boot.flashCount == 3) = maq ∧ s.boot.flashCount ≠ 0 ∧ s.firmware = State.reset.firmware ∧ s.fuses = State.reset.fuses) ∧
    (∀ f ∈ [none, some StartFault.discovery, some .stackTraining, some .linkTraining, some .controlStore], (startInput [] f).fault = f) ∧
    (State.reset.fuses.rollback ≤ State.reset.firmware.version ∧ ¬rolledState.fuses.rollback ≤ rolledState.firmware.version) := by decide

/-- The image of the part at reset carries the digest that SHA-384 gives it, FIPS 180-4. -/
theorem test_meets_StartOfThePart_verified :
    State.reset.firmware.signature.key = State.reset.fuses.keyHash ∧ State.reset.firmware.signature.digest = sha384 State.reset.firmware.image ∧
    foreignState.firmware.signature.key ≠ foreignState.fuses.keyHash := by
  refine ⟨rfl, by decide +kernel, fun h => ?_⟩
  exact absurd (congrArg List.length h) (by decide)

/-- SHA-384 of the three bytes "abc", the example of FIPS 180-4. -/
theorem test_sha384_abc : (sha384 [0x61, 0x62, 0x63]).take 8 = [0xCB, 0x00, 0x75, 0x3F, 0x45, 0xA3, 0x5E, 0x8B] := by decide +kernel

/-- A start that has failed leaves a part that stands still. -/
theorem test_failedStart_idle : let s : State := { State.reset with boot := { State.reset.boot with failed := true } }
    s.defaultMove = .next s := rfl

/-- A state in which a start has been done, with a core of every unit. -/
def coreState (c : CoreState) : State :=
  let s := aState wGroup
  { s with boot := { s.boot with done := true }, cores := [c], conf := { s.conf with features := [0x800003FF] } }

theorem test_meets_AttestationAndPower :
    ∀ x ∈ [(1, 2047), (1, 2048), (2, 2048)], (coreState (aCore x.1 x.2)).core? 0 = some (aCore x.1 x.2) ∧ (7 ≤ 7 ∧ 7 < 8) := by decide

/-- A request of a NEGOTIATE_ALGORITHMS that offers P-384 and SHA-384, and of one that offers neither; of one measurement and of all. -/
theorem test_meets_AttestationAndPower_requests :
    (∀ x ∈ [(0x80, 2, true), (0x80, 1, false), (0x40, 2, false)],
      let q : SpdmRequest := { param1 := 1, param2 := 0, body := [0, 0, 1, 0, BitVec.ofNat 8 x.1, 0, 0, 0, BitVec.ofNat 8 x.2.1] }
      ((q.body.getD 4 0).getLsbD 7 && (q.body.getD 8 0).getLsbD 1) = x.2.2) ∧
    (∀ n ∈ [1, 5], 1 ≤ n ∧ n ≤ 5 ∧ ({ param1 := 0, param2 := BitVec.ofNat 8 n, body := [] } : SpdmRequest).param2 = BitVec.ofNat 8 n) ∧
    ({ param1 := 0, param2 := 0xFF, body := [] } : SpdmRequest).param2 = 0xFF := by decide

/-- A receive queue's register: extent 8, 16 entries that end with the extent, V. -/
def recvReg (v : Nat) : BitVec 128 := BitVec.ofNat 128 (8 * 2 ^ 115 + 2 ^ 103 + (2 ^ 26 - 128) * 2 ^ 74 + 4 * 2 ^ 69 + v)

theorem test_meets_RegisterWindow :
    ((aState wGroup).queue? 4 = none ∧ ({ aState wGroup with queues := [aQueue []] } : State).queue? 4 = some (aQueue [])) ∧
    ((aState wGroup).ctx? 1 = some aCtx ∧ 2 ^ aCtx.evn ≤ 16 ∧ 15 < 2 ^ aCtx.evn ∧ aCtx.evwait = []) ∧
    (let c := { aCtx with evhead := 0, evtail := 15, evwait := [5] }
     let s := { aState wGroup with ctxs := [c] }
     s.ctx? 1 = some c ∧ (c.evtail + 1) % 2 ^ c.evn ≠ 15 ∧ Memory.wf s.hostMem = true) ∧
    (let q := { aQueue [] with num := 0 }
     ({ aState wGroup with queues := [q] } : State).queue? 0 = some q ∧ q.head ≠ q.tail ∧ { q with tail := 15 }.head = { q with tail := 15 }.tail ∧
     q.running = []) ∧
    (let v := recvReg 1
     let s := { aState wGroup with extents := [tableExtent] }
     s.bindOk v = true ∧ s.freeSlots ≠ [] ∧ (s.receiveReg 1023).getLsbD 0 = false ∧ (aState wGroup).bindOk v = false) ∧
    (let q : RecvQueue := { num := 1023, reg := recvReg 1, slot := 1, count := 63 }
     let s := { aState wGroup with
       extents := [tableExtent]
       recvq := [q]
       holders := [(1, .receiveQueue 1023)] }
     s.receiveReg 1023 = recvReg 1 ∧ (s.receiveReg 1023).getLsbD 0 = true ∧ s.recvq.find? (fun x => x.num == 1023) = some q ∧ s.bindOk (recvReg 1) = true) ∧
    (∀ h ∈ [true, false], ∀ x ∈ [0, 1], let v : HalfWrite := { high := h, value := BitVec.ofNat 64 x, privileged := true }
      1023 < 1024 ∧ 1024 ≤ 1024 ∧ v.privileged = true ∧ v.value.getLsbD 0 = decide (x = 1)) ∧
    (∀ p ∈ [true, false], let v : HostWrite := { value := BitVec.ofNat 64 (16 + 2 ^ 49 - 2 ^ 10), privileged := p }
      v.privileged = p ∧ v.value.toNat % 32 = 16 ∧ (aState wGroup).queue? 0 = none) := by decide +kernel

/-- Every writer slot is held. -/
def fullState : State :=
  { aState wGroup with
    extents := [tableExtent]
    holders := (List.range Config.writerSlots).map fun w => (w, Holder.team 2) }

theorem test_meets_RegisterWindow_full : fullState.freeSlots = [] ∧ fullState.bindOk (recvReg 1) = true := by
  refine ⟨?_, by decide⟩
  refine List.filter_eq_nil_iff.2 fun w h => ?_
  have h : w < Config.writerSlots := List.mem_range.1 h
  have : (assoc ((List.range Config.writerSlots).map fun w => (w, Holder.team 2)) w).isSome = true := by
    simp only [assoc, Option.isSome_map, List.find?_isSome]
    exact ⟨(w, .team 2), List.mem_map.2 ⟨w, List.mem_range.2 h, rfl⟩, beq_self_eq_true w⟩
  simp [State.holder?, fullState, Option.isSome_iff_ne_none.1 this]

/-- A register that has one half written: that half is the value's, reserved bits 0. -/
theorem test_meets_RegisterWindow_half : ∀ h ∈ [true, false], ∀ k < 128,
    (rqField (intoHalf { high := h, value := 2 ^ 64 - 2, privileged := true } (recvReg 1))).getLsbD k =
      ((if decide (64 ≤ k) = h then (2 ^ 64 - 2 : BitVec 64).getLsbD (k % 64) else (recvReg 1).getLsbD k) && !(1 ≤ k && k ≤ 68)) := by decide +kernel

/-- The fields of a register of a receive queue that is not bound, R400. -/
theorem test_receiveReg_halves : let s := { aState wGroup with recvq := [{ num := 7, reg := recvReg 0, slot := Config.writerSlots, count := 0 }] }
    (s.receiveReg 7) = recvReg 0 ∧ rqExt (recvReg 0) = 8 ∧ rqN (recvReg 0) = 4 := by decide

/-! ### Commands -/

/-- A queue with a command at its head, which stands in the last slot of its ring. -/
def cmdQueue (n : Nat) : Queue := { aQueue [] with num := n }
/-- A state in which that command is next. -/
def withCommand (s : State) (n x : Nat) : State :=
  { s with boot := { s.boot with done := true }, queues := [cmdQueue n], hostMem := Memory.putNat [] 0x83C0 64 x }
/-- What `Starts` asks, by evaluation. -/
def starts (s : State) (n x : Nat) (fm : Nat × Nat) (fields : List (Nat × Nat)) : Bool :=
  s.nextCommand n == some (cmdQueue n, x) && commandForm x == fm && namedOnly fields x && allowedOn fm.1 n

theorem starts_iff {s : State} {n x : Nat} {fm : Nat × Nat} {fields : List (Nat × Nat)} (h : starts s n x fm fields = true) :
    Starts s n (cmdQueue n) x fm fields := by
  simp only [starts, Bool.and_eq_true, beq_iff_eq] at h
  exact ⟨h.1.1.1, h.1.1.2, h.1.2, h.2, fun _ hc => nomatch hc⟩

/-- The first 8 bytes of a command: its code, its tag, IRQ. -/
def cmdHead (op : Nat) : Nat := op + 512 + 0xFFFFFFFF * 2 ^ 32

/-- A command of its form, one with a reserved bit, one that may not stand on its queue, one that does not exist; a queue without a command. -/
theorem test_meets_CommandHeaders :
    (∀ x ∈ [(4, 1, 0), (4, 0x10, 0), (0, 0x01, 0), (4, 0xFF, 0), (4, 0x06, 1), (0, 0x12, 0)], let y := cmdHead x.2.1 + x.2.2 * 2 ^ 64
      (withCommand (aState wGroup) x.1 y).nextCommand x.1 = some (cmdQueue x.1, y)) ∧
    (commandForm (cmdHead 0x01) = (0x01, 0) ∧ namedOnly [(64, 64)] (cmdHead 0x01) = true ∧ namedOnly [(64, 64)] (cmdHead 0x01 + 2 ^ 10) = false ∧
      namedOnly [(64, 1)] (cmdHead 0x06 + 2 ^ 65) = false ∧ namedOnly [(64, 1)] (cmdHead 0x06 + 2 ^ 447) = false) ∧
    (¬(0x10 ≤ 0x10 ↔ 4 = 0) ∧ ¬(0x10 ≤ 0x01 ↔ 0 = 0)) ∧ commandForm (cmdHead 0xFF) = (0, 0) ∧ (aState wGroup).nextCommand 4 = none ∧
    (∀ x ∈ [0x05, 0x07, 0x0B], let s := { aState wGroup with ctxs := [{ aCtx with saved := true }] }
      (withCommand s 4 (cmdHead x)).nextCommand 4 = some (cmdQueue 4, cmdHead x)) := by decide +kernel

/-- A page that grants everything: extent 3, host memory, another device. -/
def workLeaf (tgt : Nat) : Nat := 2 ^ 63 + tgt * 2 ^ 61 + 0xC0003E0
/-- A state over it, with a core. -/
def workState (tgt : Nat) (m : Memory) : State :=
  { coreState (aCore 0 0) with
    ctxs := [walkCtx]
    extents := [anExtent, tableExtent]
    l2 := [{ die := 0, slice := 0, line := lineOf 0xC00FFC0, held := none }]
    image := Memory.overlay (walkImage (workLeaf tgt)) m }
/-- It, with that line not in L2. -/
def coldState (x : Nat) : State := { withCommand (workState 0 []) 4 x with l2 := [] }
/-- The descriptor of a kernel with crews of one team of one group and 8 registers; with crews of none; with a reserved feature; with crews of two. -/
def aDescriptor (c feat : Nat) : Nat := 0x4000 + c * 2 ^ 132 + 8 * 2 ^ 136 + feat * 2 ^ 192
/-- LAUNCH of it. -/
def launchAt (va : Nat) : Nat := cmdHead 0x01 + va * 2 ^ 64 + (1 + 2 ^ 16 + 2 ^ 32) * 2 ^ 192

theorem test_meets_WorkCommands_launch :
    (∀ x ∈ [(launchAt (2 ^ 56 - 32)), (launchAt (2 ^ 56 - 64))],
      Starts (withCommand (workState 1 []) 4 x) 4 (cmdQueue 4) x (0x01, 0) [(64, 64), (128, 64), (192, 48), (240, 7), (247, 1)] ∧
      ((withCommand (workState 1 []) 4 x).takeCommand (cmdQueue 4) x).readDescriptor 1 (field x 64 64) = none) ∧
    (∀ y ∈ [(1, 0, none), (1, 0x3FF, none), (0, 0, some 0x80), (1, 0x400, some 0x80), (2, 0, some 0x82)],
      let x := launchAt (2 ^ 56 - 64)
      let d := aDescriptor y.1 y.2.1
      let s := withCommand (workState 0 (Memory.putNat [] 0xC00FFC0 64 d)) 4 x
      let s' := s.takeCommand (cmdQueue 4) x
      Starts s 4 (cmdQueue 4) x (0x01, 0) [(64, 64), (128, 64), (192, 48), (240, 7), (247, 1)] ∧ s'.readDescriptor 1 (field x 64 64) = some d ∧
      s.ctx? 1 = some walkCtx ∧ s'.launchRefused (cmdQueue 4) d (launchOf s.fresh 2 (cmdQueue 4) 15 d x) = y.2.2) := by
  simp only [List.forall_mem_cons, List.not_mem_nil, false_implies, implies_true, and_true]
  refine ⟨⟨⟨?_, ?_⟩, ⟨?_, ?_⟩⟩, ⟨⟨?_, ?_, ?_, ?_⟩, ⟨?_, ?_, ?_, ?_⟩, ⟨?_, ?_, ?_, ?_⟩, ⟨?_, ?_, ?_, ?_⟩, ⟨?_, ?_, ?_, ?_⟩⟩⟩
  all_goals first
    | exact starts_iff (by decide +kernel)
    | decide +kernel

/-- A LAUNCH that takes its effect: with no feature and with every feature, at the last descriptor of the address space. -/
theorem test_meets_WorkCommands_launches : ∀ feat ∈ [0, 0x3FF],
    let x := launchAt (2 ^ 56 - 64)
    let d := aDescriptor 1 feat
    let s := withCommand (workState 0 (Memory.putNat [] 0xC00FFC0 64 d)) 4 x
    let l := launchOf s.fresh 2 (cmdQueue 4) 15 d x
    starts s 4 x (0x01, 0) [(64, 64), (128, 64), (192, 48), (240, 7), (247, 1)] = true ∧ field x 64 64 % 64 = 0 ∧
    s.translateFront 1 (field x 64 64) { rd := true } = .ok { tgt := 0, dev := 0, addr := 0xC00FFC0, nl1 := false } ∧ s.publishedReady (lineOf 0xC00FFC0) = true ∧ lineOf 0xC00FFC0 ∉ s.lost ∧
    s.ctx? 1 = some walkCtx ∧ s.part? walkCtx.pnum = some aPart ∧ s.image.nat 0xC00FFC0 64 = d ∧ (walkCtx.launches + 1) % 2 ^ 16 = 2 ∧
    descReservedOk d = true ∧
    (1 ≤ l.c ∧ 1 ≤ l.gx ∧ 1 ≤ l.gy ∧ 1 ≤ l.gz ∧ l.gx * l.gy * l.gz ≤ 2 ^ 32 - 1 ∧ 8 ≤ l.alloc ∧ l.alloc ≤ 64 ∧ l.alloc % 4 = 0 ∧
      l.g * l.alloc / 4 + l.reserve ≤ 256 ∧ l.window ≤ 983040 ∧ l.barriers ≤ 512 ∧ l.share ≤ 64) ∧
    l.latency = (cmdQueue 4).latency ∧ field x 128 64 % 8 = 0 ∧ l.feat &&& 0xFFFFFC00 = 0 ∧ s.featureFits aPart l.feat = true ∧ s.crewFits aPart l = true := by
  decide +kernel

/-- A LAUNCH and a WAIT whose line L2 holds, and lacks. -/
theorem test_meets_WorkCommands_fill :
    (let x := launchAt (2 ^ 56 - 64)
     (coldState x).frontLine 4 (0x01, 0) [(64, 64), (128, 64), (192, 48), (240, 7), (247, 1)] 64 = some (lineOf 0xC00FFC0) ∧
     (withCommand (workState 0 []) 4 x).frontLine 4 (0x01, 0) [(64, 64), (128, 64), (192, 48), (240, 7), (247, 1)] 64 = none) ∧
    (let x := cmdHead 0x04 + (2 ^ 56 - 8) * 2 ^ 64
     (coldState x).frontLine 4 (0x04, 0) [(64, 64), (128, 64), (192, 3)] 8 = some (lineOf 0xC00FFF8) ∧
     (withCommand (workState 0 []) 4 x).frontLine 4 (0x04, 0) [(64, 64), (128, 64), (192, 3)] 8 = none) := by decide +kernel

/-- COPY with its destination, source, length and stamp. -/
def copyOf (dst src len stamp : Nat) : Nat := cmdHead 0x02 + dst * 2 ^ 64 + src * 2 ^ 128 + len * 2 ^ 192 + stamp * 2 ^ 256 + 77 * 2 ^ 320
/-- COPYs that start. -/
def someCopies : List Nat :=
  [copyOf 0 0 2 0, copyOf 0 0 (2 ^ 40 + 4) 0, copyOf 2 0 4 0, copyOf 0 2 4 0, copyOf 0 0 4 4, copyOf 0 0 0 0, copyOf (2 ^ 64 - 4) 0 8 8, copyOf 0 0 (2 ^ 40) 8]
/-- SIGNAL and WAIT at an address. -/
def signalOf (va v : Nat) : Nat := cmdHead 0x03 + va * 2 ^ 64 + v * 2 ^ 128
def waitOf (va v op : Nat) : Nat := cmdHead 0x04 + va * 2 ^ 64 + v * 2 ^ 128 + op * 2 ^ 192

theorem test_meets_WorkCommands_copy : ∀ x ∈ someCopies,
    Starts (withCommand (workState 0 []) 4 x) 4 (cmdQueue 4) x (0x02, 0) [(64, 64), (128, 64), (192, 64), (256, 64), (320, 64)] := fun x h =>
  starts_iff ((by decide +kernel : ∀ x ∈ someCopies,
    starts (withCommand (workState 0 []) 4 x) 4 x (0x02, 0) [(64, 64), (128, 64), (192, 64), (256, 64), (320, 64)] = true) x h)

/-- COPYs of no bytes: without a stamp, with one in extent 3, in host memory, on another device, and without a translation. -/
theorem test_meets_WorkCommands_empty :
    (∀ tgt ∈ [0, 1, 2], let x := copyOf 8 0 0 (2 ^ 56 - 8)
      let s := withCommand (workState tgt []) 4 x
      starts s 4 x (0x02, 0) [(64, 64), (128, 64), (192, 64), (256, 64), (320, 64)] = true ∧ field x 192 64 = 0 ∧ field x 256 64 % 8 = 0 ∧
      (s.takeCommand (cmdQueue 4) x).translateFront 1 (2 ^ 56 - 8) { w := true } = .ok { tgt := tgt, dev := 0, addr := 0xC00FFF8, nl1 := false } ∧
      (Memory.wf s.image = true ∧ Memory.wf s.hostMem = true) ∧ s.monitors = [] ∧ (s.extent? (extentOf 0xC00FFF8)).isSome = true) ∧
    (let x := copyOf 8 0 0 8
     let s := withCommand (workState 0 []) 4 x
     starts s 4 x (0x02, 0) [(64, 64), (128, 64), (192, 64), (256, 64), (320, 64)] = true ∧
     (s.takeCommand (cmdQueue 4) x).translateFront 1 8 { w := true } = .replay) := by decide +kernel

/-- At the last 8 bytes of the address space in extent 3, in host memory and on another device; misaligned; without a translation. -/
theorem test_meets_WorkCommands_signal :
    (∀ tgt ∈ [0, 1, 2], let x := signalOf (2 ^ 56 - 8) (2 ^ 64 - 1)
      let s := withCommand (workState tgt []) 4 x
      starts s 4 x (0x03, 0) [(64, 64), (128, 64)] = true ∧ field x 64 64 % 8 = 0 ∧ s.monitors = [] ∧
      s.translateFront 1 (2 ^ 56 - 8) { w := true } = .ok { tgt := tgt, dev := 0, addr := 0xC00FFF8, nl1 := false } ∧
      (s.takeCommand (cmdQueue 4) x).translateFront 1 (2 ^ 56 - 8) { w := true } = .ok { tgt := tgt, dev := 0, addr := 0xC00FFF8, nl1 := false } ∧
      (Memory.wf s.image = true ∧ Memory.wf s.hostMem = true) ∧ (s.extent? (extentOf 0xC00FFF8)).isSome = true ∧ 0x83C0 + 64 ≤ 0xC00FFF8) ∧
    (∀ va ∈ [4, 8], let x := signalOf va 0
      let s := withCommand (workState 0 []) 4 x
      starts s 4 x (0x03, 0) [(64, 64), (128, 64)] = true ∧ (s.takeCommand (cmdQueue 4) x).translateFront 1 va { w := true } = .replay) := by decide +kernel

theorem test_meets_WorkCommands_wait :
    (∀ y ∈ [(1, 0, 0), (0, 0, 0), (0, 1, 0), (0, 0, 3), (0, 2 ^ 63, 5)], let x := waitOf (2 ^ 56 - 8) y.2.1 y.2.2
      let s := withCommand (workState y.1 []) 4 x
      starts s 4 x (0x04, 0) [(64, 64), (128, 64), (192, 3)] = true ∧ s.publishedReady (lineOf 0xC00FFF8) = true ∧ lineOf 0xC00FFF8 ∉ s.lost ∧
      s.translateFront 1 (2 ^ 56 - 8) { rd := true } = .ok { tgt := y.1, dev := 0, addr := 0xC00FFF8, nl1 := false } ∧
      (s.takeCommand (cmdQueue 4) x).translateFront 1 (2 ^ 56 - 8) { rd := true } = .ok { tgt := y.1, dev := 0, addr := 0xC00FFF8, nl1 := false } ∧
      monitorCond (field x 192 3) 8 (s.image.nat 0xC00FFF8 8) (field x 128 64) = decide (y.2.1 ≠ 1)) ∧
    (∀ va ∈ [4, 8], let x := waitOf va 0 0
      let s := withCommand (workState 0 []) 4 x
      starts s 4 x (0x04, 0) [(64, 64), (128, 64), (192, 3)] = true ∧ (s.takeCommand (cmdQueue 4) x).translateFront 1 va { rd := true } = .replay) := by
  decide +kernel

/-! ### Commands on contexts, extents, the debugger, the tables of queue 0 -/

/-- A state with a context, groups and teams. -/
def ctxState (c : Context) (gs : List Group) (tms : List Team) : State := { aState wGroup with ctxs := [c], groups := gs, teams := tms }
/-- A saved team; a saved context. -/
def savedTeam : Team := { aTeam with state := .saved }
def savedCtx : Context := { aCtx with saved := true, resuming := [(5, 3)] }
/-- A group with an access that is held under number 2^32 - 1, of which one lane waits for nothing. -/
def heldGroup (pl : Place) : Group :=
  { wGroup with place := pl, holds := [{ seq := 0xFFFFFFFF, lanes := 1, vaddr := 0x10, acc := 1 }], runs := [{ wRun with lanes := 0xFFFFFFFE }] }

theorem test_meets_ContextCommands :
    (∀ y ∈ [(0, false, 0), (1, false, 0), (0, true, 0), (1, true, 0), (0, false, 1), (1, true, 1)], let x := cmdHead 0x06 + (y.1 + 2 * 0) * 2 ^ 64
      let s := withCommand (ctxState aCtx [] (if y.2.1 then [aTeam] else [savedTeam])) 4 x
      starts s 4 x (0x06, y.1) [(64, 1)] = true ∧ s.ctx? 1 = some aCtx ∧ aCtx.saving = [] ∧
      (s.teams.any fun tm => tm.state == .resident && s.ctxOfTeam tm == 1) = y.2.1) ∧
    (∀ y ∈ [(aCtx, [], [aTeam], 0), (savedCtx, [], [], 1), (savedCtx, [{ wGroup with place := .saved }], [savedTeam], 0),
        (savedCtx, [{ wGroup with place := .saved }], [savedTeam], 1)], let x := cmdHead 0x07 + y.2.2.2 * 2 ^ 64
      let s := withCommand (ctxState y.1 y.2.1 y.2.2.1) 4 x
      starts s 4 x (0x07, 0) [(64, 1)] = true ∧ s.ctx? 1 = some y.1 ∧ ((((s.takeCommand (cmdQueue 4) x).opportunity 1).spillForResume 1).resumeAll 1).isSome = (y.2.1 == [])) ∧
    (∀ y ∈ [(Place.resident 0 0, 0), (.saved, 0), (.resident 0 0, 1), (.saved, 1)], let g := heldGroup y.1
      let x := cmdHead 0x08 + 0xFFFFFFFF * 2 ^ 64 + y.2 * 2 ^ 96
      let s := withCommand (ctxState aCtx [g] [aTeam]) 4 x
      starts s 4 x (0x08, 0) [(64, 32), (96, 1)] = true ∧ s.groups = [g] ∧ s.ctxOfGroup g = 1 ∧ g.doomed = false ∧ g.ended = false ∧
      (∃ h ∈ g.holds, h.seq = field x 64 32) ∧ s.handlerOf g = 0 ∧ g.report = none ∧ (∀ r ∈ g.runs, r.wait = .none ∧ r.isOver = false ∧ r.lanes ≠ 0)) ∧
    (let x := cmdHead 0x08
     let s := withCommand (ctxState aCtx [wGroup] [aTeam]) 4 x
     starts s 4 x (0x08, 0) [(64, 32), (96, 1)] = true ∧ ∀ g ∈ s.groups, ∀ h ∈ g.holds, h.seq ≠ field x 64 32) ∧
    (let s := withCommand { ctxState aCtx [wGroup] [aTeam] with monitors := [aMonitor false] } 4 (cmdHead 0x09)
     starts s 4 (cmdHead 0x09) (0x09, 0) [] = true ∧ ∀ m ∈ s.monitors, m.ctx = 1 → m.gid.isSome = true) ∧
    (let x := cmdHead 0x0A + (2 ^ 56 - 2 ^ 16) * 2 ^ 64 + 2 ^ 16 * 2 ^ 128
     starts (withCommand (ctxState aCtx [wGroup] [aTeam]) 4 x) 4 x (0x0A, 0) [(64, 64), (128, 64)] = true) := by decide +kernel

/-- An EXTENT command on extent n with its handle, descriptor and buffer. -/
def extentCmd (op n handle desc buf : Nat) : Nat :=
  cmdHead 0x05 + op * 2 ^ 64 + n * 2 ^ 80 + handle * 2 ^ 96 + desc * 2 ^ 136 + buf * 2 ^ 272
/-- A state with some extents, over stacks 0 and 2 of two pseudo-channels each. -/
def extentState (es : List Extent) (x : Nat) : State :=
  let s := aState wGroup
  withCommand { s with extents := es, conf := { s.conf with record := 0x5 * 2 ^ 64, channels := [(0, 0), (0, 31), (2, 4), (2, 5)] } } 4 x
/-- Such a command is next, and no other team is in the header. -/
abbrev ExtentMet (es : List Extent) (op x : Nat) : Prop :=
  starts (extentState es x) 4 x (0x05, op) extentFields = true ∧ field x 68 12 = 0 ∧ Memory.wf (extentState es x).hostMem = true
/-- Descriptors: COLD 1, THR 100, that kind, stack 2, channel 5 for a bank-local extent; COLD 0; a reserved bit. -/
def okDesc (kind : Nat) : Nat := kind * 2 ^ 31 + 2 * 2 ^ 36 + (if kind = 2 then 5 else 0) * 2 ^ 39 + 2 ^ 44 + 100 * 2 ^ 52
/-- A cast of extent 3, which is not of another, and the handle of none. -/
def castExtent : Extent := { anExtent with casts := [aCast] }
/-- Another context's extent. -/
def otherExtent : Extent := { anExtent with ctx := 2 }

theorem test_meets_ExtentCommands_all :
    (∀ op < 9, ExtentMet [otherExtent] op (extentCmd op 3 0 0 0) ∧ (extentState [otherExtent] 0).extent? 3 = some otherExtent ∧ otherExtent.ctx ≠ 1 ∧
      ExtentMet [] op (extentCmd op 3 0 0 0) ∧ (extentState [] 0).extent? 3 = none) ∧
    (∀ kind < 4, let x := extentCmd 0 8191 0 (okDesc kind) 0
      ExtentMet [anExtent] 0 x ∧ (extentState [anExtent] x).extent? 8191 = none ∧ field (cmdDesc x) 1 30 = 0 ∧
      (extentState [anExtent] x).createOk (extentFrom 8191 1 (cmdDesc x) 512) = true) ∧
    (let x := extentCmd 0 8191 0 (2 * 2 ^ 36) 0
     ExtentMet [anExtent] 0 x ∧ (extentState [anExtent] x).createOk (extentFrom 8191 1 (cmdDesc x) 0) = false) ∧
    (let x := extentCmd 0 8191 0 (okDesc 0 + 2 ^ 30) 0
     ExtentMet [anExtent] 0 x ∧ field (cmdDesc x) 1 30 ≠ 0) := by decide +kernel

theorem test_meets_ExtentCommands_create : let x := extentCmd 0 3 0 (okDesc 0) 0
    ExtentMet [anExtent] 0 x ∧ (extentState [anExtent] x).extent? 3 = some anExtent ∧ anExtent.ctx = (cmdQueue 4).ctx := by decide +kernel

theorem test_meets_ExtentCommands_buffers :
    (∀ op ∈ [3, 4], ∀ e ∈ [anExtent, { anExtent with casts := List.replicate 64 aCast }, { anExtent with kind := 1 }], ∀ buf ∈ [0x8340, 0x8341],
      let x := extentCmd op 3 0 0 buf
      ExtentMet [e] op x ∧ (extentState [e] x).extent? 3 = some e ∧ e.descriptor < 2 ^ 256 ∧ cmdBuf x + 37 ≤ (cmdQueue 4).slotAddr 15 + 56) ∧
    ExtentMet [] 3 (extentCmd 3 3 0 0 0x8340) ∧ anExtent.casts.length < 64 ∧
    (∀ op ∈ [5, 6], ∀ y ∈ [(4 * 2 ^ 19, 0x8340), (3 * 2 ^ 19 + 1, 0x8341), (3 * 2 ^ 19, 0x8380)], let x := extentCmd op 3 y.1 0 y.2
      ExtentMet [castExtent] op x ∧ cmdBuf x + 1 ≤ (cmdQueue 4).slotAddr 15 + 56 ∧ (extentState [castExtent] x).validCast 1 (3 * 2 ^ 19) = none) ∧
    (∀ op ∈ [5, 6], let h := castHandle 3 aCast.idx aCast.gen
      let x := extentCmd op 3 h 0 0x8380
      ExtentMet [castExtent] op x ∧ field (cmdHandle x) 19 13 = 3 ∧ (extentState [castExtent] x).validCast 1 (cmdHandle x) = some (castExtent, aCast) ∧
      Memory.wf (extentState [castExtent] x).image = true ∧ Memory.wf aCast.image = true ∧ (∀ y ∈ aCast.image, extentOf y.1 = 3) ∧
      (extentState [castExtent] x).monitors = []) := by decide +kernel

theorem test_meets_ExtentCommands_own :
    (∀ op ∈ [1, 2, 7, 8], ∀ kind < 4, let e := { anExtent with kind := kind }
      let x := extentCmd op 3 8 (if op = 8 then 2 ^ 26 - 8 else 2 * 2 ^ 84 + 9 * 2 ^ 86 + 10 * 2 ^ 111) 0
      ExtentMet [e] op x ∧ (extentState [e] x).extent? 3 = some e ∧ (extentState [e] x).monitors = [] ∧ (∀ o ∈ (extentState [e] x).ops, o.aux ≠ 3) ∧
      (op = 8 → field (cmdDesc x) 0 32 % 8 = 0 ∧ cmdHandle x + field (cmdDesc x) 0 32 ≤ 2 ^ 26) ∧
      (op = 2 → (extentState [e] x).replicaRule { e with nrep := 2, pdev0 := 9, pdev1 := 10 } = true)) ∧
    (let e := { anExtent with num := 4, nrep := 1, pdev0 := 8 }
     let x := extentCmd 2 3 0 (2 ^ 84 + 9 * 2 ^ 86) 0
     ExtentMet [anExtent, e] 2 x ∧ (extentState [anExtent, e] x).replicaRule { anExtent with nrep := 1, pdev0 := 9 } = false) ∧
    (let x := extentCmd 8 3 16 (2 ^ 26 - 8) 0
     ExtentMet [tableExtent, { anExtent with kind := 1 }] 8 x ∧ 2 ^ 26 < cmdHandle x + field (cmdDesc x) 0 32) := by decide +kernel

/-- A group that is halted with no clause in progress. -/
def haltedG : Group := { aGroup [] with halted := true, runs := [] }
/-- A DEBUG operation on core 0, slot 0, with an object and a buffer. -/
def debugCmd (op object buf : Nat) : Nat := cmdHead 0x0B + op * 2 ^ 64 + object * 2 ^ 88 + buf * 2 ^ 128

theorem test_meets_DebugAndPrivilegedCommands_debug : ∀ op < 7, ∀ object ∈ [0, 5, 6, 255], ∀ g ∈ [haltedG, wGroup], let x := debugCmd op object 0x8300
    let s := withCommand (ctxState aCtx [g] [aTeam]) 4 x
    starts s 4 x (0x0B, op) (debugFields op) = true ∧ s.ctx? 1 = some aCtx ∧ x.testBit 96 = false ∧ field x 192 16 = 0 ∧ field x 224 32 = 0 ∧
    s.haltedGroup 1 x = (if g.halted then some g else none) ∧ field x 128 64 + 8 ≤ (cmdQueue 4).slotAddr 15 + 56 ∧ Memory.wf s.hostMem = true := by
  decide +kernel

/-- PART with its number, masks and fields. -/
def partCmd (num clmask rsvmask lwn : Nat) : Nat :=
  cmdHead 0x10 + num * 2 ^ 64 + clmask * 2 ^ 96 + rsvmask * 2 ^ 128 + (14 + 10 * 2 ^ 5 + lwn * 2 ^ 10 + 4 * 2 ^ 17) * 2 ^ 160
/-- A state with two partitions, the first in use or not. -/
def partState (c : Context) (tms : List Team) (x : Nat) : State :=
  withCommand { ctxState c [] tms with parts := [{ aPart with clmask := 3 }, { aPart with num := 1, clmask := 4 }] } 0 x

theorem test_meets_DebugAndPrivilegedCommands_part :
    (∀ y ∈ [(31, 8, 8, 20, true), (31, 8, 0, 40, true), (0, 3, 1, 20, true), (0, 1, 0, 19, false), (31, 8, 0, 41, false), (31, 8, 16, 20, false)],
      let x := partCmd y.1 y.2.1 y.2.2.1 y.2.2.2.1
      let s := partState aCtx [aTeam] x
      starts s 0 x (0x10, 0) [(64, 5), (96, 64), (160, 22)] = true ∧ (partitionOf x).rangesOk = y.2.2.2.2 ∧
      (y.2.2.2.2 = true → ∀ r ∈ s.parts, r.loses (partitionOf x) = true → s.partBusy r.num = false)) ∧
    (∀ c ∈ [aCtx, savedCtx], let x := partCmd 31 2 0 20
      let s := partState c [if c.saved then savedTeam else aTeam] x
      starts s 0 x (0x10, 0) [(64, 5), (96, 64), (160, 22)] = true ∧ ∃ r ∈ s.parts, r.loses (partitionOf x) = true ∧ s.partBusy r.num = true) := by
  decide +kernel

/-- CTX with its number, event ring and root; QUEUE with a number, a context, a size and a ring. -/
def ctxCmd (num evn ring : Nat) : Nat := cmdHead 0x11 + num * 2 ^ 64 + 0x20000000 * 2 ^ 128 + ring * 2 ^ 192 + evn * 2 ^ 256 + (8 + 2 ^ 13) * 2 ^ 272
def queueCmd (num unbind ctx n ring : Nat) : Nat :=
  cmdHead 0x12 + num * 2 ^ 64 + ctx * 2 ^ 76 + unbind * 2 ^ 89 + n * 2 ^ 96 + ring * 2 ^ 192
/-- A queue that holds a command. -/
def busyQueue : Queue := { aQueue [] with num := 1023 }
/-- Queue 0 with a command, beside others. -/
def adminState (qs : List Queue) (x : Nat) : State :=
  let s := withCommand { aState wGroup with extents := [{ tableExtent with ctx := 4095 }] } 0 x
  { s with queues := s.queues ++ qs }

theorem test_meets_DebugAndPrivilegedCommands_tables :
    (∀ y ∈ [(4095, 6, 0x1000, true), (4095, 16, 0x2000, true), (4095, 5, 0x1000, false), (4095, 17, 0x1000, false), (4095, 6, 0x800, false), (1, 6, 0x1000, false)],
      let x := ctxCmd y.1 y.2.1 y.2.2.1
      starts (adminState [] x) 0 x (0x11, 0) [(64, 17), (128, 136), (272, 21)] = true ∧ (adminState [] x).contextOk (contextOf x) = y.2.2.2) ∧
    (∀ y ∈ [(0, 1, 4, 0), (1023, 1, 3, 0), (1023, 1, 17, 0), (1023, 1, 4, 512), (1023, 2, 4, 0), (1023, 1, 4, 1024), (1023, 1, 16, 2 ^ 22)],
      ∀ qs ∈ [[], [busyQueue], [{ busyQueue with tail := 15 }]], let x := queueCmd y.1 0 y.2.1 y.2.2.1 y.2.2.2
      starts (adminState qs x) 0 x (0x12, 0) queueFields = true ∧ (adminState qs x).queue? 1023 = qs.head? ∧
      ((adminState qs x).ctx? y.2.1 = if y.2.1 = 1 then some aCtx else none)) ∧
    (busyQueue.busy = true ∧ { busyQueue with tail := 15 }.busy = false) ∧
    (∀ num ∈ [0, 1023], ∀ qs ∈ [[], [busyQueue], [{ busyQueue with tail := 15 }]], let x := queueCmd num 1 0 0 0
      starts (adminState qs x) 0 x (0x12, 1) queueFields = true) ∧
    (∀ num ∈ [1, 4095], let x := cmdHead 0x13 + num * 2 ^ 64
      starts (adminState [] x) 0 x (0x13, 0) [(64, 12)] = true ∧ ((adminState [] x).ctx? num = if num = 1 then some aCtx else none) ∧
      ∀ l ∈ (adminState [] x).launches, l.queue ≠ 0) := by decide +kernel

/-! ### Words and steps -/

/-- Well-formed words of one and of three words, with words after them. -/
theorem test_meets_DecodeEncode :
    (Instr.iadd { g := 7, d := 63, a := 63, b := 63, s := true, stall := 3 }).wf = true ∧
    encode (.iadd { g := 7, d := 63, a := 63, b := 63, s := true, stall := 3 }) ≠ [] ∧
    (Instr.slitW64 { d := 62, stall := 3 } 0xFFFFFFFF 1).wf = true ∧ (encode (.slitW64 { d := 62, stall := 3 } 0xFFFFFFFF 1)).length = 3 := by decide
theorem test_meets_EncodeDecode : decode [0x540C0004#32, 0x20001#32, 0x40003#32, 9#32] = .ok (.slitW64 { d := 6, stall := 0 } 0x20001 0x40003, [9#32]) := rfl

/-- A strict partition whose slot table gives the cycle to another kernel slot. -/
def strictState (g : Group) : State :=
  { aState g with
    parts := [{ aPart with strict := true }]
    cores := [{ aCore 0 0 with table := [some 3] }] }

/-- A group at a word on the agenda, and with an empty one; a word that cannot be read; an event on the agenda. -/
theorem test_meets_StepRunsDecoded :
    (∀ w ∈ [(0x601240C3#32, true), (0x040828D8#32, false)], let g := aGroup [w.1]
      let s := { aState g with agenda := [.run 1] }
      s.group? 1 = some g ∧ ({ aState g with focus := 1 } : State).current? g = some (rowRun [w.1]) ∧ (rowRun [w.1]).words.drop (rowRun [w.1]).pos = [w.1] ∧
      (match decode [w.1] with | .ok _ => true | .error _ => false) = w.2 ∧ ({ s with agenda := [] } : State).nextToRun = some g ∧ s.mayStart g = true) ∧
    (let g := { aGroup [0x601240C3#32] with halted := true, place := .saved }
     (aState g).group? 1 = some g ∧ (aState g).current? g = some (rowRun [0x601240C3#32]) ∧ (aState g).mayStart g = false ∧ (aState g).mayGo g = true) ∧
    (let g := aGroup [0x601240C3#32]
     let s := strictState g
     s.group? 1 = some g ∧ ({ s with focus := 1 } : State).current? g = some (rowRun [0x601240C3#32]) ∧ s.mayStart g = false ∧ s.mayGo g = false) ∧
    ({ aState wGroup with agenda := [.event (.powerCap 5)] } : State).agenda = [.event (.powerCap 5)] ∧ encode (.powerCap 5) = [] := by
  refine ⟨?_, ⟨rfl, rfl, rfl, rfl⟩, ⟨rfl, rfl, rfl, rfl⟩, rfl, rfl⟩
  simp only [List.forall_mem_cons]
  exact ⟨⟨rfl, rfl, rfl, rfl, rfl, rfl⟩, ⟨rfl, rfl, rfl, rfl, rfl, rfl⟩, by simp⟩

/-- From reset the machine steps, and its memories are in canonical form. -/
theorem test_meets_StepKeepsMemories : MemoriesOk State.reset ∧ ∃ t, step State.reset = .next t := ⟨State.reset_memoriesOk, _, rfl⟩

end Sys2Proof.Tests
end

/-! ## Compares: the combine types (04_encoding R74) and the conditions (08_alu R155) -/
namespace Sys2Proof.Machine

/-- The predicate writes of a compare in one lane of its split (R74). -/
def comparePreds (o : ArgsCmp) (guard c : Bool) : List (Nat × Bool) :=
  match combined o.k guard c with
  | some (x, y) => [(o.p, x), (o.q, y)]
  | none => []

/-- What a compare commits: the predicates of its split and the flags of Issue. -/
def Ctx.compareEffect (c : Ctx) (o : ArgsCmp) (f : Nat → Bool × Flags) : Effect :=
  { p := c.combineAll o fun l => ((assoc (c.issue.map fun l => (l, f l)) l).map (·.1)).getD false
    flags := (c.issue.map fun l => (l, f l)).foldl (fun a r => a ||| r.2.2) 0 }

theorem State.compare_eq (s : State) (o : ArgsCmp) (u : Uses) (F : Ctx → Nat → Bool × Flags) :
    s.compare o u F = s.wordOf .each (some o.g) u fun c => c.commit (c.compareEffect o (F c)) 0 1 := rfl

/-- The machine's table of R74, predicate by predicate, is the table that gives both predicates at once; the condition counts only where the
guard is true. -/
theorem combine_eq_combined (k : Nat) (guard c : Bool) :
    combine k guard (guard && c) = ((combined k guard c).map Prod.fst, (combined k guard c).map Prod.snd) := by
  match k with
  | 0 | 1 | 2 | 3 | 4 | 5 | 6 | 7 | _ + 8 => cases guard <;> cases c <;> rfl

/-- The value found for a lane in a list with one value for each of some lanes. -/
theorem assoc_map {α : Type} (ls : List Nat) (f : Nat → α) (l : Nat) :
    assoc (ls.map fun i => (i, f i)) l = if l ∈ ls then some (f l) else none := by
  induction ls with
  | nil => rfl
  | cons x xs ih =>
    by_cases e : x = l
    · simp [assoc, e]
    · have e' : ¬ l = x := fun h => e h.symm
      simpa [assoc, e, e'] using ih

/-- A lane of the split is in Issue where its guard is true (R8). -/
theorem Group.contains_issueOf {g : Group} {r : Run} {p l : Nat} (h : l ∈ g.splitOf r) : (g.issueOf r p).contains l = (g.lane l).getP p := by
  rw [Bool.eq_iff_iff, List.contains_iff_mem, Group.issueOf, List.mem_filter]
  simp [h]

/-- A compare lists the writes of R74 lane by lane, for every lane of its split. -/
theorem Ctx.compareEffect_p (s : State) (g : Group) (r : Run) (o : ArgsCmp) (f : Nat → Bool × Flags) :
    ((ctxOf s g r (some o.g)).compareEffect o f).p
      = (g.splitOf r).flatMap fun l => (comparePreds o ((g.lane l).getP o.g) (f l).1).map fun x => (l, x) := by
  refine congrArg List.flatten (List.map_congr_left fun l (hl : l ∈ g.splitOf r) => ?_)
  have hc : ((g.lane l).getP o.g && ((assoc ((g.issueOf r o.g).map fun l => (l, f l)) l).map (·.1)).getD false)
      = ((g.lane l).getP o.g && (f l).1) := by
    rw [← Group.contains_issueOf hl]
    by_cases hi : l ∈ g.issueOf r o.g <;> simp [assoc_map, hi]
  simp only [ctxOf, Group.contains_issueOf hl, hc, combine_eq_combined, comparePreds]
  cases combined o.k ((g.lane l).getP o.g) (f l).1 <;> rfl

theorem Ctx.compareEffect_preds (s : State) (g : Group) (r : Run) (o : ArgsCmp) (f : Nat → Bool × Flags) :
    ((ctxOf s g r (some o.g)).compareEffect o f).preds
      = fun l => if l ∈ g.splitOf r then comparePreds o ((g.lane l).getP o.g) (f l).1 else [] := by
  funext l
  rw [Effect.preds, Ctx.compareEffect_p, filter_flatMap_lane _ (g.splitOf_nodup r)]

theorem Ctx.compareEffect_flags (s : State) (g : Group) (r : Run) (o : ArgsCmp) (f : Nat → Bool × Flags) :
    ((ctxOf s g r (some o.g)).compareEffect o f).flags = unionOver (g.issueOf r o.g) fun l => (f l).2 :=
  List.foldl_map

/-- A word that the machine executes as a compare writes as R74 says, where its condition and flags are those of its settled registers. -/
theorem CompareWrites.of {i : Instr} {o : ArgsCmp} {cond : Group → Nat → Bool} {fl : Group → Nat → Flags} {u : Uses}
    {F : Ctx → Nat → Bool × Flags} (hshare : shareOf i = .each) (huses : usesOf i = u) (he : ∀ s, exec i s = s.compare o u F)
    (hF : ∀ c : Ctx, Settled c.g u → ∀ l, F c l = (cond c.g l, fl c.g l)) : CompareWrites i o cond fl := by
  subst huses
  refine Completes.of (some o.g) (fun c => c.compareEffect o (F c)) 0 1 1 true (fun s => by rw [hshare, he, State.compare_eq]) ?_ ?_ ?_ ?_
  · intro s g r a hu x hx; cases hx
  · intro s g r a hu x hx
    rw [Ctx.compareEffect_p] at hx
    obtain ⟨l, hl, hx⟩ := List.mem_flatMap.mp hx
    obtain ⟨y, -, rfl⟩ := List.mem_map.mp hx
    exact hl
  · intro s g r a hu x hx; cases hx
  · intro s g r a hu
    rw [Ctx.compareEffect_preds, Ctx.compareEffect_flags, funext (hF (ctxOf s g r (some o.g)) hu)]
    rfl

/-! ### The conditions of R155 -/

/-- NV is raised where one of the operands signals (R109). -/
theorem signalling_eq (t : Fmt) (a b : Nat) : signalling t a b = (t.value a).snanFlag ||| (t.value b).snanFlag := by
  unfold signalling FVal.snanFlag flagIf
  cases (t.value a).isSnan <;> cases (t.value b).isSnan <;> decide

/-- A compare of v registers with an integer condition. -/
theorem CompareWrites.of_vr {i : Instr} {o : ArgsCmp} {cond : Word → Word → Bool} (hshare : shareOf i = .each)
    (huses : usesOf i = { vr := [o.a, o.b] })
    (he : ∀ s, exec i s = s.compare o { vr := [o.a, o.b] } fun c l => (cond (c.v l o.a) (c.v l o.b 1), 0)) :
    CompareWrites i o (fun g l => cond (g.vr l o.a) (g.vr l o.b)) (fun _ _ => 0) :=
  .of hshare huses he fun c h l => by rw [h.v rfl (by simp), h.v rfl (by simp)]

theorem icmp_writes (o : ArgsCmp) : CompareWrites (.icmp o) o (fun g l => icmpCond o.c (g.vr l o.a) (g.vr l o.b)) (fun _ _ => 0) :=
  .of_vr rfl rfl fun _ => rfl

theorem ucmp_writes (o : ArgsCmp) :
    CompareWrites (.ucmp o) o (fun g l => ucmpCond o.c (g.vr l o.a) (g.vr l o.b)) (fun _ _ => 0) :=
  .of_vr rfl rfl fun _ => rfl

theorem fcmp_writes (o : ArgsCmp) :
    CompareWrites (.fcmp o) o (fun g l => (floatCond F32 o.c (g.vr l o.a).toNat (g.vr l o.b).toNat).1)
      (fun g l => signalling F32 (g.vr l o.a).toNat (g.vr l o.b).toNat) :=
  .of (F := fun c l => floatCond F32 o.c (c.v l o.a).toNat (c.v l o.b 1).toNat) rfl rfl (fun _ => rfl) fun c h l => by
    rw [h.v rfl (by simp), h.v rfl (by simp), signalling_eq]
    rfl

theorem dcmp_writes (o : ArgsCmp) :
    CompareWrites (.dcmp o) o (fun g l => (floatCond F64 o.c (g.vr64 l o.a).toNat (g.vr64 l o.b).toNat).1)
      (fun g l => signalling F64 (g.vr64 l o.a).toNat (g.vr64 l o.b).toNat) :=
  .of (F := fun c l => floatCond F64 o.c (c.v64 l o.a).toNat (c.v64 l o.b 1).toNat) rfl rfl (fun _ => rfl) fun c h l => by
    rw [Ctx.v64_settled h _ _ _ (by simp [pairOf]) (by simp [pairOf]), Ctx.v64_settled h _ _ _ (by simp [pairOf]) (by simp [pairOf]),
      signalling_eq]
    rfl

theorem scmp_writes (o : ArgsCmp) : CompareWrites (.scmp o) o (fun g _ => scmpCond o.c (g.getS o.a) (g.getS o.b)) (fun _ _ => 0) :=
  .of (F := fun c _ => (scmpCond o.c (c.s1 o.a) (c.s1 o.b 1), 0)) rfl rfl (fun _ => rfl) fun c h l => by
    rw [Ctx.s1, Ctx.s1, h.sv rfl (by simp), h.sv rfl (by simp)]

/-- The conditions of ICMP, code by code. -/
theorem icmpCond_eq (k : Nat) (a b : Word) :
    icmpCond k a b = match k with
      | 0 => decide (a = b)
      | 1 => decide (a.toInt < b.toInt)
      | 2 => decide (a.toInt ≤ b.toInt)
      | _ => decide (a &&& b ≠ 0) := by
  match k with
  | 0 | 1 | 2 => rfl
  | _ + 3 => exact Bool.eq_iff_iff.mpr (by simp [icmpCond])

/-- Settles O10: the five compares differ in where their operands stand and in their condition, which is that of R155 for each code; what they
write is R74's table in each case. -/
theorem compares : Obligations.Compares := by
  intro o
  refine ⟨?_, ucmp_writes o, fcmp_writes o, dcmp_writes o, scmp_writes o⟩
  have h := icmp_writes o
  simp only [icmpCond_eq] at h
  exact h

end Sys2Proof.Machine

/-! ## MIX: a keyed bijection (08_alu R139) -/
namespace Sys2Proof.Machine

/-- The inverse of round i that R139 gives. -/
def unmixStep (h : Nat) (key : DWord) (i : Nat) (y : Nat × Nat) : Nat × Nat := (y.2 ^^^ mixTop h key i y.1, y.1)
/-- The four rounds of R139, and their inverses in the opposite order. -/
def mixRounds (h : Nat) (key : DWord) (x : Nat × Nat) : Nat × Nat :=
  mixStep h key 3 (mixStep h key 2 (mixStep h key 1 (mixStep h key 0 x)))
def unmixRounds (h : Nat) (key : DWord) (y : Nat × Nat) : Nat × Nat :=
  unmixStep h key 0 (unmixStep h key 1 (unmixStep h key 2 (unmixStep h key 3 y)))

/-- The two halves of a number of 2h bits, and the number of two halves. -/
def splitHalves (h x : Nat) : Nat × Nat := (x / 2 ^ h, x % 2 ^ h)
def joinHalves (h : Nat) (y : Nat × Nat) : Nat := y.1 * 2 ^ h + y.2

/-- Both parts of a pair have h bits. -/
def Halves (h : Nat) (x : Nat × Nat) : Prop := x.1 < 2 ^ h ∧ x.2 < 2 ^ h

/-! ### A round -/

theorem unmixStep_mixStep (h : Nat) (k : DWord) (i : Nat) (x : Nat × Nat) : unmixStep h k i (mixStep h k i x) = x := by
  simp only [unmixStep, mixStep, Nat.xor_assoc, Nat.xor_self, Nat.xor_zero]

theorem mixStep_unmixStep (h : Nat) (k : DWord) (i : Nat) (y : Nat × Nat) : mixStep h k i (unmixStep h k i y) = y := by
  simp only [unmixStep, mixStep, Nat.xor_assoc, Nat.xor_self, Nat.xor_zero]

/-- t has h bits. -/
theorem mixTop_lt {h : Nat} (hh : h ≤ 32) (k : DWord) (i lo : Nat) : mixTop h k i lo < 2 ^ h := by
  have e : 2 ^ (32 - h) * 2 ^ h = 2 ^ 32 := by rw [← Nat.pow_add, Nat.sub_add_cancel hh]
  exact Nat.div_lt_of_lt_mul (e.symm ▸ Nat.mod_lt _ (Nat.two_pow_pos 32))

theorem mixStep_halves {h : Nat} (hh : h ≤ 32) (k : DWord) (i : Nat) {x : Nat × Nat} (hx : Halves h x) : Halves h (mixStep h k i x) :=
  ⟨hx.2, Nat.xor_lt_two_pow hx.1 (mixTop_lt hh k i x.2)⟩

theorem unmixStep_halves {h : Nat} (hh : h ≤ 32) (k : DWord) (i : Nat) {y : Nat × Nat} (hy : Halves h y) : Halves h (unmixStep h k i y) :=
  ⟨Nat.xor_lt_two_pow hy.2 (mixTop_lt hh k i y.1), hy.1⟩

/-! ### The four rounds -/

theorem unmixRounds_mixRounds (h : Nat) (k : DWord) (x : Nat × Nat) : unmixRounds h k (mixRounds h k x) = x := by
  simp only [unmixRounds, mixRounds, unmixStep_mixStep]

theorem mixRounds_unmixRounds (h : Nat) (k : DWord) (y : Nat × Nat) : mixRounds h k (unmixRounds h k y) = y := by
  simp only [unmixRounds, mixRounds, mixStep_unmixStep]

theorem mixRounds_halves {h : Nat} (hh : h ≤ 32) (k : DWord) {x : Nat × Nat} (hx : Halves h x) : Halves h (mixRounds h k x) :=
  mixStep_halves hh k 3 (mixStep_halves hh k 2 (mixStep_halves hh k 1 (mixStep_halves hh k 0 hx)))

theorem unmixRounds_halves {h : Nat} (hh : h ≤ 32) (k : DWord) {y : Nat × Nat} (hy : Halves h y) : Halves h (unmixRounds h k y) :=
  unmixStep_halves hh k 0 (unmixStep_halves hh k 1 (unmixStep_halves hh k 2 (unmixStep_halves hh k 3 hy)))

/-! ### Halves -/

theorem splitHalves_halves {h x : Nat} (hx : x < 2 ^ (2 * h)) : Halves h (splitHalves h x) :=
  ⟨Nat.div_lt_of_lt_mul (by rwa [← Nat.pow_add, ← Nat.two_mul]), Nat.mod_lt _ (Nat.two_pow_pos h)⟩

theorem joinHalves_lt {h : Nat} {y : Nat × Nat} (hy : Halves h y) : joinHalves h y < 2 ^ (2 * h) := by
  obtain ⟨h1, h2⟩ := hy
  calc y.1 * 2 ^ h + y.2 < (y.1 + 1) * 2 ^ h := by rw [Nat.succ_mul]; omega
    _ ≤ 2 ^ h * 2 ^ h := Nat.mul_le_mul_right _ h1
    _ = 2 ^ (2 * h) := by rw [← Nat.pow_add, ← Nat.two_mul]

theorem joinHalves_splitHalves (h x : Nat) : joinHalves h (splitHalves h x) = x := Nat.div_add_mod' x (2 ^ h)

theorem splitHalves_joinHalves {h : Nat} {y : Nat × Nat} (hy : Halves h y) : splitHalves h (joinHalves h y) = y := by
  obtain ⟨hi, lo⟩ := y
  have hlo : lo < 2 ^ h := hy.2
  simp only [splitHalves, joinHalves, Nat.add_comm _ lo, Nat.add_mul_div_right lo hi (Nat.two_pow_pos h), Nat.add_mul_mod_self_right,
    Nat.div_eq_of_lt hlo, Nat.mod_eq_of_lt hlo, Nat.zero_add]

/-! ### MIX -/

/-- MIX of 2h bits is the four rounds on the halves of the low 2h bits. -/
theorem mixValue_eq (h : Nat) (k : DWord) (a : Word) :
    mixValue (2 * h) k a = BitVec.ofNat 32 (joinHalves h (mixRounds h k (splitHalves h (a.toNat % 2 ^ (2 * h))))) := by
  simp only [mixValue, Nat.mul_div_cancel_left h Nat.two_pos]
  rfl

section
variable {h : Nat} (hh : h ≤ 16) (k : DWord)
include hh

/-- The rounds keep 2h bits, so nothing of them is cut off. -/
theorem mixValue_toNat (a : Word) :
    (mixValue (2 * h) k a).toNat = joinHalves h (mixRounds h k (splitHalves h (a.toNat % 2 ^ (2 * h)))) := by
  have hy := mixRounds_halves (by omega : h ≤ 32) k (splitHalves_halves (Nat.mod_lt a.toNat (Nat.two_pow_pos (2 * h))))
  rw [mixValue_eq, BitVec.toNat_ofNat, Nat.mod_eq_of_lt]
  exact Nat.lt_of_lt_of_le (joinHalves_lt hy) (Nat.pow_le_pow_right Nat.two_pos (by omega))

theorem mixValue_lt (a : Word) : (mixValue (2 * h) k a).toNat < 2 ^ (2 * h) := by
  rw [mixValue_toNat hh]
  exact joinHalves_lt (mixRounds_halves (by omega) k (splitHalves_halves (Nat.mod_lt _ (Nat.two_pow_pos _))))

/-- The inverse rounds give back the low 2h bits of the operand. -/
theorem unmix_mixValue (a : Word) :
    joinHalves h (unmixRounds h k (splitHalves h (mixValue (2 * h) k a).toNat)) = a.toNat % 2 ^ (2 * h) := by
  have hx := splitHalves_halves (Nat.mod_lt a.toNat (Nat.two_pow_pos (2 * h)))
  rw [mixValue_toNat hh, splitHalves_joinHalves (mixRounds_halves (by omega) k hx), unmixRounds_mixRounds, joinHalves_splitHalves]

/-- Every value of 2h bits is the mix of one: of what the inverse rounds make of it. -/
theorem exists_mixValue_eq {y : Nat} (hy : y < 2 ^ (2 * h)) :
    ∃ a : Word, a.toNat < 2 ^ (2 * h) ∧ (mixValue (2 * h) k a).toNat = y := by
  have hx := unmixRounds_halves (by omega : h ≤ 32) k (splitHalves_halves hy)
  have hlt := joinHalves_lt hx
  have ha : (BitVec.ofNat 32 (joinHalves h (unmixRounds h k (splitHalves h y)))).toNat = joinHalves h (unmixRounds h k (splitHalves h y)) :=
    Nat.mod_eq_of_lt (Nat.lt_of_lt_of_le hlt (Nat.pow_le_pow_right Nat.two_pos (by omega)))
  refine ⟨_, ha ▸ hlt, ?_⟩
  rw [mixValue_toNat hh, ha, Nat.mod_eq_of_lt hlt, splitHalves_joinHalves hx, mixRounds_unmixRounds, joinHalves_splitHalves]

end

/-- MIX sets vd to the mixed low bits of va under the key in sb (R139). -/
theorem mix_sets (o : ArgsMix) : SetsV (.mix o) o.g o.d fun g l => mixValue (8 + 4 * o.w) (g.getS o.b) (g.vr l o.a) :=
  .of (lat := 0) (stall := o.stall) (F := fun c l => mixValue (8 + 4 * o.w) (c.sLane l o.b 1) (c.v l o.a)) (fun _ => rfl) (by simp)
    fun c h l _ => by rw [Ctx.sLane, h.sv rfl (by simp), h.v rfl (by simp)]

/-- Settles O3: a round only XORs a value into one half that it computes from the half it keeps, so the rounds have inverses on pairs of
halves, and the halves of the low w bits stand for them one-to-one. -/
theorem mixIsBijection : Obligations.MixIsBijection := by
  have width (c : Nat) : 8 + 4 * c = 2 * (4 + 2 * c) := by omega
  refine ⟨fun o _ => ?_, unmixStep_mixStep, fun k c hc => ?_⟩
  · have hm := mix_sets o
    simp only [width, mixValue_eq] at hm
    exact hm
  · have hh : 4 + 2 * c ≤ 16 := by omega
    rw [width]
    refine ⟨mixValue_lt hh k, fun a b hab => ?_, fun y => exists_mixValue_eq hh k⟩
    rw [← unmix_mixValue hh k a, hab, unmix_mixValue hh k b]

/-! ## Moves (08_alu R157, R158, R161; 04_encoding R72) -/

theorem mov_sets (o : ArgsR2) : SetsV (.mov o) o.g o.d fun g l => g.vr l o.a :=
  .of (lat := 2) (stall := o.stall) (F := fun c l => c.v l o.a) (fun _ => rfl) (by simp [Uses.r2])
    fun c h l _ => h.v rfl (by simp [Uses.r2]) l 0 false

theorem movs_sets (o : ArgsMovs) : SetsV (.movs o) o.g o.d fun g _ => if o.hi then Word.hi (g.getS o.a) else Word.lo (g.getS o.a) :=
  .of (lat := 2) (stall := o.stall) (F := fun c l => if o.hi then Word.hi (c.sLane l o.a) else Word.lo (c.sLane l o.a)) (fun _ => rfl)
    (by simp) fun c h l _ => by rw [Ctx.sLane, h.sv rfl (by simp)]

/-- Settles O11: a settled source is read as it stands, and MOV writes it, MOVS the half of it that .HI names. -/
theorem movesCopyBits : Obligations.MovesCopyBits := ⟨mov_sets, movs_sets⟩

/-- A word that commits v registers of lanes of Issue completes with what it lists for each lane. -/
theorem Completes.of_v {i : Instr} {w : State → Group → Run → Nat → List (Nat × Word)} {guard : Nat} (v : Ctx → List (Nat × Nat × Word))
    (lt n contrib : Nat) (own : Bool)
    (he : ∀ s, exec i s = s.wordOf (shareOf i) (some guard) (usesOf i) fun c => c.commit { v := v c } lt contrib n own)
    (hv : ∀ s g r, ∀ x ∈ v (ctxOf s g r (some guard)), x.1 ∈ g.issueOf r guard ∧ x.2.1 ∈ (usesOf i).vw)
    (hw : ∀ s g r, Settled g (usesOf i) → ∀ l, Effect.lane { v := v (ctxOf s g r (some guard)) } l = w s g r l) :
    Completes i fun s g r => { v := w s g r } := by
  refine Completes.of (some guard) (fun c => { v := v c }) lt n contrib own he ?_ ?_ ?_ ?_
  · intro s g r _ _ x hx
    exact ⟨Group.mem_splitOf_of_issueOf (hv s g r x hx).1, (hv s g r x hx).2⟩
  · intro s g r _ _ x hx; cases hx
  · intro s g r _ _ x hx; cases hx
  · intro s g r _ hu
    simp only [← funext (hw s g r hu)]
    rfl

theorem vlit_sets (o : ArgsVLit) (x : Word) : SetsV (.vlit o x) o.g o.d fun _ _ => x := by
  refine Completes.of_v (fun c => c.issue.map fun l => (l, o.d, x)) 2 2 (1 + o.stall) true (fun _ => rfl) ?_ ?_
  · intro s g r y hy
    obtain ⟨l, hl, rfl⟩ := List.mem_map.mp hy
    exact ⟨hl, by simp⟩
  · intro s g r _ l
    exact filter_map_lane _ (g.issueOf_nodup r o.g) (fun _ => (o.d, x)) l

/-- Registers that are settled are settled for a word that uses only some of them. -/
theorem Settled.mono {g : Group} {u w : Uses} (h : Settled g u) (hv : w.vr ++ w.vw ++ w.names ⊆ u.vr ++ u.vw ++ u.names)
    (hs : w.sr ++ w.sw ⊆ u.sr ++ u.sw) : Settled g w where
  fresh l n hn := h.fresh l n (hv hn)
  pend l n hn := h.pend l n (hv hn)
  sfresh n hn := h.sfresh n (hs hn)
  spend n hn := h.spend n (hs hn)

/-- RDLN would read v register n of lane l early or while it is pending; it measures by the group's distance (R158). -/
def Ctx.lnEarly (c : Ctx) (l n : Nat) : Bool :=
  (match (c.g.lane l).fresh.find? fun f => f.reg == n with
    | some f => c.isShort l true f
    | none => false) || (c.g.lane l).pend.any fun p => p.reg == n

theorem execRdln_eq (o : ArgsLn) (s : State) :
    execRdln o s = s.joined none { sw := [o.d] } fun c =>
      if s.checkedOf c.g && c.lnEarly o.lane o.a then s.killGroup c.g.gid 0x04
      else c.commit { s := [(o.d, (c.v o.lane o.a 0 true).setWidth 64)] } 2 (1 + o.stall) := rfl

theorem Settled.not_lnEarly {c : Ctx} {u : Uses} (h : Settled c.g u) {n : Nat} (hn : n ∈ u.vr ++ u.vw ++ u.names) (l : Nat) :
    c.lnEarly l n = false := by
  refine Bool.or_eq_false_iff.mpr ⟨?_, by simpa using h.pend l n hn⟩
  cases hf : (c.g.lane l).fresh.find? fun f => f.reg == n with
  | none => rfl
  | some f => exact c.isShort_due l true f (h.fresh l n hn f (List.mem_of_find?_eq_some hf) (by simpa using List.find?_some hf))

theorem rdln_sets (o : ArgsLn) : SetsS (.rdln o) o.d fun g => (g.vr o.lane o.a).setWidth 64 := by
  intro s g r a hu
  have hn : o.a ∈ (usesOf (.rdln o)).vr ++ (usesOf (.rdln o)).vw ++ (usesOf (.rdln o)).names := by simp
  have hw : Settled g { sw := [o.d] } := hu.mono (by simp) (by simp)
  let c := ctxOf s g r none
  have he : exec (.rdln o) s = .next (c.commit { s := [(o.d, (g.vr o.lane o.a).setWidth 64)] } 2 (1 + o.stall)) := by
    have hearly : c.lnEarly o.lane o.a = false := Settled.not_lnEarly hu hn o.lane
    have hread : c.v o.lane o.a 0 true = g.vr o.lane o.a := hu.v rfl hn o.lane 0 true
    calc exec (.rdln o) s
      _ = .next (if s.checkedOf g && c.lnEarly o.lane o.a then s.killGroup g.gid 0x04
            else c.commit { s := [(o.d, (c.v o.lane o.a 0 true).setWidth 64)] } 2 (1 + o.stall)) :=
          (execRdln_eq o s).trans (State.wordOf_eq a none hw _)
      _ = _ := by simp [hearly, hread]
  refine ⟨_, he, Ctx.commit_wrote a _ _ 2 (1 + o.stall) 1 true (by simp) (by simp) (by simp) fun x hx h0 => ?_⟩
  obtain rfl := List.mem_singleton.mp hx
  exact hu.spend o.d (by simp) h0

theorem wrln_writes (o : ArgsLn) : Completes (.wrln o) fun _ g r =>
    { v := fun l => if l = o.lane ∧ l ∈ g.issueOf r o.g then [(o.d, Word.lo (g.getS o.a))] else [] } := by
  refine Completes.of_v (guard := o.g) (fun c => if c.issue.contains o.lane then [(o.lane, o.d, Word.lo (c.s1 o.a))] else [])
    2 1 (1 + o.stall) false (fun _ => rfl) ?_ ?_
  · intro s g r x hx
    by_cases hi : o.lane ∈ g.issueOf r o.g
    · obtain rfl : x = _ := by simpa [ctxOf, hi] using hx
      exact ⟨hi, by simp⟩
    · simp [ctxOf, hi] at hx
  · intro s g r hu l
    have hread : (ctxOf s g r (some o.g)).s1 o.a = g.getS o.a := hu.sv rfl (by simp) _ 0
    simp only [hread]
    by_cases hl : l = o.lane
    · subst hl
      by_cases hi : o.lane ∈ g.issueOf r o.g <;> simp [ctxOf, Effect.lane, hi]
    · have hl' : ¬ o.lane = l := fun e => hl e.symm
      by_cases hi : o.lane ∈ g.issueOf r o.g <;> simp [ctxOf, Effect.lane, hi, hl, hl']

theorem rdpc_writes (o : ArgsR1) : Completes (.rdpc o) fun _ g r =>
    { v := fun l => if l ∈ g.issueOf r o.g then [(o.d, Word.lo r.hdr), (o.d + 1, Word.hi r.hdr)] else [] } := by
  refine Completes.of_v (guard := o.g)
    (fun c => c.issue.flatMap fun l => [(o.d, Word.lo c.r.hdr), (o.d + 1, Word.hi c.r.hdr)].map fun x => (l, x))
    2 1 (1 + o.stall) true (fun _ => rfl) ?_ ?_
  · intro s g r x hx
    obtain ⟨l, hl, hx⟩ := List.mem_flatMap.mp hx
    obtain ⟨y, hy, rfl⟩ := List.mem_map.mp hx
    refine ⟨hl, ?_⟩
    simp only [List.mem_cons, List.not_mem_nil, or_false] at hy
    rcases hy with rfl | rfl
    · exact List.mem_cons_self
    · exact List.mem_cons_of_mem _ List.mem_cons_self
  · intro s g r _ l
    exact filter_flatMap_lane _ (g.issueOf_nodup r o.g) (fun _ => [(o.d, Word.lo r.hdr), (o.d + 1, Word.hi r.hdr)]) l

/-- Settles O12: RDLN reads the lane that it names, whatever the state of that lane; VLIT, WRLN and RDPC write lanes of Issue only. The bits
that the statement extracts are Word.lo and Word.hi. -/
theorem laneAndLiteralMoves : Obligations.LaneAndLiteralMoves := ⟨vlit_sets, rdln_sets, wrln_writes, rdpc_writes⟩

end Sys2Proof.Machine
